-- ==== Sys2Proof/Word.lean ====
section
/-! DEFINITION. The word types of the Stavrok module: 64-bit words, bytes, a 64-bit value with its poison bit
(R122), and the plain-data shape of every sparse store (a sorted list of key and value pairs). -/

namespace Sys2Proof

/-- A 64-bit word: the width of a g register, a queue word and a memory word. -/
abbrev Word := BitVec 64

/-- A byte of any memory. -/
abbrev Byte := BitVec 8

/-- A 64-bit value and the poison bit that travels with it (R122). -/
structure Val where
  v : Word
  p : Bool
  deriving DecidableEq, Repr

/-- The clean zero: what g0 reads (R60) and what every g register holds at reset (R165). -/
def Val.zero : Val := ⟨0, false⟩

/-- A clean value. -/
abbrev Val.clean (v : Word) : Val := ⟨v, false⟩

/-- A sparse store: key and value pairs, keys strictly rising, no entry equal to what an unlisted key reads as. -/
abbrev SMap (α : Type) := List (Nat × α)

end Sys2Proof
end

