-- ==== Sys2Proof/Syntax.lean ====
section
/-! DEFINITION. The operations of the module: one constructor of `Instr` for each row of spec/opcode_table.json. An
instruction of a cell carries its common header (R56) and the fields of its format (R57). An operation of another
agent (a configuration command, an engine step, a service call, an input from outside) names the unit it acts on
and the data it brings. -/

namespace Sys2Proof

/-- Bits [55:44] of an instruction word (R56): wait mask, emit bit, emit slot. -/
structure Hdr where
  wm : BitVec 8
  ee : Bool
  es : BitVec 3
  deriving DecidableEq, Repr

/-- Bits [43:0] of format R (R57). -/
structure FmtR where
  d : BitVec 6
  a : BitVec 6
  b : BitVec 6
  c : BitVec 6
  sa : BitVec 3
  sb : BitVec 3
  sc : BitVec 3
  ty : BitVec 4
  rm : BitVec 3
  sat : Bool
  fn : BitVec 3
  deriving DecidableEq, Repr

/-- Bits [43:0] of format I (R57). -/
structure FmtI where
  d : BitVec 6
  a : BitVec 6
  sa : BitVec 3
  imm : BitVec 29
  deriving DecidableEq, Repr

/-- Bits [43:0] of format M (R57). -/
structure FmtM where
  d : BitVec 6
  a : BitVec 6
  b : BitVec 6
  sa : BitVec 3
  sb : BitVec 3
  sz : BitVec 2
  sx : Bool
  scope : BitVec 3
  disp : BitVec 14
  deriving DecidableEq, Repr

/-- Bits [43:0] of format B (R57). -/
structure FmtB where
  d : BitVec 6
  a : BitVec 6
  sa : BitVec 3
  off : BitVec 29
  deriving DecidableEq, Repr

/-- Bits [43:0] of format X (R57); `ef` holds the engine fields EF20. -/
structure FmtX where
  d : BitVec 6
  a : BitVec 6
  b : BitVec 6
  c : BitVec 6
  ef : BitVec 20
  deriving DecidableEq, Repr

/-- Bits [43:0] of format V (R57); `z` holds bits [15:11], which must be zero. -/
structure FmtV where
  d : BitVec 6
  a : BitVec 6
  b : BitVec 6
  c : BitVec 6
  p : BitVec 3
  pz : Bool
  z : BitVec 5
  ty : BitVec 4
  rm : BitVec 3
  sat : Bool
  fn : BitVec 3
  deriving DecidableEq, Repr

/-- A configuration master and one of its issuers: the master of row `row`; issuer 0 is the loader and issuer 1 + y
the row manager of row y (R43, R46). -/
structure Master where
  row : Nat
  issuer : Nat
  deriving DecidableEq, Repr

/-- Where a queue word comes from: consumer `consumer` of the outbound endpoint OUT[port] of a cell, an EAG in queue
mode, an inbound host queue, a message that sits in no window (a phase grant, a SEQSYNC word), the counter chain of the cell
itself, the SEQSYNC word of OUT[port] of a cell, a producer in another module, or one at the far end of a circuit that comes in on a channel
of a link port. -/
inductive Src where
  | cell (cell port consumer : Nat)
  | eag (eag : Nat)
  | host (port queue : Nat)
  | net (index : Nat)
  | chain
  | sync (cell port : Nat)
  | far (module : Nat) (src : Src)
  | channel (link chan : Nat)
  deriving DecidableEq, Repr

/-- A write waiting for its home tile: access k of a cell, or entry k of a block's combining buffer. -/
inductive TileSrc where
  | cell (cell k : Nat)
  | comb (block k : Nat)
  deriving DecidableEq, Repr

/-- A call: that of the SVC at place k in the program order of a cell, or call n of the mailbox of a host port (R465,
R480). -/
inductive CallId where
  | cell (cell k : Nat)
  | mailbox (port n : Nat)
  deriving DecidableEq, Repr

/-- A translation cache (R138). -/
inductive CacheId where
  | cell (cell : Nat)
  | block (block : Nat)
  deriving DecidableEq, Repr

/-- A parity group (R272): 64 words of a cell's local store, or a bank's 64 rows of a vault. -/
inductive ParityGroup where
  | lstore (cell group : Nat)
  | vault (vault bank group : Nat)
  | hbm (word : Nat)
  deriving DecidableEq, Repr

/-- A third firing of one element, and whether a majority exists (R123). -/
structure Refire where
  elem : Nat
  majority : Bool
  deriving DecidableEq, Repr

/-- A host CXL.mem request: a 64-byte line at a host physical address. -/
structure HostReq where
  write : Bool
  addr : Nat
  data : BitVec 512
  deriving DecidableEq, Repr

/-- A flit as it leaves the code of a port (R395): whether the code corrected it, whether its head and payload checks
hold, and its 32 words. -/
structure Flit where
  good : Bool
  headOk : Bool
  payloadOk : Bool
  words : List Word
  deriving DecidableEq, Repr

/-- A queue word with the attributes of R209, its full sequence number, and the domains of R433. -/
structure QWord where
  v : Word
  p : Bool
  tag : BitVec 3
  punit : BitVec 18
  seq : BitVec 32
  pos : BitVec 2
  len : BitVec 10
  dom : BitVec 12
  ddom : BitVec 12
  deriving DecidableEq, Repr

/-- Who asked for a word of global memory: an access of a cell, by its place in program order; a word of a copy command, by its
place in the command; a word of a generator's stream, 64 times its element and its place; the word at a virtual address that the
pair of a sender moves in a phase; or an entry of a block's combining buffer. -/
inductive Asker where
  | cell (cell seq : Nat)
  | copy (block cell seq word : Nat)
  | eag (eag word : Nat)
  | pair (group sender word : Nat)
  | comb (block line : Nat)
  deriving DecidableEq, Repr

/-- What a pair of an exchange phase carries on its circuits (R411, R413): bytes for a place of the receiver's region, the SHORT word, or
the end of a full slot. -/
inductive XItem where
  | bytes (va : Nat) (bs : List (BitVec 8))
  | short (w : Word)
  | last
  deriving DecidableEq, Repr

/-- Exchange control between the arbiter of a system group and the agents on other modules (R407 to R414, log entry 61), named by group,
participant, round and pair. -/
inductive XMsg where
  /-- a post of a remote agent, and its acknowledgement with the round it belongs to (R420) -/
  | post (grp part : Nat) (demand : List Nat) (base limit : Nat)
  | posted (grp part : Nat) (round : BitVec 16)
  /-- the calendar record of a remote agent, and the notice that it is written (R410, R411) -/
  | record (grp part : Nat) (words : List Nat)
  | written (grp part : Nat) (round : BitVec 16)
  /-- the slot of a pair may start, a piece of it, and its end (R411) -/
  | start (grp : Nat) (round : BitVec 16) (phase sender receiver : Nat)
  | item (grp : Nat) (round : BitVec 16) (sender receiver : Nat) (x : XItem)
  | ended (grp : Nat) (round : BitVec 16) (sender receiver : Nat) (short : Bool)
  /-- a remote participant's part is complete (R422) -/
  | left (grp part : Nat) (round : BitVec 16)
  deriving DecidableEq, Repr

/-- What a packet asks for or answers, decoded from its OPF and payload, whose layout the spec does not give (R395, R397,
R399). An access is named by who asked for it. An address is one within the target
module. -/
inductive PacketOp where
  /-- KIND 0: a plain read, or a read of a fill-once word, with the times that a full table has refused it (R277) -/
  | read (addr size : Nat) (fill : Bool) (who : Asker) (nacks : Nat)
  /-- KIND 1: a write, a fill with its RPL bit, a CLRF, the bytes of an entry of a combining buffer as (offset in the line, byte) -/
  | write (addr size : Nat) (data : Word) (who : Asker)
  | fill (addr : Nat) (data : Word) (rpl : Bool) (who : Asker)
  | clear (addr : Nat) (who : Asker)
  | line (addr : Nat) (bytes : List (Nat × BitVec 8)) (who : Asker)
  /-- KIND 2: the atomic or ALD of an opcode -/
  | atomic (op : BitVec 8) (addr size : Nat) (sgn : Bool) (mode : BitVec 3) (rnd : BitVec 32) (b c : Word) (who : Asker)
  /-- KIND 3: the reply to an access of the target module: its cause (0 if none), the value, its poison bit and flags -/
  | reply (who : Asker) (cause : BitVec 8) (data : Word) (poison : Bool) (flags : BitVec 5)
  /-- KIND 3: a read that found the table full is to be sent again (R277) -/
  | nack (who : Asker)
  /-- KIND 3: a deferred read whose page migrates is to be translated again (R140) -/
  | retranslate (who : Asker)
  /-- KIND 3: a word of a producer of the target module is retired, or NACKed -/
  | retire (src : Src) (seq : BitVec 32) (nack : Bool)
  /-- KIND 3: the packet for module dst with this ESEQ was discarded on its way (R397) -/
  | discarded (dst : Nat) (vc : BitVec 2) (eseq : BitVec 32)
  /-- KIND 3: the packet with this ESEQ is acknowledged (R399) -/
  | ack (vc : BitVec 2) (eseq : BitVec 32)
  /-- KIND 4: the words of one message for an inbound endpoint of the target module -/
  | words (cell port : Nat) (src : Src) (ws : List QWord)
  /-- KIND 5: exchange control -/
  | exchange (x : XMsg)
  /-- KIND 6: service -/
  | service
  deriving DecidableEq, Repr

/-- A unit of shared control state (R439). -/
inductive SharedUnit where
  | router (cell : Nat)
  | tile (block : Nat)
  | copyEngine (block : Nat)
  | crossbar
  deriving DecidableEq, Repr

/-- A repair action (R455). -/
inductive Repair where
  | retireCell (cell : Nat)
  | remapRow (logical physical : Nat)
  | remapCol (logical physical : Nat)
  | spareChannel (stack channel : Nat)
  | spareLane (port lane : Nat)
  deriving DecidableEq, Repr

/-- One page of an allocation, as the allocator placed it: virtual and physical address. -/
structure PageChoice where
  va : Nat
  pa : Nat
  deriving DecidableEq, Repr

/-- What the bring-up tests of steps 1 to 3 find (R498); a failed row manager with the neighbour that takes its row (R10). -/
structure PowerFacts where
  regulators : Bool
  failedManagers : List (Nat × Nat)
  failedStacks : List Nat
  deriving DecidableEq, Repr

/-- What the bring-up steps from step 4 find (R498): the link ports that train with the peer of each, the cells that fail, whether
the service graph loads, and the width of each host port. -/
structure BringUp where
  portsUp : List (Nat × Nat)
  failedCells : List Nat
  serviceOk : Bool
  hostX8 : List Bool
  deriving DecidableEq, Repr

/-- A handler of a node: the entry and its HA and HB values (R19, R88). -/
structure HandlerDesc where
  entry : Nat
  ha : BitVec 32
  hb : BitVec 32
  deriving DecidableEq, Repr

/-- A node of a load image (R88 to R90). -/
structure NodeDesc where
  name : String
  units : Nat
  shape : List Nat
  grid : List Nat
  handlers : List HandlerDesc
  code : List Word
  data : List Byte
  deriving DecidableEq, Repr

/-- An edge of a load image (R88, R205): ports are (node, port); `lens` lists the declared message lengths (R215). -/
structure EdgeDesc where
  name : String
  fromNode : Nat
  fromPort : Nat
  dests : List (Nat × Nat)
  cap : Nat
  window : Nat
  prio : Nat
  tags : BitVec 8
  circuit : Bool
  lens : List Nat
  deriving DecidableEq, Repr

/-- A global region of a load image (R90): kind as in R136, size in bytes, page size code, and the words the image
gives as (byte offset, value). -/
structure RegionDesc where
  kind : BitVec 2
  size : Nat
  page : BitVec 2
  data : List (Nat × Byte)
  deriving DecidableEq, Repr

/-- A use of a symbol bound at load (R94): in which word of a node's code (`site` 0), of its local data (1) or of a region's
data (2, `node` is then the region), which symbol, and how (`part`: 0 IMM29, 1 lo, 2 hi, 3 the word). -/
structure SymbolUse where
  node : Nat
  index : Nat
  site : BitVec 2
  global : Bool
  symbol : Nat
  offset : Nat
  part : BitVec 2
  deriving DecidableEq, Repr

/-- A load image as galas makes it (R80 to R95): its layout in memory is not stated by the spec, so the operation that
loads it carries it as this record. -/
structure Image where
  wellFormed : Bool
  nodes : List NodeDesc
  edges : List EdgeDesc
  regions : List RegionDesc
  params : List Word
  uses : List SymbolUse
  deriving DecidableEq, Repr

/-- The loader's choices, which the spec leaves to it: whether everything fits now; the cell of every unit, node by node, counted
through the system: its number plus 262,144 times its module's; the
generator of every EAG entry; the virtual address of every region and its pages in order; a fresh domain and a graph ID;
and the fields of page 6 that it adds for circuit lanes and barrier trees, as (cell, field, value), with those of the channels of
link port p as (262,144 + p, field, value). -/
structure Placement where
  fits : Bool
  cells : List Nat
  eags : List Nat
  vas : List Nat
  pages : List PageChoice
  dom : BitVec 12
  graph : BitVec 32
  fields : List (Nat × Nat × BitVec 32)
  deriving DecidableEq, Repr

/-- One constructor for each row of spec/opcode_table.json. -/
inductive Instr where
  /-- NOP, opcode 0x00, format R -/
  | nop (h : Hdr) (f : FmtR)
  /-- ADD, opcode 0x01, format R -/
  | add (h : Hdr) (f : FmtR)
  /-- SUB, opcode 0x02, format R -/
  | sub (h : Hdr) (f : FmtR)
  /-- ADDS, opcode 0x03, format R -/
  | adds (h : Hdr) (f : FmtR)
  /-- MUL, opcode 0x04, format R -/
  | mul (h : Hdr) (f : FmtR)
  /-- MULH, opcode 0x05, format R -/
  | mulh (h : Hdr) (f : FmtR)
  /-- MULHN, opcode 0x06, format R -/
  | mulhn (h : Hdr) (f : FmtR)
  /-- DIV, opcode 0x07, format R -/
  | div (h : Hdr) (f : FmtR)
  /-- DIVN, opcode 0x08, format R -/
  | divn (h : Hdr) (f : FmtR)
  /-- REM, opcode 0x09, format R -/
  | rem (h : Hdr) (f : FmtR)
  /-- REMN, opcode 0x0A, format R -/
  | remn (h : Hdr) (f : FmtR)
  /-- AND, opcode 0x0B, format R -/
  | andR (h : Hdr) (f : FmtR)
  /-- OR, opcode 0x0C, format R -/
  | orR (h : Hdr) (f : FmtR)
  /-- XOR, opcode 0x0D, format R -/
  | xorR (h : Hdr) (f : FmtR)
  /-- SHL, opcode 0x0E, format R -/
  | shl (h : Hdr) (f : FmtR)
  /-- SHR, opcode 0x0F, format R -/
  | shr (h : Hdr) (f : FmtR)
  /-- SRA, opcode 0x10, format R -/
  | sra (h : Hdr) (f : FmtR)
  /-- ROTL, opcode 0x11, format R -/
  | rotl (h : Hdr) (f : FmtR)
  /-- CLZ, opcode 0x12, format R -/
  | clz (h : Hdr) (f : FmtR)
  /-- POPC, opcode 0x13, format R -/
  | popc (h : Hdr) (f : FmtR)
  /-- MIN, opcode 0x14, format R -/
  | min (h : Hdr) (f : FmtR)
  /-- MAX, opcode 0x15, format R -/
  | max (h : Hdr) (f : FmtR)
  /-- MINN, opcode 0x16, format R -/
  | minn (h : Hdr) (f : FmtR)
  /-- MAXN, opcode 0x17, format R -/
  | maxn (h : Hdr) (f : FmtR)
  /-- CEQ, opcode 0x18, format R -/
  | ceq (h : Hdr) (f : FmtR)
  /-- CLT, opcode 0x19, format R -/
  | clt (h : Hdr) (f : FmtR)
  /-- CLTN, opcode 0x1A, format R -/
  | cltn (h : Hdr) (f : FmtR)
  /-- SEL, opcode 0x1B, format R -/
  | sel (h : Hdr) (f : FmtR)
  /-- MODW, opcode 0x26, format R -/
  | modw (h : Hdr) (f : FmtR)
  /-- ADDI, opcode 0x1C, format I -/
  | addi (h : Hdr) (f : FmtI)
  /-- ANDI, opcode 0x1D, format I -/
  | andi (h : Hdr) (f : FmtI)
  /-- ORI, opcode 0x1E, format I -/
  | ori (h : Hdr) (f : FmtI)
  /-- XORI, opcode 0x1F, format I -/
  | xori (h : Hdr) (f : FmtI)
  /-- SHLI, opcode 0x20, format I -/
  | shli (h : Hdr) (f : FmtI)
  /-- SHRI, opcode 0x21, format I -/
  | shri (h : Hdr) (f : FmtI)
  /-- SRAI, opcode 0x22, format I -/
  | srai (h : Hdr) (f : FmtI)
  /-- MOVI, opcode 0x23, format I -/
  | movi (h : Hdr) (f : FmtI)
  /-- MOVHI, opcode 0x24, format I -/
  | movhi (h : Hdr) (f : FmtI)
  /-- LEA, opcode 0x25, format M -/
  | lea (h : Hdr) (f : FmtM)
  /-- BR, opcode 0x27, format B -/
  | br (h : Hdr) (f : FmtB)
  /-- BZ, opcode 0x28, format B -/
  | bz (h : Hdr) (f : FmtB)
  /-- BNZ, opcode 0x29, format B -/
  | bnz (h : Hdr) (f : FmtB)
  /-- BLZ, opcode 0x2A, format B -/
  | blz (h : Hdr) (f : FmtB)
  /-- BGEZ, opcode 0x2B, format B -/
  | bgez (h : Hdr) (f : FmtB)
  /-- CALL, opcode 0x2C, format B -/
  | call (h : Hdr) (f : FmtB)
  /-- RET, opcode 0x2D, format R -/
  | ret (h : Hdr) (f : FmtR)
  /-- LOOPN, opcode 0x2E, format B -/
  | loopn (h : Hdr) (f : FmtB)
  /-- LDL, opcode 0x2F, format M -/
  | ldl (h : Hdr) (f : FmtM)
  /-- STL, opcode 0x30, format M -/
  | stl (h : Hdr) (f : FmtM)
  /-- SVC, opcode 0x31, format I -/
  | svc (h : Hdr) (f : FmtI)
  /-- TRAP, opcode 0x32, format I -/
  | trap (h : Hdr) (f : FmtI)
  /-- BRK, opcode 0x35, format I -/
  | brk (h : Hdr) (f : FmtI)
  /-- RETT, opcode 0x33, format R, form RETT_RETRY -/
  | rettRetry (h : Hdr) (f : FmtR)
  /-- RETT, opcode 0x33, format R, form RETT_NEXT -/
  | rettNext (h : Hdr) (f : FmtR)
  /-- RETT, opcode 0x33, format R, form RETT_REDO -/
  | rettRedo (h : Hdr) (f : FmtR)
  /-- RETT, opcode 0x33, format R, form RETT_END -/
  | rettEnd (h : Hdr) (f : FmtR)
  /-- DONE, opcode 0x34, format R -/
  | done (h : Hdr) (f : FmtR)
  /-- RDSYS, opcode 0x36, format I -/
  | rdsys (h : Hdr) (f : FmtI)
  /-- WRSYS, opcode 0x37, format I -/
  | wrsys (h : Hdr) (f : FmtI)
  /-- POP, opcode 0x40, format X -/
  | pop (h : Hdr) (f : FmtX)
  /-- PEEK, opcode 0x41, format X -/
  | peek (h : Hdr) (f : FmtX)
  /-- PUSH, opcode 0x42, format X -/
  | push (h : Hdr) (f : FmtX)
  /-- PUSHL, opcode 0x43, format X -/
  | pushl (h : Hdr) (f : FmtX)
  /-- POPL, opcode 0x44, format X -/
  | popl (h : Hdr) (f : FmtX)
  /-- QLEN, opcode 0x45, format X -/
  | qlen (h : Hdr) (f : FmtX)
  /-- QROOM, opcode 0x46, format X -/
  | qroom (h : Hdr) (f : FmtX)
  /-- QSEQ, opcode 0x4C, format X -/
  | qseq (h : Hdr) (f : FmtX)
  /-- QBIND, opcode 0x47, format X -/
  | qbind (h : Hdr) (f : FmtX)
  /-- QTAG, opcode 0x48, format X, form QTAG_OUT -/
  | qtagOut (h : Hdr) (f : FmtX)
  /-- QTAG, opcode 0x48, format X, form QTAG_IN -/
  | qtagIn (h : Hdr) (f : FmtX)
  /-- QSTK, opcode 0x49, format X -/
  | qstk (h : Hdr) (f : FmtX)
  /-- QSKIP, opcode 0x4A, format X -/
  | qskip (h : Hdr) (f : FmtX)
  /-- QWAITN, opcode 0x55, format X -/
  | qwaitn (h : Hdr) (f : FmtX)
  /-- QDIV, opcode 0x4B, format X -/
  | qdiv (h : Hdr) (f : FmtX)
  /-- QSLEEP, opcode 0x4D, format X -/
  | qsleep (h : Hdr) (f : FmtX)
  /-- QMARK, opcode 0x4E, format X -/
  | qmark (h : Hdr) (f : FmtX)
  /-- QFLUSH, opcode 0x4F, format X -/
  | qflush (h : Hdr) (f : FmtX)
  /-- CCFG, opcode 0x50, format X, form CCFG_LIM -/
  | ccfgLim (h : Hdr) (f : FmtX)
  /-- CCFG, opcode 0x50, format X, form CCFG_MODE -/
  | ccfgMode (h : Hdr) (f : FmtX)
  /-- CSTART, opcode 0x51, format X -/
  | cstart (h : Hdr) (f : FmtX)
  /-- CSTOP, opcode 0x52, format X -/
  | cstop (h : Hdr) (f : FmtX)
  /-- CREAD, opcode 0x53, format X -/
  | cread (h : Hdr) (f : FmtX)
  /-- RNGRD, opcode 0x54, format X -/
  | rngrd (h : Hdr) (f : FmtX)
  /-- CPY, opcode 0x60, format X -/
  | cpy (h : Hdr) (f : FmtX)
  /-- CPYS, opcode 0x61, format X -/
  | cpys (h : Hdr) (f : FmtX)
  /-- CPYG, opcode 0x62, format X -/
  | cpyg (h : Hdr) (f : FmtX)
  /-- CPYD, opcode 0x63, format X -/
  | cpyd (h : Hdr) (f : FmtX)
  /-- EAGCFG, opcode 0x64, format X, form EAGCFG_W -/
  | eagcfgW (h : Hdr) (f : FmtX)
  /-- EAGCFG, opcode 0x64, format X, form EAGCFG_R -/
  | eagcfgR (h : Hdr) (f : FmtX)
  /-- EAGGO, opcode 0x65, format X, form EAGGO_START -/
  | eaggoStart (h : Hdr) (f : FmtX)
  /-- EAGGO, opcode 0x65, format X, form EAGGO_RESUME -/
  | eaggoResume (h : Hdr) (f : FmtX)
  /-- EAGGO, opcode 0x65, format X, form EAGGO_STOP -/
  | eaggoStop (h : Hdr) (f : FmtX)
  /-- SINC, opcode 0x66, format X -/
  | sinc (h : Hdr) (f : FmtX)
  /-- SSET, opcode 0x67, format X -/
  | sset (h : Hdr) (f : FmtX)
  /-- SRD, opcode 0x68, format X -/
  | srd (h : Hdr) (f : FmtX)
  /-- SWAIT, opcode 0x69, format X -/
  | swait (h : Hdr) (f : FmtX)
  /-- SWAITD, opcode 0x6A, format X -/
  | swaitd (h : Hdr) (f : FmtX)
  /-- LDG, opcode 0x70, format M -/
  | ldg (h : Hdr) (f : FmtM)
  /-- STG, opcode 0x71, format M -/
  | stg (h : Hdr) (f : FmtM)
  /-- LDF, opcode 0x72, format M -/
  | ldf (h : Hdr) (f : FmtM)
  /-- STF, opcode 0x73, format M -/
  | stf (h : Hdr) (f : FmtM)
  /-- CLRF, opcode 0x74, format M -/
  | clrf (h : Hdr) (f : FmtM)
  /-- ALD, opcode 0x75, format M -/
  | ald (h : Hdr) (f : FmtM)
  /-- AADD, opcode 0x76, format X -/
  | aadd (h : Hdr) (f : FmtX)
  /-- AFADD, opcode 0x77, format X -/
  | afadd (h : Hdr) (f : FmtX)
  /-- AMIN, opcode 0x78, format X -/
  | amin (h : Hdr) (f : FmtX)
  /-- AMAX, opcode 0x79, format X -/
  | amax (h : Hdr) (f : FmtX)
  /-- AXCHG, opcode 0x7A, format X -/
  | axchg (h : Hdr) (f : FmtX)
  /-- ACAS, opcode 0x7B, format X -/
  | acas (h : Hdr) (f : FmtX)
  /-- AOR, opcode 0x7C, format X -/
  | aor (h : Hdr) (f : FmtX)
  /-- AAND, opcode 0x7D, format X -/
  | aand (h : Hdr) (f : FmtX)
  /-- FENCE, opcode 0x7E, format M -/
  | fence (h : Hdr) (f : FmtM)
  /-- EVARR, opcode 0x80, format X -/
  | evarr (h : Hdr) (f : FmtX)
  /-- EVWAIT, opcode 0x81, format X, form EVWAIT_B -/
  | evwaitB (h : Hdr) (f : FmtX)
  /-- EVWAIT, opcode 0x81, format X, form EVWAIT_E -/
  | evwaitE (h : Hdr) (f : FmtX)
  /-- EVSIG, opcode 0x82, format X -/
  | evsig (h : Hdr) (f : FmtX)
  /-- EVLOCK, opcode 0x83, format X -/
  | evlock (h : Hdr) (f : FmtX)
  /-- EVUNLK, opcode 0x84, format X -/
  | evunlk (h : Hdr) (f : FmtX)
  /-- EVCMB, opcode 0x85, format X -/
  | evcmb (h : Hdr) (f : FmtX)
  /-- VADD, opcode 0x88, format V -/
  | vadd (h : Hdr) (f : FmtV)
  /-- VSUB, opcode 0x89, format V -/
  | vsub (h : Hdr) (f : FmtV)
  /-- VMUL, opcode 0x8A, format V -/
  | vmul (h : Hdr) (f : FmtV)
  /-- VFMA, opcode 0x8B, format V -/
  | vfma (h : Hdr) (f : FmtV)
  /-- VFMS, opcode 0x8C, format V -/
  | vfms (h : Hdr) (f : FmtV)
  /-- VDIV, opcode 0x8D, format V -/
  | vdiv (h : Hdr) (f : FmtV)
  /-- VSQRT, opcode 0x8E, format V -/
  | vsqrt (h : Hdr) (f : FmtV)
  /-- VRCP, opcode 0x8F, format V -/
  | vrcp (h : Hdr) (f : FmtV)
  /-- VEXP2, opcode 0x90, format V -/
  | vexp2 (h : Hdr) (f : FmtV)
  /-- VSIG, opcode 0x91, format V -/
  | vsig (h : Hdr) (f : FmtV)
  /-- VMIN, opcode 0x92, format V -/
  | vmin (h : Hdr) (f : FmtV)
  /-- VMAX, opcode 0x93, format V -/
  | vmax (h : Hdr) (f : FmtV)
  /-- VABS, opcode 0x94, format V -/
  | vabs (h : Hdr) (f : FmtV)
  /-- VNEG, opcode 0x95, format V -/
  | vneg (h : Hdr) (f : FmtV)
  /-- VCMP, opcode 0x96, format V -/
  | vcmp (h : Hdr) (f : FmtV)
  /-- VSEL, opcode 0x97, format V -/
  | vsel (h : Hdr) (f : FmtV)
  /-- VAND, opcode 0x98, format V -/
  | vand (h : Hdr) (f : FmtV)
  /-- VOR, opcode 0x99, format V -/
  | vor (h : Hdr) (f : FmtV)
  /-- VXOR, opcode 0x9A, format V -/
  | vxor (h : Hdr) (f : FmtV)
  /-- VSHL, opcode 0x9B, format V -/
  | vshl (h : Hdr) (f : FmtV)
  /-- VSHR, opcode 0x9C, format V -/
  | vshr (h : Hdr) (f : FmtV)
  /-- VSRA, opcode 0x9D, format V -/
  | vsra (h : Hdr) (f : FmtV)
  /-- VCVT, opcode 0x9E, format V -/
  | vcvt (h : Hdr) (f : FmtV)
  /-- VSDC, opcode 0x9F, format V -/
  | vsdc (h : Hdr) (f : FmtV)
  /-- VSDE, opcode 0xA0, format V -/
  | vsde (h : Hdr) (f : FmtV)
  /-- VSDD, opcode 0xA1, format V -/
  | vsdd (h : Hdr) (f : FmtV)
  /-- VLDL, opcode 0xA2, format V -/
  | vldl (h : Hdr) (f : FmtV)
  /-- VSTL, opcode 0xA3, format V -/
  | vstl (h : Hdr) (f : FmtV)
  /-- VGATH, opcode 0xA4, format V -/
  | vgath (h : Hdr) (f : FmtV)
  /-- VSCAT, opcode 0xA5, format V -/
  | vscat (h : Hdr) (f : FmtV)
  /-- VBCAST, opcode 0xA6, format V -/
  | vbcast (h : Hdr) (f : FmtV)
  /-- VEXT, opcode 0xA7, format V -/
  | vext (h : Hdr) (f : FmtV)
  /-- VRED, opcode 0xA8, format V -/
  | vred (h : Hdr) (f : FmtV)
  /-- VSCAN, opcode 0xA9, format V -/
  | vscan (h : Hdr) (f : FmtV)
  /-- VPERM, opcode 0xAA, format V -/
  | vperm (h : Hdr) (f : FmtV)
  /-- VIOTA, opcode 0xAB, format V -/
  | viota (h : Hdr) (f : FmtV)
  /-- VIOTA, opcode 0xAB, format V, form VIOTA_CNT -/
  | viotaCnt (h : Hdr) (f : FmtV)
  /-- VSETL, opcode 0xAC, format V -/
  | vsetl (h : Hdr) (f : FmtV)
  /-- VMOVP, opcode 0xAD, format V -/
  | vmovp (h : Hdr) (f : FmtV)
  /-- VMOVP, opcode 0xAD, format V, form VMOVP_RD -/
  | vmovpRd (h : Hdr) (f : FmtV)
  /-- VMOVP, opcode 0xAD, format V, form VMOVP_WR -/
  | vmovpWr (h : Hdr) (f : FmtV)
  /-- VPOPQ, opcode 0xAE, format V -/
  | vpopq (h : Hdr) (f : FmtV)
  /-- VPUSHQ, opcode 0xAF, format V -/
  | vpushq (h : Hdr) (f : FmtV)
  /-- PORI2, opcode 0xC0, format X -/
  | pori2 (h : Hdr) (f : FmtX)
  /-- PORI3, opcode 0xC1, format X -/
  | pori3 (h : Hdr) (f : FmtX)
  /-- PINCI, opcode 0xC2, format X -/
  | pinci (h : Hdr) (f : FmtX)
  /-- PINSP, opcode 0xC3, format X -/
  | pinsp (h : Hdr) (f : FmtX)
  /-- PSEGX, opcode 0xC4, format X -/
  | psegx (h : Hdr) (f : FmtX)
  /-- PSTAT, opcode 0xC5, format X -/
  | pstat (h : Hdr) (f : FmtX)
  /-- MGANG, opcode 0xC8, format X -/
  | mgang (h : Hdr) (f : FmtX)
  /-- MREAD, opcode 0xC9, format X -/
  | mread (h : Hdr) (f : FmtX)
  /-- MCLR, opcode 0xCA, format X -/
  | mclr (h : Hdr) (f : FmtX)
  /-- MSCL, opcode 0xCB, format X -/
  | mscl (h : Hdr) (f : FmtX)
  /-- MSCL, opcode 0xCB, format X, form MSCL_RD -/
  | msclRd (h : Hdr) (f : FmtX)
  /-- MSTAT, opcode 0xCC, format X -/
  | mstat (h : Hdr) (f : FmtX)
  /-- MFILL, opcode 0xCD, format X -/
  | mfill (h : Hdr) (f : FmtX)
  /-- MCUT, opcode 0xCE, format X -/
  | mcut (h : Hdr) (f : FmtX)
  /-- MCUT, opcode 0xCE, format X, form MCUT_OFF -/
  | mcutOff (h : Hdr) (f : FmtX)
  /-- MSWAP, opcode 0xCF, format X -/
  | mswap (h : Hdr) (f : FmtX)
  /-- MLEAVE, opcode 0xD0, format X, form MLEAVE_RSV -/
  | mleaveRsv (h : Hdr) (f : FmtX)
  /-- MLEAVE, opcode 0xD0, format X, form MLEAVE_REL -/
  | mleaveRel (h : Hdr) (f : FmtX)
  /-- MSYNC, opcode 0xD1, format X -/
  | msync (h : Hdr) (f : FmtX)
  /-- XPOST, opcode 0xD8, format X -/
  | xpost (h : Hdr) (f : FmtX)
  /-- XGRANT, opcode 0xD9, format X -/
  | xgrant (h : Hdr) (f : FmtX)
  /-- XSEND, opcode 0xDA, format X -/
  | xsend (h : Hdr) (f : FmtX)
  /-- XDONE, opcode 0xDB, format X -/
  | xdone (h : Hdr) (f : FmtX)
  /-- XSTAT, opcode 0xDC, format X -/
  | xstat (h : Hdr) (f : FmtX)
  /-- QFWD, opcode 0xE0, format X -/
  | qfwd (h : Hdr) (f : FmtX)
  /-- PARK, opcode 0xE1, format X, form PARK_CUT -/
  | parkCut (h : Hdr) (f : FmtX)
  /-- PARK, opcode 0xE1, format X, form PARK_SELF -/
  | parkSelf (h : Hdr) (f : FmtX)
  /-- REINJ, opcode 0xE2, format X -/
  | reinj (h : Hdr) (f : FmtX)
  /-- PTEST, opcode 0xE3, format X, form PTEST_DOM -/
  | ptestDom (h : Hdr) (f : FmtX)
  /-- PTEST, opcode 0xE3, format X, form PTEST_CELL -/
  | ptestCell (h : Hdr) (f : FmtX)
  /-- WDOG, opcode 0xE4, format X, form WDOG_SET -/
  | wdogSet (h : Hdr) (f : FmtX)
  /-- WDOG, opcode 0xE4, format X, form WDOG_OFF -/
  | wdogOff (h : Hdr) (f : FmtX)
  /-- configuration command WRITE (R43) -/
  | write (m : Master) (offset : BitVec 10) (field : BitVec 6) (value : BitVec 12)
  /-- configuration command BASE (R43) -/
  | base (m : Master) (space : BitVec 3) (element : BitVec 18)
  /-- configuration command WIDE and its value word (R43) -/
  | wide (m : Master) (offset : BitVec 10) (field : BitVec 6) (value : BitVec 32)
  /-- configuration command START (R43, R50) -/
  | start (m : Master) (offset : BitVec 10)
  /-- configuration command ISTORE and its two data words (R43) -/
  | istore (m : Master) (offset : BitVec 10) (index : BitVec 11) (data : Word)
  /-- configuration command LSTORE and its two data words (R43) -/
  | lstore (m : Master) (offset : BitVec 10) (word : BitVec 14) (data : Word)
  /-- a first word with a reserved code or a nonzero bit that R43 marks zero (R44) -/
  | cfgReservedCommand (m : Master) (w : BitVec 32)
  /-- WRITE of field 0 in space 3 (R46) -/
  | mark (m : Master) (offset : BitVec 10) (value : BitVec 12)
  /-- WRITE of field 1 in space 3 (R46) -/
  | clrerr (m : Master) (offset : BitVec 10) (value : BitVec 12)
  /-- an instruction word whose opcode is not assigned (R55, R79) -/
  | unassignedOpcode (w : Word)
  /-- TAP instruction 0x10 and the word shifted in (R494) -/
  | mdlsel (data : Word)
  /-- TAP instruction 0x12 (R494) -/
  | mdllanes (on : Bool)
  /-- the loader starts the cells of a load (R13) -/
  | loadStart (serial : Nat)
  /-- the loader emits the load mark and releases the cells (R14, R32) -/
  | loadMark (serial : Nat)
  /-- the oldest phase word of a cell, a return word, reaches the root (R29) -/
  | phaseReturn (cell : Nat)
  /-- the oldest phase word of a cell, a borrow request, reaches the root (R30) -/
  | borrowRequest (cell : Nat)
  /-- the oldest borrow request waiting at a root is granted (R30) -/
  | borrowGrantDeferred (root : Nat)
  /-- the scheduler of an idle cell picks and enters the next entry (R23, R168) -/
  | taskDispatch (cell : Nat)
  /-- the effective priorities of a cell rise with the time its entries stay runnable (R23) -/
  | priorityAging (cell : Nat)
  /-- the condition a sleeping task waits for is met (R24) -/
  | taskWake (cell : Nat)
  /-- a task has slept for WLIM x 1,024 clk (R178) -/
  | watchdogSleepLimit (cell : Nat)
  /-- the fetch of a cell meets an uncorrectable word (R164) -/
  | istoreFetchError (cell : Nat)
  /-- the reply to call k of a cell arrives (R197, R466) -/
  | svcReply (cell : Nat) (k : Nat)
  /-- the counter chain writes its next word (R225) -/
  | counterChainEmit (cell : Nat)
  /-- the next message of a source reaches its inbound endpoint (R213, R435) -/
  | queueMessageArrival (src : Src)
  /-- the oldest message waiting for ring room is stored (R214) -/
  | queueMessageStoreDeferred (cell : Nat) (port : Nat)
  /-- the next word of a source, a QUIESCE marker, is absorbed (R447) -/
  | quiesceArrival (src : Src)
  /-- the oldest retirement acknowledgement of a consumer reaches the producer (R218) -/
  | wordAck (cell : Nat)
  /-- the oldest NACK of a consumer reaches the producer (R435) -/
  | wordNack (cell : Nat)
  /-- 4,096 clk after a word to a SUSPENDED domain the producer resends it (R435) -/
  | suspendedResend (src : Src)
  /-- the laggard timeout of an outbound endpoint expires (R221) -/
  | laggardTimeout (cell : Nat) (port : Nat)
  /-- the block copy engine starts its next command (R248, R249) -/
  | copyStart (block : Nat)
  /-- running command k of a copy engine completes (R250 to R254) -/
  | copyCompletion (block : Nat) (k : Nat)
  /-- an EAG commits its next element or meets a fault (R256 to R260) -/
  | eagElementCommit (eag : Nat)
  /-- a read of a cell reaches its home tile (R283) -/
  | tileRead (cell : Nat) (k : Nat)
  /-- a store or a flushed combining entry is performed at its home tile (R284, R141) -/
  | tileWrite (src : TileSrc)
  /-- a fill reaches its home tile (R278) -/
  | tileFill (cell : Nat) (k : Nat)
  /-- a CLRF reaches its home tile (R285) -/
  | tileClrf (cell : Nat) (k : Nat)
  /-- an atomic or ALD passes the tile pipeline (R280) -/
  | tileAtomic (cell : Nat) (k : Nat)
  /-- a NACKed read is sent again (R277) -/
  | deferredReadRetry (cell : Nat) (k : Nat)
  /-- the reply of a global access reaches the cell (R154, R281) -/
  | accessReply (cell : Nat) (k : Nat)
  /-- the oldest held entry of a combining buffer is sent (R141) -/
  | combineFlushTimeout (block : Nat)
  /-- the rebuild of a parity group ends (R273) -/
  | parityRebuildDone (grp : ParityGroup)
  /-- the recovery engine reads a row of a group in the background (R273) -/
  | backgroundScrub (grp : ParityGroup) (row : Nat)
  /-- a miss in both translation caches sends a request word to the pager (R473) -/
  | translationMissRequest (cell : Nat)
  /-- the reply of a pager unit to its oldest request fills both caches (R138) -/
  | translationFill (pager : Nat)
  /-- an invalidation message reaches a translation cache (R139) -/
  | translationInvalidate (cache : CacheId) (va : Nat) (len : Nat) (dom : BitVec 12)
  /-- a translation cache returns its acknowledgement to the pager (R139) -/
  | invalidateAck (cache : CacheId)
  /-- a host CXL.mem request (R144, R146) -/
  | hostMemRequest (port : Nat) (req : HostReq)
  /-- a host-shared region becomes HOST (R144) -/
  | ownershipToHost (region : Nat)
  /-- every snoop is answered and the region becomes ACC (R143) -/
  | backInvalidateComplete (region : Nat) (dirty : List (Nat × BitVec 512))
  /-- the minimum ownership interval of a region ends (R145) -/
  | ownerHoldExpiry (region : Nat)
  /-- the event unit applies the changes of a clk (R294) -/
  | eventApply (strip : Nat)
  /-- the oldest UP message of a strip arrives (R297) -/
  | eventUpMessage (strip : Nat)
  /-- the oldest DOWN message of a strip arrives (R297) -/
  | eventDownMessage (strip : Nat)
  /-- the oldest fire from the parent strip arrives (R292) -/
  | eventParentFire (strip : Nat)
  /-- the oldest vector entry of a cell, a port instruction, begins (R315) -/
  | vectorPortStart (cell : Nat)
  /-- the oldest vector entry of a cell completes (R314) -/
  | vectorCompletion (cell k : Nat)
  /-- the oldest vector entry of a cell, a predicate, reads its records (R363) -/
  | predicateReadPhase (cell : Nat)
  /-- a predicate leaves the vector queue after stage A (R356) -/
  | predicateHandoff (cell seq : Nat)
  /-- a stage-B unit finishes lane k of the quad (R346) -/
  | stageBSettle (quad : Nat) (k : Nat) (rf : List Refire)
  /-- the burst at the head of the stage-C queue asks for leave or begins (R358) -/
  | stageCBurstStart (quad : Nat)
  /-- the stage-C unit settles its next lane (R347) -/
  | stageCLaneSettle (quad : Nat) (rf : List Refire)
  /-- every result of predicate k of a cell is written (R359) -/
  | predicateCompletion (cell : Nat) (k : Nat)
  /-- the oldest joined group of a strip forms (R369) -/
  | groupFormation (strip : Nat)
  /-- the strip sends its next leave request (R380) -/
  | gangLeaveRequest (strip : Nat)
  /-- the oldest eligible gang of a strip starts (R380) -/
  | gangStart (strip : Nat)
  /-- started group k of a strip completes (R383) -/
  | gangCompletion (strip : Nat) (k : Nat) (rf : List Refire)
  /-- per-slot transfer k of a cell finishes (R388) -/
  | matrixTransferComplete (cell : Nat) (k : Nat)
  /-- the post of a participant reaches the arbiter (R408) -/
  | xaPostArrival (grp : Nat) (part : Nat)
  /-- the acknowledgement of a post reaches the agent (R420) -/
  | xpostAck (grp : Nat) (part : Nat)
  /-- the deadline closes the round (R408) -/
  | roundDeadline (grp : Nat)
  /-- a calendar reaches an agent (R421) -/
  | calendarWrite (grp : Nat) (part : Nat)
  /-- the next phase of the round starts (R411) -/
  | exchangePhaseStart (grp : Nat)
  /-- the pair of a sender in the running phase ends (R411, R413) -/
  | exchangePairEnd (grp : Nat) (sender : Nat)
  /-- the part of a participant in its round is complete (R422) -/
  | xdoneComplete (grp : Nat) (part : Nat)
  /-- the primary arbiter sends a heartbeat to the standby (R416) -/
  | xaHeartbeat (grp : Nat)
  /-- the standby takes over the rounds of a group (R416) -/
  | xaStandbyTakeover (grp : Nat)
  /-- a link port trains to the peer it finds on the good lanes given (R394) -/
  | linkTrain (port : Nat) (peer : Nat) (lanes : BitVec 8)
  /-- a flit arrives at a link port (R396) -/
  | flitReceive (port : Nat) (flit : Flit)
  /-- the peer of a port asks for replay from a flit (R396) -/
  | linkReplayRequest (port : Nat) (fseq : BitVec 12)
  /-- the target delivers the next packet of a stream, whose operation fields and payload say op (R399) -/
  | packetDelivery (srcModule : Nat) (vc : BitVec 2) (op : PacketOp)
  /-- an acknowledgement reaches the source (R399) -/
  | packetAck (dstModule : Nat) (vc : BitVec 2)
  /-- a write of ACT switches a plane (R402) -/
  | routeSwitch (plane : Nat) (act : Bool)
  /-- a TDATA write stores a routing entry (R403) -/
  | routeTableWrite (plane : Nat) (value : BitVec 12)
  /-- a cell in PARK.CUT or PARK.SELF parks once its items are settled (R450, R460) -/
  | cutParkComplete (cell : Nat)
  /-- the armed row-manager watchdog of a cell expires (R463) -/
  | rmWatchdogExpiry (cell : Nat)
  /-- row-manager write of CCTL.PARK (R429) -/
  | cctlPark (cell : Nat)
  /-- the requested park takes effect (R170) -/
  | rmParkEffect (cell : Nat)
  /-- row-manager write of CCTL.RESUME with CCTL.RPL (R429) -/
  | cctlResume (cell : Nat) (rpl : Bool)
  /-- row-manager write of CCTL.ABORT (R429) -/
  | cctlAbort (cell : Nat)
  /-- row-manager write of ORA (R431) -/
  | oraReattach (cell : Nat) (port : Nat) (mask : BitVec 8)
  /-- any other row-manager write to its register window (R430) -/
  | rmWindowWrite (row : Nat) (addr : Nat) (data : Word)
  /-- a read of the first word of the fault queue (R432) -/
  | faultQueuePop (row : Nat)
  /-- a row-manager read of MTSTAT (R274) -/
  | mtstatReadClear (block : Nat)
  /-- the row manager acts on a sink discard (R444) -/
  | sinkReplay (cell : Nat)
  /-- an uncorrectable error in shared control state (R439) -/
  | sharedControlError (unit : SharedUnit)
  /-- a row manager increments its heartbeat (R456) -/
  | heartbeatTick (row : Nat)
  /-- a neighbour takes over a failed row (R456) -/
  | rowManagerTakeover (row : Nat) (next : Nat)
  /-- a gate forwards a call to its service unit (R465) -/
  | gateForward (call : CallId)
  /-- a call with an unassigned FUNC (R471) -/
  | serviceBadFunc (call : CallId)
  /-- allocator function 0; choice is where the allocator puts the pages (R472) -/
  | alloc (call : CallId) (choice : List PageChoice)
  /-- allocator function 1 (R472) -/
  | free (call : CallId)
  /-- allocator function 2 (R471) -/
  | avail (call : CallId)
  /-- pager function 0 (R472) -/
  | prot (call : CallId)
  /-- pager function 1; pa is the new place of the page (R140) -/
  | migrate (call : CallId) (pa : Nat)
  /-- pager function 2 (R471) -/
  | entry (call : CallId)
  /-- loader function 0 (R476 to R478) -/
  | load (call : CallId) (img : Image) (pl : Placement)
  /-- loader function 1 (R471) -/
  | wait (call : CallId)
  /-- loader function 2; spills is where the service puts the spill queue of each row (R436, R448), and the pages of the cut record
  (R452): pairs of a row below 512, or else of a virtual address, with a physical address -/
  | cut (call : CallId) (spills : List (Nat × Nat))
  /-- loader function 3 (R453) -/
  | resume (call : CallId) (pl : Placement)
  /-- loader function 4 (R438) -/
  | kill (call : CallId)
  /-- loader function 5 (R454) -/
  | replace (call : CallId) (spills : List (Nat × Nat)) (img : Image) (pl : Placement)
  /-- loader function 6 (R484) -/
  | fwmin (call : CallId)
  /-- loader function 7 (R486) -/
  | attest (call : CallId)
  /-- network function 0 (R471) -/
  | portstat (call : CallId)
  /-- network function 1 (R471) -/
  | topo (call : CallId)
  /-- network function 2 (R475) -/
  | routes (call : CallId)
  /-- log function 0 (R474) -/
  | logWrite (call : CallId)
  /-- log function 1 (R471) -/
  | logFlush (call : CallId)
  /-- a host write to a doorbell register (R480) -/
  | hostDoorbell (port : Nat) (queue : Nat) (tag : BitVec 3) (data : Word)
  /-- the oldest buffered doorbell word is pushed (R147) -/
  | doorbellPush (port : Nat) (queue : Nat)
  /-- a host write to IQq.STAT (R479) -/
  | iqStatClear (port : Nat) (queue : Nat) (data : Word)
  /-- a word for an outbound host queue is written to the host ring (R481) -/
  | hostRingWrite (port : Nat) (queue : Nat) (src : Src)
  /-- any other host write to BAR0 (R479) -/
  | hostBarWrite (port : Nat) (addr : Nat) (size : Nat) (data : Word)
  /-- a host port trains its link (R479) -/
  | hostPortTrain (port : Nat) (x8 : Bool)
  /-- pin MDL_FRZ_N goes low (R493) -/
  | freezePin
  /-- a row manager writes 1 to MDLCTL.FREEZE (R493) -/
  | mdlctlFreeze (row : Nat)
  /-- every clock stops 64 cycles after the request (R493) -/
  | freezeStop
  /-- a FROZEN notice of the peer arrives (R493) -/
  | frozenNotice (port : Nat)
  /-- a THAWED notice of the peer arrives (R495) -/
  | thawedNotice (port : Nat)
  /-- TAP instruction 0x00 (R494) -/
  | extest
  /-- TAP instruction 0x01 (R494) -/
  | idcode
  /-- TAP instruction 0x02 (R494) -/
  | samplePreload
  /-- TAP instruction 0x11: one word is shifted out (R494) -/
  | mdlread
  /-- TAP instruction 0x13 (R495) -/
  | mdlresume
  /-- TAP instruction 0xFF (R494) -/
  | bypass
  /-- a cell emits a SAMPLE record (R490) -/
  | pcSample (cell : Nat)
  /-- a row emits a TIME record (R491) -/
  | traceTime (row : Nat)
  /-- a block governor grants its oldest request (R497) -/
  | leaveGrant (block : Nat)
  /-- the ring supervisor takes its dynamic address (R496) -/
  | entdaa (addr : BitVec 7)
  /-- an I3C write of PCAP (R497) -/
  | pcapWrite (value : BitVec 32)
  /-- an I3C write of firmware image bytes (R496) -/
  | fwin (data : List Byte)
  /-- an I3C write of 1 to FWGO runs bring-up from step 4 (R498) -/
  | fwgo (facts : BringUp)
  /-- the 10 ms thermal tick with the hottest sensor value (R497) -/
  | thermalThrottleTick (temp : BitVec 16)
  /-- 48 V appears and bring-up runs steps 1 to 3 (R498) -/
  | powerOn (facts : PowerFacts)
  /-- an uncorrectable error in a structure tagged dom (R437) -/
  | taggedStructureError (dom : BitVec 12)
  /-- lanes of a link port fail (R394) -/
  | lossOfLink (port : Nat) (lost : BitVec 8)
  /-- the value of the oldest EAGCFG.R of a cell arrives (R264) -/
  | eagcfgReadReply (cell : Nat)
  /-- the answer to the oldest PTEST of a cell arrives (R462) -/
  | ptestReply (cell : Nat)
  /-- the 48 V supply is lost (R485) -/
  | powerFailure
  /-- a repair action (R455) -/
  | inServiceRepair (action : Repair)
  deriving DecidableEq, Repr

end Sys2Proof
end

