-- ==== Sys2Proof/Config.lean ====
section
/-! DEFINITION. What an implementation fixes and the spec leaves open. Each is an opaque constant: nothing can prove a
value of it, so a statement about it holds whatever it is. -/

namespace Sys2Proof

/-- Free values, one for each value of the state's counter `fresh` (log entry 2). -/
opaque Config.freeWord : Nat → Word

/-- The words of the variable part of a unit record, at a value of the state's counter `fresh`, whose layout the spec does not give
(R452, log entry 15). -/
opaque Config.recordTail : Nat → List Word

/-- The HBM channel of its stack on which a physical address of a module lies, which the spec does not give (R455, log entry 48). -/
opaque Config.hbmChannel : Nat → Nat

/-- How many words the spill queue of a domain holds, which the spec does not give (R436, log entry 5). -/
opaque Config.spillCapacity : Nat

/-- Which of the values that a word of a local store has held since an engine's instruction issued the engine reads, at a value of
the state's counter `fresh` (R129, log entry 21). -/
opaque Config.pick : Nat → Nat → Nat

/-- The set of a block's translation cache that an address maps to, and the way of a full set that an entry replaces, at a value of
the counter `fresh`: the spec gives 8 ways and no more (R138, log entry 54). -/
opaque Config.tlbSet : Nat → Nat
opaque Config.tlbWay : Nat → Nat

/-- The modules of the system beside this one, which the installation fixes (R8, log entry 3). -/
opaque Config.otherModules : Nat
/-- The number of modules of the system: 1 to 1,024 (R8). -/
def Config.systemModules : Nat := Config.otherModules % 1024 + 1

/-- The virtual channel that a source chooses for a memory access, a reply or a control packet of a KIND (R397, log entry
9); queue words take the one of their edge (R205). -/
opaque Config.packetVc : Nat → BitVec 2

/-! ### Pages of the register window whose layout the spec does not give (R425, R428; log entry 32)

An opaque constant says which item a word of a page holds, and two more how the item's value stands in the word. -/

/-- What a word of a strip page holds: an item of the event unit (R290), elements 2j and 2j + 1 of an accumulator of a slot, the poison
bits of 64 of its elements from 64j on, a word of a pending join of a slot, the reservation, or nothing. -/
inductive StripItem where
  | gen (line : Nat) | arr (line : Nat) | accv (line : Nat) | res (line : Nat)
  | pend (line : Nat) | sigd (line : Nat) | fcnt (line : Nat)
  | hold (m : Nat) | wq (m : Nat)
  | acc (slot n j : Nat) | accPoison (slot n j : Nat)
  | join (slot n w : Nat) | rsv | empty
  deriving DecidableEq, Repr, Inhabited

/-- What a word of a quad page holds: positions 2j and 2j + 1 of a vector register of a cell, poison bits of 64 of its positions, 64 bits
of a mask register or of its poison, VL, a word of an entry of a cell's vector queue or of a predicate past hand-off, a counter of R364, or
nothing. -/
inductive QuadItem where
  | vreg (lane n j : Nat) | vpoison (lane n j : Nat)
  | mreg (lane n j : Nat) | mpoison (lane n j : Nat)
  | vl (lane : Nat) | queue (lane n w : Nat) | pred (lane n w : Nat) | count (lane n : Nat) | empty
  deriving DecidableEq, Repr, Inhabited

/-- What a word of a block page holds: MTSTAT, a word of a copy command that waits or runs, BUDGET and the leave held, a request for
leave, a word of an entry of the combining buffer, or nothing. -/
inductive BlockItem where
  | mtstat | copy (n w : Nat) | governor | request (n : Nat) | comb (n w : Nat) | empty
  deriving DecidableEq, Repr, Inhabited

/-- What a word of a checkpoint holds (R442). -/
inductive CkptItem where
  | pc | greg (n : Nat) | gpois | res (i : Nat) | sem (n : Nat) | loop | lfsr | flags | rm | vl | seq (i : Nat) | empty
  deriving DecidableEq, Repr, Inhabited

opaque Config.stripItem : Nat → StripItem
opaque Config.quadItem : Nat → QuadItem
opaque Config.blockItem : Nat → BlockItem
opaque Config.ckptItem : Nat → CkptItem

/-- The word of a page, by its kind and offset, that shows a value, and the value that a written word stands for. -/
opaque Config.pageShow : Nat → Nat → Word → Word
opaque Config.pageTake : Nat → Nat → Word → Word

/-- Byte a of a row manager's boot ROM (R425, log entry 63). -/
opaque Config.bootRom : Nat → Byte

/-- What mvendorid, marchid and mimpid of a row manager's core read, by the number of the register (log entry 63). -/
opaque Config.hartId : Nat → Word

/-- The cycles that a row manager's core has counted at a clk, whose clock rate the spec does not give (log entry 63). -/
opaque Config.hartCycles : Nat → Word

/-- The base HB of the host physical range that each host port decodes, which the host sets (R479, log entry 10). -/
opaque Config.hostBase : Nat → Nat

/-- DETAIL of a fault-queue record of a kind other than 1 and 2, which the spec calls engine-specific, as a function of the
kind and of what the model reports (R432, log entry 11). -/
opaque Config.recordDetail : Nat → Nat → Nat

/-- How many bytes of each place (R472) the services, the firmware and the logs take, which the spec does not give (log entry
14). -/
opaque Config.serviceBytes : Nat → Nat

/-- The side of the grid, modulo 4, at which the circuit channels of a link port meet the ring (R403, log entry 62). -/
opaque Config.portSide : Nat → Nat

/-- The module at the other end of a link port of another module (R403, R475, log entry 3). -/
opaque Config.farPeer : Nat → Nat → Nat

/-- The service graph image within the body of a firmware image, whose place the spec does not give (R483, log entry 16). -/
opaque Config.serviceImage : List Byte → List Byte

/-- The bytes of a load image, whose layout the spec does not give (R486, log entry 16). -/
opaque Config.imageBytes : Image → List Byte

/-- Byte j of the identity key (R485, log entry 16), by kind, leaf and index: of kind 0 the root and the seed, of kind 1 a
leaf's randomiser, of kind 2 its chains' starts, of kind 3 its authentication nodes. -/
opaque Config.identityKey : Nat → Nat → Nat → Nat → Byte

/-- Byte j of the fused hash of the firmware key (R484, log entry 16). -/
opaque Config.keyHash : Nat → Byte

/-- Word n of the read-out stream of freeze f where the spec gives its layout or length no statement (R494, log entry 18). -/
opaque Config.readOut : Nat → Nat → Word

/-- The input power in W that the ring supervisor has measured at a clk (R496, log entry 24). -/
opaque Config.inputPower : Nat → BitVec 32

/-- The bits of the TAP's identity code beside the part number (R494, log entry 18). -/
opaque Config.idcode : BitVec 32

end Sys2Proof
end

