-- ==== Sys2Proof/Machine/Bits.lean ====
section
/-! DEFINITION. Bit fields, sign extension and the signed and unsigned readings of R183. -/

namespace Sys2Proof.Machine

/-- U(x): the unsigned value of a 64-bit pattern (R183). -/
abbrev uns (x : Word) : Nat := x.toNat

/-- S(x): the signed value of a 64-bit pattern (R183). -/
abbrev sgn (x : Word) : Int := x.toInt

/-- The 64-bit pattern of an integer, modulo 2^64. -/
abbrev ofInt (x : Int) : Word := BitVec.ofInt 64 x

/-- The 64-bit pattern of a number, modulo 2^64. -/
abbrev ofNat (x : Nat) : Word := BitVec.ofNat 64 x

/-- Field [lo + n - 1 : lo] of a word, as a number. -/
def field {w : Nat} (x : BitVec w) (lo n : Nat) : Nat := (x.extractLsb' lo n).toNat

/-- Bit i of a mask is set. -/
abbrev bit {w : Nat} (x : BitVec w) (i : Nat) : Bool := x.getLsbD i

/-- The mask x with bit i set to b. -/
def setBit {w : Nat} (x : BitVec w) (i : Nat) (b : Bool) : BitVec w :=
  if b then x ||| BitVec.ofNat w (2 ^ i) else x &&& ~~~BitVec.ofNat w (2 ^ i)

/-- The mask with the single bit i. -/
def oneBit (w i : Nat) : BitVec w := BitVec.ofNat w (2 ^ i)

/-- A number shifted to place a field at bit lo of a word. -/
def at_ (x lo : Nat) : Word := BitVec.ofNat 64 (x * 2 ^ lo)

/-- A Boolean as a number. -/
def b2n (b : Bool) : Nat := if b then 1 else 0

/-- A value of n bytes, extended to 64 bits: signed when sx (R70). -/
def extend (sx : Bool) (n v : Nat) : Word :=
  if sx then (BitVec.ofNat (8 * n) v).signExtend 64 else BitVec.ofNat 64 (v % 2 ^ (8 * n))

/-- The list 0, 1, …, n - 1. -/
def upto (n : Nat) : List Nat := List.range n

/-- The indices below n at which a mask has its bit set, ascending. -/
def bitsOf {w : Nat} (x : BitVec w) (n : Nat) : List Nat := (List.range n).filter (fun i => x.getLsbD i)

/-- The number of set bits among the low n bits. -/
def popCount {w : Nat} (x : BitVec w) : Nat → Nat
  | 0 => 0
  | n + 1 => popCount x n + b2n (x.getLsbD n)

/-- The number of leading zero bits among the low n bits. -/
def leadingZeros {w : Nat} (x : BitVec w) : Nat → Nat
  | 0 => 0
  | n + 1 => if x.getLsbD n then 0 else 1 + leadingZeros x n

end Sys2Proof.Machine
end

