-- ==== Sys2Proof/Machine/Store.lean ====
section
/-! DEFINITION. The sparse stores of the model. A store is a list of key and value pairs with strictly rising keys. The
units of the grid and the register files are written by `put`; memories, whose canonical form also lists no entry
equal to what an unlisted address reads as, are written by `set`. -/

namespace Sys2Proof

/-- What the store reads at key k: the listed value, or d where k is not listed. -/
def SMap.get {α : Type} (d : α) : SMap α → Nat → α
  | [], _ => d
  | (i, x) :: m, k => if i = k then x else SMap.get d m k

/-- The store with key k absent. -/
def SMap.erase {α : Type} : SMap α → Nat → SMap α
  | [], _ => []
  | (i, x) :: m, k => if i = k then SMap.erase m k else (i, x) :: SMap.erase m k

/-- The store with (k, x) put before the first greater key. -/
def SMap.put {α : Type} : SMap α → Nat → α → SMap α
  | [], k, x => [(k, x)]
  | (i, y) :: m, k, x =>
    if k < i then (k, x) :: (i, y) :: m
    else if i = k then (k, x) :: m
    else (i, y) :: SMap.put m k x

/-- A write that keeps the canonical form of a memory: the default removes the entry. -/
def SMap.set {α : Type} [DecidableEq α] (d : α) (m : SMap α) (k : Nat) (x : α) : SMap α :=
  if x = d then SMap.erase m k else SMap.put m k x

/-- Every key of the store is at least n, the keys strictly rise, and no entry equals the default. -/
def SMap.wfFrom {α : Type} [DecidableEq α] (d : α) : Nat → SMap α → Bool
  | _, [] => true
  | n, (i, x) :: m => decide (n ≤ i) && decide (x ≠ d) && SMap.wfFrom d (i + 1) m

/-- The canonical form of a memory. -/
def SMap.wf {α : Type} [DecidableEq α] (d : α) (m : SMap α) : Bool := SMap.wfFrom d 0 m

/-- The listed value of key k, if any. -/
def SMap.find {α : Type} : SMap α → Nat → Option α
  | [], _ => none
  | (i, x) :: m, k => if i = k then some x else SMap.find m k

/-- A byte memory: (address, byte) pairs. -/
abbrev Memory := List Host.Cell

/-- What a byte that nothing has written reads as: 0 (the spec gives local stores, vaults and HBM no contents at
power-on). DESIGN CHOICE, log entry 1. -/
def Memory.unlisted : Byte := 0

/-- The byte at address a. -/
def Memory.byte (m : Memory) (a : Nat) : Byte := SMap.get Memory.unlisted m a

/-- The memory with byte b at address a. -/
def Memory.setByte (m : Memory) (a : Nat) (b : Byte) : Memory := SMap.set Memory.unlisted m a b

/-- The canonical form of a memory. -/
def Memory.wf (m : Memory) : Bool := SMap.wf Memory.unlisted m

/-- The n bytes from address a, little-endian (R4), as a number. -/
def Memory.read (m : Memory) : Nat → Nat → Nat
  | _, 0 => 0
  | a, n + 1 => (Memory.byte m a).toNat + 256 * Memory.read m (a + 1) n

/-- The memory with the low n bytes of v at address a, little-endian (R4). -/
def Memory.write (m : Memory) : Nat → Nat → Nat → Memory
  | _, 0, _ => m
  | a, n + 1, v => Memory.setByte (Memory.write m (a + 1) n (v / 256)) a (BitVec.ofNat 8 (v % 256))

/-- A store of marks (a poison, presence or dirty bit per word): the words whose mark is set. -/
abbrev Marks := SMap Bool

/-- The mark of word k. -/
def Marks.has (m : Marks) (k : Nat) : Bool := SMap.get false m k

/-- The marks with word k's mark set to b. -/
def Marks.put (m : Marks) (k : Nat) (b : Bool) : Marks := SMap.set false m k b

/-- The marks of words k to k + n - 1 set to b. -/
def Marks.fill (m : Marks) (b : Bool) : Nat → Nat → Marks
  | _, 0 => m
  | k, n + 1 => Marks.put (Marks.fill m b (k + 1) n) k b

/-- The mark of some word from k to k + n - 1 is set. -/
def Marks.any (m : Marks) : Nat → Nat → Bool
  | _, 0 => false
  | k, n + 1 => Marks.has m k || Marks.any m (k + 1) n

end Sys2Proof
end

