-- ==== Sys2Proof/Machine/State.lean ====
section
/-! DEFINITION. The state of one module as plain data. Every field has the value it holds after reset as its default,
so that `State.reset` is the record of the defaults. Units of the grid are held in stores keyed by their number (R8);
a unit that the store does not list is in its reset state. -/

namespace Sys2Proof.Machine

/-- Reasons for the machine itself to stop. The spec turns every error of a program into a trap, a park, a record or a
report, and every address that does not exist into a cause or a discarded access, so that none remains. -/
inductive Fault where
  deriving DecidableEq, Repr

/-- Reasons for an operation to have no meaning here. -/
inductive Refusal where
  /-- Raised by the dispatch alone, for an instruction without a meaning. Safe. -/
  | notModelled (mnemonic : String)
  /-- Raised by `step` where a scheduled operation is an instruction of a cell, which only a fetch can issue. Safe. -/
  | notAnEvent
  deriving DecidableEq, Repr

/-! ### Cells: the core (R165, R167, R171 to R179) -/

/-- The states of a cell (R167). -/
inductive CellState where
  | free | configured | idle | running | asleep | parked
  deriving DecidableEq, Repr

/-- The cause of a park, CSTAT.PCAUSE (R429). -/
inductive PCause where
  | none | nested | noHandler | istore | cut | self | rmPark | sink | hang
  deriving DecidableEq, Repr

/-- The stall reasons (R24, R490). -/
inductive Stall where
  | none | popEmpty | pushFull | token | semaphore | event | gang | leave | translation | deferred | vqueue
  deriving DecidableEq, Repr

/-- The state of a token slot (R66). -/
inductive SlotState where
  | idle | pending | faulted
  deriving DecidableEq, Repr

/-- A pending fault (R77, R179): the instruction O, its cause and value, the slots that hold it (bit j for kj), and
whether it is taken also where T issues to the vector queue (R315). `slot` is O's own slot; `held` says that O had
none. -/
structure FaultRec where
  seq : Nat
  pc : Nat
  opb : BitVec 8
  cause : BitVec 8
  tval : Word
  slot : BitVec 3
  slots : BitVec 8
  held : Bool
  vector : Bool
  deriving DecidableEq, Repr

/-- The instruction behind an asynchronous operation: its slot if it emits a token, its place in program order, its PC
and opcode, and whether a replay firing issued it (R445). -/
structure Tok where
  slot : Option (BitVec 3)
  seq : Nat
  pc : Nat
  opb : BitVec 8
  /-- the instruction word of O (R175) -/
  word : Word := 0
  rpl : Bool
  /-- how often the cell had written its local store (R129) -/
  at_ : Nat := 0
  deriving DecidableEq, Repr

/-- A queue-arrival trap record (R168, R175). -/
structure ArrivalRec where
  cause : BitVec 8
  tval : Word
  deriving DecidableEq, Repr

/-- What a sleeping task waits for (R24). -/
inductive WaitCond where
  /-- no slot of the mask is PENDING (R66) -/
  | slots (mask : BitVec 8)
  /-- no asynchronous instruction still writes g[n] (R149) -/
  | reg (n : Nat)
  /-- more than n words are stored at the port (R62, R231) -/
  | head (port n : Nat)
  /-- some port of the mask has a head word (R239) -/
  | anyHead (mask : BitVec 8)
  /-- the window of the port has room for n words (R217) -/
  | room (port n : Nat)
  /-- the phase endpoint has room (R235) -/
  | phaseRoom
  /-- the words pushed on the port are stored or retired (R240) -/
  | flushed (port : Nat) (retired : Bool) (upto : Nat)
  /-- fewer than 4 copies are outstanding (R248) -/
  | copyRoom
  /-- fewer than 4 calls are outstanding (R197) -/
  | callRoom
  /-- fewer than 32 global accesses are outstanding (R289) -/
  | accRoom
  /-- the conditions of a FENCE hold (R155) -/
  | fence (scope : BitVec 3) (upto : Nat)
  /-- the semaphore has reached t (R267) -/
  | sem (n t : Nat)
  /-- the slot's arrival on the line is complete (R291, R302) -/
  | evEpisode (line : Nat)
  /-- the slot has a fire to consume (R302) -/
  | evPend (line : Nat)
  /-- the slot's signal on the line is consumed (R292) -/
  | evSig (line : Nat)
  /-- the slot holds the mutex (R302) -/
  | evMutex (m : Nat)
  /-- the vector queue has room (R310) -/
  | vqRoom
  /-- no VPOPQ or VPUSHQ on a port of the mask is in the vector queue (R316) -/
  | vports (mask : BitVec 8)
  /-- no predicate or matrix instruction still writes a vector or mask register of the lists, or reads one of the second (R316,
  R384) -/
  | vreg (rd wr : List Nat)
  /-- there is room for n more matrix entries among 16 (R371) -/
  | matRoom (n : Nat)
  /-- every matrix entry of the cell before the place in program order has completed (R393) -/
  | matDone (upto : Nat)
  /-- the translation of the page of va is in a cache of the cell or its block (R135) -/
  | page (va : Nat)
  /-- no parity group of the cell's local store is being rebuilt (R273) -/
  | rebuilds
  /-- the rewind table of a cell has a free entry (R440, R461) -/
  | rewindRoom (cell : Nat)
  /-- the items of R450 are settled (R460) -/
  | settled
  deriving DecidableEq, Repr

/-- The system registers of a cell that are stored (R171 to R174); sys.status and sys.clk are computed. -/
structure Sys where
  trap : Word := 0
  tpc : BitVec 11 := 0
  tval : Word := 0
  rm : BitVec 3 := 0
  lfsr : BitVec 32 := 0
  loop : Word := 0
  flags : BitVec 5 := 0
  wd : BitVec 32 := 0x4000
  /-- sys.status.ENTRY -/
  entry : BitVec 5 := 31
  intrap : Bool := false
  wde : Bool := false
  sreq : Bool := false
  deriving DecidableEq, Repr

/-- The identity registers that the configuration stream writes (R17, R48). -/
structure Ident where
  unit : BitVec 18 := 0
  units : BitVec 19 := 0
  node : BitVec 16 := 0
  org0 : BitVec 32 := 0
  org1 : BitVec 32 := 0
  org2 : BitVec 32 := 0
  org3 : BitVec 32 := 0
  ext0 : BitVec 32 := 0
  ext1 : BitVec 32 := 0
  ext2 : BitVec 32 := 0
  ext3 : BitVec 32 := 0
  dom : BitVec 12 := 0
  load : BitVec 64 := 0
  deriving DecidableEq, Repr

/-- A semaphore (R244). -/
structure Sem where
  value : BitVec 40 := 0
  ovf : Bool := false
  deriving DecidableEq, Repr

/-! ### Queues (R204 to R229) -/

/-- The sender of a stored word: its source, its sequence number, and whether the cell's own counter chain wrote it. -/
structure Origin where
  src : Src
  seq : BitVec 32
  deriving DecidableEq, Repr

/-- An entry of the head buffer: a word with its poison bit and its side word (R216). -/
structure HeadEnt where
  v : Val
  side : Word
  deriving DecidableEq, Repr

/-- A message that waits for ring room, with its source (R214). -/
structure Msg where
  src : Src
  words : List QWord
  deriving DecidableEq, Repr

/-- An inbound endpoint (R204, R213, R226, R229). `metas` names the sender of each occupied slot, head first; `popped`
names the senders of the words popped and not yet retired (R218). -/
structure InEp where
  en : Bool := false
  diven : Bool := false
  acc : BitVec 8 := 0
  stk : BitVec 16 := 0
  /-- LOG2CAP: 6 to 16, or 0 where nothing has been written (log entry 34) -/
  log2cap : BitVec 5 := 0
  rbase : BitVec 17 := 0
  head : Nat := 0
  tail : Nat := 0
  occ : Nat := 0
  tagf : Bool := false
  ovr : Bool := false
  /-- the residual count of R62; none is 'empty' -/
  res : Option Nat := none
  /-- what a row manager wrote in RES while it held no count -/
  resOld : Nat := 0
  hb : List HeadEnt := []
  metas : List Origin := []
  waiting : List Msg := []
  popped : List Origin := []
  /-- QNP[i] and QC[i] (R428) -/
  qnp : BitVec 19 := 0
  qc : BitVec 19 := 0
  deriving DecidableEq, Repr

/-- A word in a flow window (R217). Bit c of `arrived`, `stored` and `acked` speaks of consumer c; bit c of `held`
says that consumer c's domain was SUSPENDED when the word came (R435). `slot` is its entry of the replay buffer. -/
structure WinEnt where
  w : QWord
  slot : Nat
  arrived : BitVec 8 := 0
  stored : BitVec 8 := 0
  acked : BitVec 8 := 0
  held : BitVec 8 := 0
  deriving DecidableEq, Repr

/-- An outbound endpoint (R204, R210, R217, R221, R226, R229). -/
structure OutEp where
  en : Bool := false
  path : Bool := false
  prio : BitVec 2 := 0
  deftag : BitVec 3 := 0
  lagt : BitVec 2 := 0
  mcm1 : BitVec 3 := 0
  win : BitVec 11 := 0
  rpbase : BitVec 17 := 0
  seq : BitVec 32 := 0
  dst : SMap (BitVec 32) := []
  rph : Nat := 0
  ents : List WinEnt := []
  det : BitVec 8 := 0
  nack : Bool := false
  /-- ODOM[i] (R428) -/
  odom : BitVec 12 := 0
  /-- the host port and outbound queue that take consumer 0's place (R477) -/
  hostQ : Option (Nat × Nat) := none
  /-- HSEQ of a replay firing (R444) -/
  hseq : BitVec 32 := 0
  /-- the edge ID that the loader gave the endpoint (R12, R436) -/
  edge : BitVec 16 := 0
  /-- the marker of the cut in progress has been forwarded (R459) -/
  fwd : Bool := false
  deriving DecidableEq, Repr

/-- An acknowledgement, or a NACK, on its way to a producer (R218, R435). -/
structure Ack where
  src : Src
  seq : BitVec 32
  nack : Bool
  deriving DecidableEq, Repr

/-- The counter-chain unit (R225, R229, R241). `marks` holds the levels whose LAST words are owed. -/
structure Chain where
  lim : SMap Nat := []
  port : BitVec 3 := 0
  idx : Bool := false
  mark : Bool := false
  ind : SMap Nat := []
  marks : List Nat := []
  /-- every index word of the run has been written -/
  ranOut : Bool := false
  seq : BitVec 16 := 0
  run : Bool := false
  done : Bool := false
  stopping : Bool := false
  toks : List Tok := []
  deriving DecidableEq, Repr

/-- A flush that waits for its condition with a token (R240). -/
structure Flush where
  port : Nat
  retired : Bool
  upto : Nat
  tok : Tok
  deriving DecidableEq, Repr

/-- An entry of the rewind table (R440). -/
structure Rewind where
  port : BitVec 3
  punit : BitVec 18
  expected : BitVec 16
  stop : BitVec 16
  deriving DecidableEq, Repr

/-- A checkpoint (R442); the entry that a replay resumes, with its INTRAP, belongs to it (R444, log entry 40). -/
structure Checkpoint where
  pc : Nat := 0
  entry : BitVec 5 := 31
  intrap : Bool := false
  g : SMap Val := []
  res : SMap (Option Nat) := []
  sems : SMap Sem := []
  loop : Word := 0
  lfsr : BitVec 32 := 0
  flags : BitVec 5 := 0
  rm : BitVec 3 := 0
  vl : Nat := 512
  seqs : SMap (BitVec 32) := []
  /-- for each port, the words popped since the checkpoint (R444) -/
  pops : List (Nat × Origin) := []
  deriving DecidableEq, Repr

/-! ### Global memory (R136, R141, R268 to R289) -/

/-- The operations of a global access. -/
inductive AccKind where
  | ldg | ldf | ald | stg | stf | clrf
  | aadd | afadd | amin | amax | axchg | acas | aor | aand
  deriving DecidableEq, Repr

/-- Where an access stands: sent, NACKed n times by a full table, deferred, held for an ownership transfer, on its way to
another module as a packet, performed with a value (and the flags of an AFADD), or faulted. -/
inductive AccStatus where
  | sent
  | nacked (n : Nat)
  | deferred
  | ownerWait
  | away (nacks : Nat)
  | done (v : Val) (flags : BitVec 5)
  | failed (cause : BitVec 8)
  deriving DecidableEq, Repr

/-- A global access that has issued and whose reply has not reached the cell (R289). -/
structure Access where
  kind : AccKind
  va : Nat
  pa : Nat
  size : Nat
  sx : Bool
  sgn : Bool
  mode : BitVec 3
  rnd : BitVec 32
  d : BitVec 6
  data : Val
  cmp : Val
  tok : Tok
  status : AccStatus
  /-- kind and domain of the page at the time of the issue -/
  pkind : Nat := 0
  pdom : BitVec 12 := 0
  deriving DecidableEq, Repr

/-- The pending-read record of a cut (R450). -/
structure PendingRead where
  va : Nat
  size : Nat
  sx : Bool
  d : BitVec 6
  tok : Tok
  deriving DecidableEq, Repr

/-- A page in a translation cache or in the pager's table: its first virtual address, its entry (R136), and in a block's
cache the domain that it is tagged with (R138). -/
structure Page where
  va : Nat
  entry : Word
  tag : BitVec 12 := 0
  deriving DecidableEq, Repr

/-- Who misses a translation: a cell, or the engines of a block for a domain (R138). -/
inductive MissBy where
  | cell (cell : Nat)
  | block (block : Nat) (dom : BitVec 12)
  deriving DecidableEq, Repr

/-- A call that has issued and has no reply yet (R197, R466, R469). -/
structure Call where
  header : Word
  arg : Word
  d : BitVec 6
  tok : Tok
  /-- when its service unit received it from the gate, as a number that rises from call to call (R465, R469) -/
  stamp : Option Nat := none
  /-- status and value of the reply, once the service has made it -/
  reply : Option (Word × Word) := none
  deriving DecidableEq, Repr

/-- How far an engine is with a word (R250, R251, R257, R277): refused n times by a full table, asked for, read, on its way to
where the low n bytes are written, or ended by a cause, at the source or not. -/
inductive WordSt where
  | nacked (n : Nat)
  | asked (nacks : Nat)
  | got (v : Val)
  | putting (v : Val) (n : Nat)
  | done
  | failed (cause : BitVec 8) (atSource : Bool)
  deriving DecidableEq, Repr

/-- A copy command (R248 to R254, R262): its operands; how many words have passed the checks of R250 and before which word it
stops; the words under way and those that have ended; the bytes delivered; and the causes recorded, with their words. -/
structure CopyCmd where
  cell : Nat
  tok : Tok
  /-- 0 CPY/CPYS G2L, 1 CPY/CPYS L2G, 2 CPYG, 3 CPYD, 4 an exchange transfer -/
  form : Nat
  dst : Nat
  src : Nat
  len : Nat
  rows : Nat
  sstr : Int
  dstr : Int
  target : Nat
  se : Bool
  sem : Nat
  dom : BitVec 12
  rpl : Bool
  leave : Nat := 0
  checked : Nat := 0
  stop : Option Nat := none
  words : SMap WordSt := []
  fin : Marks := []
  bytes : Nat := 0
  causes : List (Nat × BitVec 8 × Word) := []
  deriving DecidableEq, Repr

/-- A plain store that an entry of a combining buffer holds. -/
structure CombBy where
  cell : Nat
  tok : Tok
  va : Nat
  deriving DecidableEq, Repr

/-- A 64-byte entry of a combining buffer (R141): its number, its line in physical memory, its bytes, whether it has left for its
home, and left for another module, and the stores it holds. -/
structure CombEnt where
  no : Nat
  line : Nat
  bytes : SMap Byte
  since : Nat
  sent : Bool := false
  away : Bool := false
  by_ : List CombBy := []
  deriving DecidableEq, Repr

/-- A read deferred at a home tile (R276), or an access held for an ownership transfer (R143): of an agent of this module, of
another module with its packet, or of a service: a read for a call, or a write of n bytes. -/
inductive Deferred where
  | ask (who : Asker)
  | far (module : Nat) (op : PacketOp)
  | service (call : CallId)
  | servicePut (v : Word) (n : Nat)
  deriving DecidableEq, Repr

/-- A host-shared region (R142 to R145): its owner, the clk of its last transfer while the minimum interval runs, the
device accesses it holds with their addresses and the host requests, in arrival order, a request with its port and its number there (R147). -/
structure Region where
  host : Bool := false
  since : Option Nat := none
  held : List (Nat × Deferred) := []
  reqs : List (Nat × Nat × HostReq) := []
  deriving DecidableEq, Repr

/-- Stored bits of a word that differ from what was written there (R272): those of the data, of the 8 horizontal parity bits,
and whether its presence bit cannot be rebuilt. The parity bits and the vertical parity rows themselves are functions of the words
as they were written. -/
structure Upset where
  data : Word
  par : Byte
  presence : Bool := false
  deriving DecidableEq, Repr

/-- A rebuild of a parity group in progress (R273), and since when. -/
structure Rebuild where
  grp : ParityGroup
  since : Nat
  deriving DecidableEq, Repr

/-- What a translation change does when it completes (R139, R140, R472). -/
inductive ChangeKind where
  | unmap
  | setWrite (w : Bool)
  | move (pa : Nat)
  deriving DecidableEq, Repr

/-- A translation change in progress (R139): its call, its range and domain, what it does, the caches that have not
returned their acknowledgement, and those of them that have removed their entries. -/
structure Change where
  call : CallId
  va : Nat
  len : Nat
  dom : BitVec 12
  kind : ChangeKind
  waits : List CacheId
  cut : List CacheId := []
  deriving DecidableEq, Repr

/-- A leave request of a block governor (R39, R497). -/
inductive LeaveBy where
  | gang (strip : Nat) (seq : Nat)
  | burst (quad : Nat)
  | copy
  | reserve (strip : Nat)
  deriving DecidableEq, Repr

/-- A request for leave or leave held, in the governor's units, with the clk for which a gang asks it (R381). -/
structure Leave where
  by_ : LeaveBy
  amount : Nat
  clk : Nat
  deriving DecidableEq, Repr

/-! ### Vector, predicate and matrix state -/

-- BEGIN ENGINES
/-- A vector register: 512 positions of 32 bits, position i in bits [32i + 31 : 32i], and their poison bits (R305, R306). -/
structure VReg where
  d : BitVec 16384 := 0
  p : BitVec 512 := 0
  deriving DecidableEq, Repr

/-- A mask register and its poison bits (R305). -/
structure MReg where
  b : BitVec 512 := 0
  p : BitVec 512 := 0
  deriving DecidableEq, Repr

/-- Where a lane of a predicate was settled: not yet, or at a stage (R345 to R347). -/
inductive Stage where
  | none | a | b | c
  deriving DecidableEq, Repr

/-- An active lane of a predicate (R344): its record as read, the poison of its results, and what settled it: the result,
the degeneracy and DUP bits, and whether perturbation decided it. -/
structure PredLane where
  lane : Nat
  words : List Val
  pois : Bool
  stage : Stage := .none
  res : BitVec 32 := 0
  z : Bool := false
  dup : Bool := false
  pert : Bool := false
  deriving DecidableEq, Repr

/-- An entry of the vector queue (R310): the instruction in format V, or X for a predicate, its g operands, the mode and
the sys.lfsr of its issue, the VL it captured, and whether it has begun; for a predicate, the lanes it has read. The slots it has
taken on each resource of R312 and its port clk are counted, and the third firings of its elements kept (R124); `wrote` names the lane
groups whose results are in the registers, and `fl` their flags. -/
structure VEntry where
  op : BitVec 8
  f : FmtV
  x : FmtX
  ga : Val
  gb : Val
  gc : Val
  mode : BitVec 3
  lfsr : BitVec 32
  vl : Nat
  tok : Tok
  begun : Bool := false
  lanes : List PredLane := []
  taken : SMap Nat := []
  cost : Nat := 0
  refired : List Refire := []
  wrote : List Nat := []
  fl : BitVec 5 := 0
  deriving DecidableEq, Repr

/-- The vector state of a cell (R305, R312, R313), and its predicates past hand-off and their counters (R356, R364). -/
structure VecState where
  v : SMap VReg := []
  m : SMap MReg := []
  vl : Nat := 512
  queue : List VEntry := []
  deficit : SMap Nat := []
  weight : BitVec 4 := 1
  preds : List VEntry := []
  cnta : Nat := 0
  cntb : Nat := 0
  cntc : Nat := 0
  cntp : Nat := 0
  deriving DecidableEq, Repr

/-- What a join brings to its group (R368, R369, R384): kind 0 MGANG, 1 MLEAVE.RSV, 2 MLEAVE.REL; the fields compared; the
A and B descriptors; and the scale t. -/
structure Join where
  j : Nat
  kind : Nat
  acc : Nat := 0
  n : Nat := 0
  kb : Nat := 0
  int : Nat := 0
  cut : Bool × BitVec 4 := (false, 0)
  w : Nat := 0
  a : Word := 0
  b : Word := 0
  t : Int := 0
  deriving DecidableEq, Repr

/-- A matrix entry of a cell (R371, R388): a join, or a transfer of accumulator acc and vector register v. -/
structure MatEntry where
  tok : Tok
  join : Option Join
  acc : Nat
  v : Nat
  clr : Bool
  deriving DecidableEq, Repr

/-- The matrix state of a cell (R366): accumulators as vector registers under R367, the elements of them whose parity fails (R385),
scales, the cut policy, MSTAT bits
[7:0], the entries in program order, and the number of its next join. -/
structure MatState where
  acc : SMap VReg := []
  bad : List (Nat × Nat) := []
  sc : SMap Int := []
  cut : Bool × BitVec 4 := (false, 0)
  stat : BitVec 8 := 0
  entries : List MatEntry := []
  joined : Nat := 0
  deriving DecidableEq, Repr

/-- A segment of an agent's supply (R407, R419): its destination, the address and length of what is not yet sent, and
whether it is held from an earlier round (R413). -/
structure Segment where
  dst : Nat
  addr : Nat
  len : Nat
  held : Bool
  deriving DecidableEq, Repr

/-- A post (R420): D(s, p) for each p (R409), the receive base and the receive limit. -/
structure Post where
  demand : List Nat
  base : Nat
  limit : Nat
  deriving DecidableEq, Repr

/-- The agent of a cell for one group (R407, R423): its state, supply, latest post with whether it has reached the arbiter, the tokens of
the posts whose acknowledgement is still out, each with whether its post has arrived, what XGRANT and XDONE name, and the causes recorded
with their addresses (R414). -/
structure Agent where
  st : Nat := 0
  segs : List Segment := []
  held : Nat := 0
  round : BitVec 16 := 0
  stby : Bool := false
  fails : Nat := 0
  post : Option Post := none
  arrived : Bool := false
  acks : List (Tok × Bool) := []
  recAt : Nat := 0
  se : Bool := false
  sem : Nat := 0
  grant : Option (BitVec 6 × Tok) := none
  closing : Option (BitVec 6 × Tok) := none
  causes : List (Nat × BitVec 8) := []
  /-- the words under way, a source word at twice its virtual address div 8, a destination word at the number after that -/
  words : SMap WordSt := []
  deriving DecidableEq, Repr

/-- Page 7 of a cell by field number (R487): breakpoints 0 to 3, watchpoints 4 to 11, SAMP and TRCEN. -/
structure DebugState where
  f : SMap (BitVec 32) := []
  deriving DecidableEq, Repr

/-- A stage-C burst: the lanes of one predicate instruction, and whether its leave has been asked for and granted (R358). -/
structure Burst where
  cell : Nat
  seq : Nat
  lanes : List Nat
  asked : Bool := false
  granted : Bool := false
  deriving DecidableEq, Repr

/-- A lane that waits for or is in stage B (R357): its cell, the place of its instruction in program order, the lane, and the clk of
the hand-off. -/
structure BLane where
  cell : Nat
  seq : Nat
  lane : Nat
  since : Nat
  deriving DecidableEq, Repr

/-- A quad: the arbiter's turn for each resource (R312), the lanes that wait for or are in stage B in the order they are
served, and the stage-C queue (R357, R358). -/
structure Quad where
  cur : SMap Nat := []
  stageB : List BLane := []
  stageC : List Burst := []
  deriving DecidableEq, Repr

/-- A formed group that has not completed (R369, R380): the fields of its joins, W, whether its leave is asked for and
granted, and for a gang whether it has started, whether it did so under the reservation, and the clk at which it has streamed. -/
structure Group where
  j : Nat
  kind : Nat
  acc : Nat
  n : Nat
  kb : Nat
  w : Nat
  asked : Bool := false
  granted : Bool := false
  started : Bool := false
  covered : Bool := false
  endAt : Nat := 0
  deriving DecidableEq, Repr

/-- The matrix side of a strip (R366, R379, R380): the formed groups in order, the number of the next to form, the
reservation, and the clk at which the last started gang has streamed. -/
structure StripMat where
  groups : List Group := []
  next : Nat := 0
  rsv : Nat := 0
  streamEnd : Nat := 0
  deriving DecidableEq, Repr

/-- A fill-once word that a round assembles for a receiver (R414): the bytes delivered, each with its sender. -/
structure AsmWord where
  part : Nat
  va : Nat
  bytes : List (Nat × Byte × Nat)
  deriving DecidableEq, Repr

/-- A closed round (R408 to R413): its participants with their receive bases, G, the phases as (sender, receiver), the
phase that runs or is next, the senders whose pair of it has ended, the participants on other modules whose record has left, those with a
record and those that are done, the pairs that sent SHORT, the bytes delivered, those written in a receiver's region since its semaphore
last took them, the first circuit of each running pair (R412), the bytes of its slot that a sender has consumed, the senders that are
through with their slot, and what stands on the circuits. -/
structure XRound where
  no : BitVec 16
  bases : List (Nat × Nat)
  grants : List ((Nat × Nat) × Nat)
  phases : List (List (Nat × Nat))
  phase : Nat := 0
  running : Bool := false
  ended : List Nat := []
  sent : List Nat := []
  written : List Nat := []
  left : List Nat := []
  short : List (Nat × Nat) := []
  delivered : List ((Nat × Nat) × Nat) := []
  fresh : SMap Nat := []
  circuits : SMap Nat := []
  used : SMap Nat := []
  through : List Nat := []
  inbox : List ((Nat × Nat) × XItem) := []
  asm : List AsmWord := []
  deriving DecidableEq, Repr

/-- An exchange group at the arbiter (R406, R408, R416): its fields, the number and posts of the open round with the clk
of the first, the closed rounds, the circuits that the load has reserved for a phase (R412), the heartbeat, and whether the primary has
failed and the standby has taken over. -/
structure XGroup where
  cfg : BitVec 32 := 0
  agents : SMap (BitVec 32) := []
  stby : BitVec 32 := 0
  lanes : BitVec 32 := 32
  round : BitVec 16 := 0
  posts : List (Nat × Post) := []
  firstAt : Nat := 0
  rounds : List XRound := []
  reserved : Nat := 0
  beatAt : Nat := 0
  dead : Bool := false
  taken : Bool := false
  deriving DecidableEq, Repr

/-! ### Links (R394 to R403) -/

/-- A flit in a replay buffer (R396): its words, word 0 holding its FSEQ, and how often it has been sent again. -/
structure SentFlit where
  words : List Word
  tries : Nat := 0
  deriving DecidableEq, Repr

/-- A packet that a virtual channel of a port is receiving (R395): the words of its head flit, its flits so far, and the
port it is being forwarded on cut-through. -/
structure RxPacket where
  head : List Word
  flits : Nat
  out : Option Nat
  fseq : BitVec 12
  deriving DecidableEq, Repr

/-- A link port (R394, R396, R403): its fields, whether it is up and on which lanes, the lanes that have failed, the peer it
found, the next FSEQ to send and the one expected, the replay buffer, the flit from which replay is asked for, the packet
each virtual channel is receiving, whether the peer is frozen (R493), and for each circuit channel the words that have left on it and are
not acknowledged (R405). -/
structure LinkPort where
  ctl : BitVec 32 := 0xFF
  peer : BitVec 32 := 0
  tidx : BitVec 32 := 0
  tdata : BitVec 32 := 0
  cch : SMap (BitVec 32) := []
  up : Bool := false
  good : BitVec 8 := 0
  failed : BitVec 8 := 0
  peerMod : BitVec 10 := 0
  tx : BitVec 12 := 0
  rx : BitVec 12 := 0
  sent : List SentFlit := []
  ask : Option (BitVec 12) := none
  rxs : SMap RxPacket := []
  peerFrozen : Bool := false
  circ : SMap (List (Src × BitVec 32)) := []
  /-- the domain and the load that a channel is tagged with, where a load has bound it (R405, R433) -/
  chanTag : SMap (BitVec 12 × BitVec 64) := []
  /-- the last notice sent to the peer was FROZEN (R493, R495) -/
  notice : Bool := false
  deriving DecidableEq, Repr

/-- A link plane (R401, R402): entry i of copy c at key 1,024 c + i, ACT, whether it has ever switched, and the markers
seen since the switch as (port, virtual channel). -/
structure Plane where
  table : SMap (BitVec 4) := []
  act : Bool := false
  switched : Bool := false
  marks : List (Nat × Nat) := []
  deriving DecidableEq, Repr

/-- The head of a packet that has arrived whole (R395). -/
structure PacketHead where
  src : Nat
  kind : Nat
  eseq : BitVec 32
  deriving DecidableEq, Repr

/-- The packets of one source module and virtual channel (R399): the next ESEQ to deliver, and those held. -/
structure InStream where
  next : BitVec 32 := 0
  held : List PacketHead := []
  deriving DecidableEq, Repr

/-- A packet that no acknowledgement has reached (R399, R402). -/
structure OutPacket where
  eseq : BitVec 32
  plane : Nat
  tbl : Bool
  op : PacketOp
  deriving DecidableEq, Repr

/-- The packets to one destination module on one virtual channel (R398, R399): the next ESEQ, those not acknowledged, and
those that stall. -/
structure OutStream where
  next : BitVec 32 := 0
  unacked : List OutPacket := []
  waiting : List PacketOp := []
  deriving DecidableEq, Repr

/-! ### Services, host ports, debug and power -/

/-- A mailbox call that has no reply yet (R480): its place among the port's calls, its two words, and when loader unit 0
received it. -/
structure MailCall where
  n : Nat
  header : Word
  arg : Word
  stamp : Nat
  deriving DecidableEq, Repr

/-- An outbound host ring (R479, R481): BASE, SIZE, HEAD, TAIL. -/
structure HostRing where
  base : Word := 0
  size : Nat := 0
  head : BitVec 32 := 0
  tail : BitVec 32 := 0
  deriving DecidableEq, Repr

/-- A host port (R143, R479 to R481): its link, the directory of lines that the host has read through it, the rings, the
mailbox with the first word of a pair and the number of calls it has accepted, the words of the services for its outbound
queues 15 and 14 in order as (queue, data, side word, domain), the sequence numbers of those, the number
of CXL.mem requests held, the entries that the rings have written to host memory as (address, data, side word), and the data
returned to the host's reads with the poison mark. -/
structure HostPort where
  up : Bool := false
  x8 : Bool := false
  mem : Bool := false
  dir : Marks := []
  rings : SMap HostRing := []
  half : Option Word := none
  mail : List MailCall := []
  mails : Nat := 0
  replies : List (Nat × Word × Word × BitVec 12) := []
  replySeq : BitVec 32 := 0
  logSeq : BitVec 32 := 0
  accepted : Nat := 0
  wrote : List (Word × Word × Word) := []
  data : List (Nat × BitVec 512 × Bool) := []
  deriving DecidableEq, Repr

/-- An allocation (R472): what ALLOC answered and the bytes mapped. -/
structure Alloc where
  dom : BitVec 12
  va : Nat
  len : Nat
  deriving DecidableEq, Repr

/-- A record of a domain's log (R474). -/
structure LogRec where
  clk : Nat
  cell : Nat
  dtag : Nat
  value : Word
  deriving DecidableEq, Repr

/-- A domain's log: how many records were written, and the latest 2^20 of them. -/
structure Log where
  count : Nat := 0
  recs : List LogRec := []
  deriving DecidableEq, Repr

-- END ENGINES

/-! ### Cells -/

/-- A cell: everything R8 lists for it, and the row manager's registers for it (R428). -/
structure Cell where
  st : CellState := .free
  /-- the state held before parking (R167) -/
  heldSt : CellState := .idle
  pcause : PCause := .none
  ident : Ident := {}
  /-- HA[n] and HB[n] (R19) -/
  ha : SMap (BitVec 32) := []
  hb : SMap (BitVec 32) := []
  /-- PAGE (R47) -/
  page : BitVec 3 := 0
  /-- last[lvl] (R23) -/
  last : SMap Nat := []
  /-- since when entry e has been runnable (R23) -/
  runSince : SMap Nat := []
  g : SMap Val := []
  /-- items that a row manager has written since the cell became CONFIGURED (R500) -/
  kept : List (Nat × Nat) := []
  pc : Nat := 0
  istore : SMap Word := []
  store : Memory := []
  storePoison : Marks := []
  /-- words of the local store whose stored bits have changed by themselves (R272) -/
  upsets : SMap Upset := []
  /-- how often the cell's instructions have written its local store, and what those writes replaced while an engine may still
  read it: word, value, number of the write, and whether the vector queue made it (R129) -/
  writes : Nat := 0
  priors : List (Nat × Val × Nat × Bool) := []
  slots : SMap SlotState := []
  /-- the instruction whose token a PENDING slot awaits, and the record of a FAULTED one -/
  faults : List FaultRec := []
  /-- the fault held with no slot (R281) -/
  heldFault : Option FaultRec := none
  sys : Sys := {}
  /-- the last clk in which a firing set flags, and those it set (R177) -/
  fired : Nat × BitVec 5 := (0, 0)
  arrivals : List ArrivalRec := []
  arrLost : Bool := false
  /-- g registers that an asynchronous instruction will write (R149) -/
  busy : List Nat := []
  iseq : Nat := 0
  readyAt : Nat := 0
  /-- the clk at which sys.clk was 0, modulo 2^64 -/
  startAt : Word := 0
  wait : Option (Stall × WaitCond) := none
  sleepAt : Nat := 0
  /-- since when the sleep has been on what it is on now (R221) -/
  waitAt : Nat := 0
  wdSent : Bool := false
  /-- the part of the instruction at PC that it has already done when it sleeps half-way (R237, R302, R366, R459) -/
  step : Nat := 0
  /-- RETT from entry 18 lets T pass its breakpoint once (R181) -/
  bpSkip : Bool := false
  rmParkReq : Bool := false
  /-- an ABORT waits for the engine entries of the task (R429) -/
  abortReq : Bool := false
  parkWait : Option PCause := none
  -- queues
  bind : SMap (BitVec 2) := []
  ins : SMap InEp := []
  outs : SMap OutEp := []
  callq : BitVec 32 := 0
  phaseq : BitVec 32 := 0
  /-- the words of the phase endpoint that the root has not consumed, and how many of them have left for another module -/
  phaseOut : List QWord := []
  phaseSent : Nat := 0
  acks : List Ack := []
  chain : Chain := {}
  flushes : List Flush := []
  rewinds : List Rewind := []
  qreq : Bool := false
  qcut : BitVec 32 := 0
  /-- the phase accumulator D, and the borrow requests that wait at it, each with its module (R29, R30) -/
  phaseD : Nat := 0
  borrows : List (Nat × Word) := []
  /-- the root has signalled the end of the phase (R29) -/
  phaseEnd : Bool := false
  -- copies and semaphores
  sems : SMap Sem := []
  semInit : SMap (BitVec 32) := []
  eagh : SMap (BitVec 12) := []
  eagRun : SMap Bool := []
  copies : List Nat := []
  eagReads : List (BitVec 6 × Tok × Word) := []
  -- global memory
  accs : List Access := []
  tlb : List Page := []
  /-- the address of which the cell misses a translation, and whether the access writes (R138, R473) -/
  missing : Option (Nat × Bool) := none
  /-- the pager has refused the translation that the cell asked for (R137) -/
  refused : Option Nat := none
  /-- the pending-read record of a cut, and the copy commands that waited on an empty word (R450) -/
  pendingReads : List PendingRead := []
  savedCopies : List CopyCmd := []
  -- calls and privileged requests
  calls : List Call := []
  ptests : List (BitVec 6 × Tok × Word) := []
  wdog : Option (Nat × Nat) := none
  -- containment
  /-- CCTL.RPL as last written (R429), and whether the firing that runs is a replay firing (R445) -/
  rplReg : Bool := false
  rpl : Bool := false
  replays : Nat := 0
  nonReplay : Bool := false
  sinkPending : Bool := false
  ckpt : Checkpoint := {}
  -- circuit lanes (page 6)
  lanes : SMap (BitVec 32) := []
  /-- the domain and the load that a lane field is tagged with, where a load has bound it (R405, R433) -/
  laneTag : SMap (BitVec 12 × BitVec 64) := []
  vec : VecState := {}
  mat : MatState := {}
  /-- by exchange group -/
  agents : SMap Agent := []
  dbg : DebugState := {}
  deriving DecidableEq, Repr

/-! ### Strips, blocks, generators -/

/-- The combine value of an episode (R290, R295). -/
structure Comb where
  v : BitVec 32
  p : Bool
  fn : BitVec 3
  mix : Bool
  deriving DecidableEq, Repr

/-- A change on its way to the event unit: when it issued, by which slot, and what it does (R294, R303). -/
inductive EvOp where
  | arrive (line : Nat) (c : Option Comb)
  | signal (line : Nat)
  | lock (m : Nat)
  | unlock (m : Nat)
  deriving DecidableEq, Repr

/-- An operation in flight to the event unit, with the token it fires when it is applied. -/
structure EvItem where
  issuedAt : Nat
  slot : Nat
  op : EvOp
  tok : Tok
  deriving DecidableEq, Repr

/-- An arrival whose token, or result, waits for its episode (R302). -/
structure EvWaiter where
  slot : Nat
  tok : Tok
  d : BitVec 6
  /-- the function of an EVCMB; none for EVARR -/
  fn : Option (BitVec 3)
  deriving DecidableEq, Repr

/-- A barrier line (R290, R299). -/
structure Barrier where
  cfg : BitVec 32 := 0
  gen : BitVec 16 := 0
  arr : BitVec 8 := 0
  accv : Option Comb := none
  res : BitVec 32 := 0
  resP : Bool := false
  waiters : List EvWaiter := []
  /-- episode of each slot's most recent arrival (R302) -/
  arrived : SMap Nat := []
  /-- children that have reported, and whether this strip has reported to its parent (R297) -/
  reports : BitVec 8 := 0
  reported : Bool := false
  deriving DecidableEq, Repr

/-- An event line (R290, R299). -/
structure EventLine where
  cfg : BitVec 32 := 0
  pend : BitVec 8 := 0
  sigd : BitVec 8 := 0
  fcnt : BitVec 16 := 0
  deriving DecidableEq, Repr

/-- A mutex (R290). -/
structure Mutex where
  hold : Option Nat := none
  wq : List Nat := []
  /-- tokens of the requesting slots -/
  toks : List (Nat × Tok) := []
  deriving DecidableEq, Repr

/-- An UP message: the sender, the line and its ACCV; or a DOWN message: the line and RES (R297). -/
structure UpMsg where
  fromStrip : Nat
  line : Nat
  accv : Option Comb
  deriving DecidableEq, Repr

/-- The result of an EVCMB whose episode is complete and whose destination is not yet written (R302). -/
structure EvDue where
  slot : Nat
  tok : Tok
  d : BitVec 6
  v : Val
  deriving DecidableEq, Repr

/-- A strip (R8): its event unit, the tree links of R299 and its matrix array. -/
structure Strip where
  par : BitVec 32 := 0
  kids : SMap (BitVec 32) := []
  bars : SMap Barrier := []
  evs : SMap EventLine := []
  muts : SMap Mutex := []
  evq : List EvItem := []
  due : List EvDue := []
  ups : List UpMsg := []
  downs : List (Nat × BitVec 32 × Bool) := []
  fires : List Nat := []
  /-- the load for whose START the unit took its reset values (R290, R366) -/
  live : Option (BitVec 64) := none
  mat : StripMat := {}
  deriving DecidableEq, Repr

/-- A block (R8): combining buffer, block translation cache, copy engine, governor, MTSTAT. -/
structure Block where
  comb : List CombEnt := []
  tlb : List Page := []
  copyq : List CopyCmd := []
  running : List CopyCmd := []
  /-- the number of the next entry of the combining buffer -/
  combNo : Nat := 0
  /-- translations that the pager has refused its copy engine and generators: domain and address (R137) -/
  refused : List (BitVec 12 × Nat) := []
  mtstat : Word := 0
  /-- GOV.BUDGET as a configuration master wrote it since the ring supervisor's last write (R489, R497) -/
  budget : Option Nat := none
  held : List Leave := []
  reqs : List Leave := []
  /-- fields 56 to 58 of the block element: the tile watchpoint (R489) -/
  tw : SMap (BitVec 32) := []
  /-- GOV.TRC (R489) -/
  govTrc : Bool := false
  deriving DecidableEq, Repr

/-- The run of an EAG: the cell and handle that started it, its token, and whether a stop has been asked (R265). -/
structure EagRun where
  cell : Nat
  handle : Nat
  tok : Tok
  stopping : Bool := false
  stopToks : List Tok := []
  deriving DecidableEq, Repr

/-- An edge address generator (R255, R257). -/
structure Eag where
  regs : SMap Word := []
  dom : BitVec 12 := 0
  /-- the edge that it produces in queue mode (R436, R477) -/
  edge : BitVec 16 := 0
  run : Option EagRun := none
  win : List WinEnt := []
  nack : Bool := false
  /-- words of element NEXT that have entered the window (R257) -/
  part : Nat := 0
  /-- the words read, by 64 times the element and the word -/
  words : SMap WordSt := []
  /-- the cut whose marker the generator owes, and whether that cut has stopped it before its end (R448, R453) -/
  cut : Option (BitVec 32) := none
  again : Option (Nat × Nat) := none
  deriving DecidableEq, Repr

/-- An inbound host queue q of a port: its STAT bits, the doorbell buffer, its window and the endpoint it is bound to
(R479, R480). A buffered word holds its tag and how many CXL.mem requests the port had accepted before it (R147). -/
structure HostQueue where
  bound : Bool := false
  /-- the domain of the load that binds it (R480) -/
  dom : BitVec 12 := 0
  dst : BitVec 32 := 0
  win : Nat := 0
  edge : BitVec 16 := 0
  /-- the priority of its edge (R205) -/
  prio : BitVec 2 := 0
  seq : BitVec 32 := 0
  buf : List (BitVec 3 × Word × Nat) := []
  ents : List WinEnt := []
  badw : Bool := false
  ovf : Bool := false
  deriving DecidableEq, Repr

/-- A unit in a cut record (R452): its node, its number, its cell and the cell's state. -/
structure UnitRec where
  node : Nat
  unit : Nat
  cell : Nat
  st : Cell
  deriving DecidableEq, Repr

/-- A page in a cut record (R451, R452): the page, its bytes, and its poison and presence bits. -/
structure PageRec where
  page : Page
  bytes : Memory
  poison : Marks
  present : Marks
  deriving DecidableEq, Repr

/-- A cut record (R452), held as data: the services alone read it back (log entry 15). `at_` is the clk of the save. -/
structure CutRec where
  cut : BitVec 32
  at_ : Nat
  units : List UnitRec
  strips : List (Nat × Strip)
  eags : List Eag
  pages : List PageRec
  deriving DecidableEq, Repr

/-- A graph that the loader knows (R12, R14, R448, R471): its domain and latest load serial, its units as (node, unit,
cell) with the root first among equals, its generators and exchange groups, whether its phase has ended and its mark is
out, the cut in progress, whether it is swapped out or terminated, the latest cut record, the image, and the load
parameter block as it was read. -/
structure Graph where
  dom : BitVec 12
  serial : BitVec 32
  units : List (Nat × Nat × Nat)
  root : Nat
  eags : List Nat := []
  groups : List Nat := []
  vas : List Nat := []
  ended : Bool := false
  marked : Bool := false
  cut : Option (BitVec 32) := none
  swapped : Bool := false
  torn : Bool := false
  saved : Option CutRec := none
  img : Image
  block : List Word
  deriving DecidableEq, Repr

/-- What the services hold (R464 to R486): whether the service graph runs, the number of calls received, the last load serial, the last cut number, the
graphs by ID, the allocations, the logs, the fused minimum version and the version that runs, the attestation leaf counter,
and the rows' repair records (R455). -/
structure Services where
  running : Bool := false
  stamp : Nat := 0
  serial : BitVec 32 := 0
  cutNo : BitVec 32 := 0
  graphs : SMap Graph := []
  /-- later loads of a graph, by its ID: configured, they start once every earlier load is marked (R13, R14) -/
  waiting : List (Nat × Graph) := []
  allocs : List Alloc := []
  logs : SMap Log := []
  minVersion : Word := 0
  version : Word := 0
  /-- the running firmware image (R486) -/
  firmware : List Byte := []
  leaf : Nat := 0
  /-- the ROUTES calls under way, each with the next plane to treat (R475) -/
  routing : List (CallId × Nat) := []
  /-- words that a service was waiting for when their region came back from the host: call, address, value (R143) -/
  latched : List (CallId × Nat × Val) := []
  /-- the load marks that the loader has emitted, oldest first (R14, R15, R120) -/
  marks : List Word := []
  retired : Marks := []
  rowMap : SMap Nat := []
  colMap : SMap Nat := []
  spared : List (Nat × Nat) := []
  failedStacks : List Nat := []
  deriving DecidableEq, Repr

/-- The freeze tree, MDLCTL and the TAP (R426, R493 to R495): the clk at which the clocks stop once a freeze is requested,
FCNT, FPIN and FROW, the instruction register, MDLSEL, the read-out lanes, how many words have been shifted out, the
last of them, the bypass register, and the boundary-scan register, of which 64 bits stand for whatever length it has. -/
structure Debug where
  stopAt : Option Nat := none
  fcnt : BitVec 32 := 0
  fpin : Bool := false
  frow : BitVec 9 := 0
  ir : BitVec 8 := 1
  sel : Word := 0
  lanes : Bool := false
  shifted : Nat := 0
  out : Word := 0
  bypass : Bool := false
  scan : Word := 0
  deriving DecidableEq, Repr

/-- The ring supervisor's management registers (R496 to R498): whether there is power, BOOTSTAT, the dynamic address, TEMP, PCAP,
the firmware staging area, the BUDGET that the supervisor last set in every block, and how often heat has lowered it by 8. -/
structure Power where
  on : Bool := true
  step : BitVec 4 := 0
  code : BitVec 8 := 0
  addr : Option (BitVec 7) := none
  temp : BitVec 16 := 0
  pcap : BitVec 32 := 26000
  staged : List Byte := []
  budget : Nat := 58
  hot : Nat := 0
  deriving DecidableEq, Repr

/-- Module-wide state of the exchange, the links, the services, the host ports and the debug path. -/
structure Carrier where
  /-- XA.SEL (R406) and the groups -/
  xsel : BitVec 32 := 0
  xgroups : SMap XGroup := []
  /-- link ports 0 to 31 and planes 0 to 3 -/
  ports : SMap LinkPort := []
  planes : SMap Plane := []
  /-- streams by 4 * module + virtual channel, and the plane whose turn it is by destination (R398) -/
  ins : SMap InStream := []
  outs : SMap OutStream := []
  spray : SMap Nat := []
  hosts : SMap HostPort := []
  svc : Services := {}
  dbg : Debug := {}
  pwr : Power := {}
  deriving DecidableEq, Repr

/-- A row manager's core (R424): pc, the integer and floating-point registers, the privilege mode, the machine-mode registers, PMP, the
counters, fcsr, the address that a load-reserved holds, mtimecmp, msip, what mtime is ahead of the clk, and its SRAM (log entry 63). -/
structure Hart where
  pc : Word := 0
  x : SMap Word := []
  f : SMap Word := []
  machine : Bool := true
  mstatus : Word := 0
  mie : Word := 0
  mtvec : Word := 0
  mcounteren : Word := 0
  mscratch : Word := 0
  mepc : Word := 0
  mcause : Word := 0
  mtval : Word := 0
  pmpcfg : SMap (BitVec 8) := []
  pmpaddr : SMap Word := []
  instret : Word := 0
  cycleBase : Word := 0
  fcsr : BitVec 8 := 0
  reserved : Option Nat := none
  mtimecmp : Word := 0
  msip : Bool := false
  timeBase : Word := 0
  sram : Memory := []
  deriving DecidableEq, Repr

/-- A row and its manager (R424, R432, R434, R456). -/
structure Row where
  fq : List (Word × Word) := []
  fqLost : Bool := false
  quince : SMap Word := []
  /-- entries of each domain's spill queue (R436) -/
  spills : SMap Nat := []
  hbeat : Word := 0
  /-- the clk of the last heartbeat -/
  beatAt : Nat := 0
  takenBy : Option Nat := none
  /-- the Bramble buffer, oldest record first, and the records dropped since the last one accepted (R491) -/
  trace : List (Word × Word) := []
  traceLost : Nat := 0
  /-- the word that the last read of the fault queue's first word gave (R432) -/
  popped : Word := 0
  hart : Hart := {}
  deriving DecidableEq, Repr

/-- The context a configuration master keeps for one issuer (R43 to R49). -/
structure Issuer where
  based : Bool := false
  space : BitVec 3 := 0
  base : Nat := 0
  stopped : Bool := false
  words : Nat := 0
  deriving DecidableEq, Repr

/-- A word in flight that no window holds: a phase grant, a SEQSYNC word (R30, R222). -/
structure NetMsg where
  cell : Nat
  port : BitVec 3
  w : QWord
  /-- the endpoint that sent a SEQSYNC word -/
  from_ : Option (Nat × Nat) := none
  deriving DecidableEq, Repr

/-- What an agent of the machine does by itself that no row of the opcode table names: a copy engine moves one word of a running
command, or a generator fetches an element ahead of NEXT (R129, R250, R256); a resource of a quad grants one slot, with a third firing
of an element of the granted instruction or none (R312, R124); a message comes in on a circuit channel, an acknowledgement comes back on
one, or a message on a circuit suffers an error that its code cannot correct (R404, R405); the primary arbiter of a group fails (R416); an accumulator element
changes by itself (R385); stored bits of a word of global memory or of a local store change by
themselves (R272); a row manager's core runs its next instruction (R424). -/
inductive AgentTurn where
  | copyWord (block n word : Nat)
  | eagFetch (eag ahead : Nat)
  | slot (quad res : Nat) (rf : Option Refire)
  | circuitWords (link chan : Nat) (ws : List QWord)
  | circuitAck (link chan : Nat) (nack : Bool)
  | circuitError (src : Src)
  | arbiterFails (grp : Nat)
  | accUpset (cell acc elem : Nat) (data : BitVec 32)
  | upset (addr : Nat) (u : Upset)
  | upsetLocal (cell word : Nat) (u : Upset)
  | hart (row : Nat)
  deriving DecidableEq, Repr

/-- A turn of the machine: a cell's next instruction, an operation of another agent, the passing of n clk, or what an agent does by
itself. -/
inductive Turn where
  | cell (c : Nat)
  | op (i : Instr)
  | clk (n : Nat)
  | agent (a : AgentTurn)
  deriving DecidableEq, Repr

/-- The module. -/
structure State where
  /-- clk since power-on -/
  now : Nat := 0
  /-- the clk at which the module timestamp started (R491) -/
  stampAt : Option Nat := none
  /-- the cell that fetches when no turn is scheduled -/
  cur : Nat := 0
  sched : List Turn := []
  /-- the model's own counter of free values -/
  fresh : Nat := 0
  frozen : Bool := false
  /-- the module's number, bits [59:50] of its physical addresses (R37) -/
  modNo : BitVec 10 := 0
  cells : SMap Cell := []
  quads : SMap Quad := []
  strips : SMap Strip := []
  blocks : SMap Block := []
  rows : SMap Row := []
  eags : SMap Eag := []
  /-- vaults and HBM at their physical addresses in the module (R37) -/
  mem : Memory := []
  memPoison : Marks := []
  present : Marks := []
  /-- pages written since the last cut, by 64 KiB frame (R451) -/
  dirty : Marks := []
  /-- deferred-read tables by tile: blocks 0 to 4,095, then HBM tiles (R276) -/
  deferred : SMap (List (Nat × Deferred)) := []
  /-- the pager's table (R136) -/
  pages : List Page := []
  /-- host-shared regions by 2 MiB range (R142) -/
  regions : SMap Region := []
  /-- rebuilds in progress (R273) -/
  rebuilds : List Rebuild := []
  /-- words of vaults and HBM whose stored bits have changed by themselves, by address div 8 (R272) -/
  upsets : SMap Upset := []
  /-- misses that wait at each pager unit, each with its virtual address and its request word (R473), and translation changes (R139) -/
  misses : SMap (List (MissBy × Nat × Word)) := []
  changes : List Change := []
  net : List NetMsg := []
  /-- windows of the inbound host queues of each port, keyed 16 * port + queue (R480) -/
  hostq : SMap HostQueue := []
  issuers : SMap Issuer := []
  reports : List (Nat × Word) := []
  carrier : Carrier := {}
  deriving DecidableEq, Repr

/-- The machine right after reset: every field at the value its declaration gives. -/
def State.reset : State := {}

end Sys2Proof.Machine
end

