-- ==== Sys2Proof/Machine/Ops.lean ====
section
/-! DEFINITION. The shared operations over the state: units and registers, the stores of a cell with their poison bits,
tokens and pending faults, fault-queue records, parking, taking a trap or a break (R179, R180), the scheduler (R20 to
R23), the end of a task (R200), and the rings and windows of the queue engine (R212 to R222). -/

namespace Sys2Proof.Machine

open Sys2Proof

/-! ### Units -/

/-- The reset state of cell k: only sys.lfsr depends on the cell (R105). -/
def Cell.init (k : Nat) : Cell := { sys := { lfsr := 0xA5C30000#32 ^^^ BitVec.ofNat 32 k } }

def State.cell (s : State) (k : Nat) : Cell := SMap.get (Cell.init k) s.cells k
def State.setCell (s : State) (k : Nat) (c : Cell) : State := { s with cells := SMap.put s.cells k c }
def State.modCell (s : State) (k : Nat) (f : Cell → Cell) : State := s.setCell k (f (s.cell k))
def State.strip (s : State) (k : Nat) : Strip := SMap.get {} s.strips k
def State.setStrip (s : State) (k : Nat) (x : Strip) : State := { s with strips := SMap.put s.strips k x }
def State.quad (s : State) (k : Nat) : Quad := SMap.get {} s.quads k
def State.setQuad (s : State) (k : Nat) (x : Quad) : State := { s with quads := SMap.put s.quads k x }
def State.block (s : State) (k : Nat) : Block := SMap.get {} s.blocks k
def State.setBlock (s : State) (k : Nat) (x : Block) : State := { s with blocks := SMap.put s.blocks k x }
def State.row (s : State) (k : Nat) : Row := SMap.get {} s.rows k
def State.setRow (s : State) (k : Nat) (x : Row) : State := { s with rows := SMap.put s.rows k x }
def State.eag (s : State) (k : Nat) : Eag := SMap.get {} s.eags k
def State.setEag (s : State) (k : Nat) (x : Eag) : State := { s with eags := SMap.put s.eags k x }

/-- The column, row, quad, strip, slot and block of a cell (R8). -/
def xOf (k : Nat) : Nat := k % 512
def yOf (k : Nat) : Nat := k / 512
def quadOf (k : Nat) : Nat := yOf k * 128 + xOf k / 4
def stripOf (k : Nat) : Nat := yOf k * 64 + xOf k / 8
def slotOf (k : Nat) : Nat := xOf k % 8
def blockOf (k : Nat) : Nat := yOf k / 8 * 64 + xOf k / 8
/-- The cell in slot j of a strip, and lane j of a quad (R8). -/
def cellOfStrip (st j : Nat) : Nat := st / 64 * 512 + st % 64 * 8 + j
def cellOfQuad (q j : Nat) : Nat := q / 128 * 512 + q % 128 * 4 + j
/-- The block that contains a strip, and the top row of a block, which supervises it (R8, R427). -/
def blockOfStrip (st : Nat) : Nat := st / 64 / 8 * 64 + st % 64
def rowOfBlock (b : Nat) : Nat := 8 * (b / 64)
/-- The sector of a cell (R8). -/
def sectorOf (k : Nat) : Nat := yOf k / 64 * 8 + xOf k / 64
/-- The ring supervisor's row (R427). -/
def ringRow : Nat := 256

/-! ### Fault queues (R432) -/

/-- Record a fault in a row's queue: kind, domain, cell or engine, detail and value. DETAIL is the model's own only for kinds
1 and 2, whose layout the spec gives (log entry 11). -/
def State.record (s : State) (row kind : Nat) (dom : BitVec 12) (cell detail : Nat) (value : Word) : State :=
  let r := s.row row
  let detail := if kind ≤ 2 then detail else Config.recordDetail kind detail
  if r.fq.length < 1024 then
    let w0 := at_ kind 56 ||| at_ (b2n r.fqLost) 55 ||| at_ dom.toNat 43 ||| at_ (cell % 2 ^ 18) 25 |||
      at_ (detail % 2 ^ 25) 0
    s.setRow row { r with fq := r.fq ++ [(w0, value)], fqLost := false }
  else s.setRow row { r with fqLost := true }

/-! ### Bramble trace (R491, R492) and the passing of time -/

/-- The module timestamp. -/
def State.stamp (s : State) : Nat :=
  match s.stampAt with
  | some t => s.now - t
  | none => 0

/-- A record's first word. -/
def State.traceWord (s : State) (type src : Nat) (dom : BitVec 12) : Word :=
  at_ type 59 ||| at_ (src % 2 ^ 18) 41 ||| at_ dom.toNat 29 ||| at_ (s.stamp % 2 ^ 29) 0

/-- A record enters a row's buffer, or is dropped; the next one accepted is preceded by a LOST record. -/
def State.pushTrace (s : State) (row type src : Nat) (dom : BitVec 12) (w1 : Word) : State :=
  let r := s.row row
  let new : List (Word × Word) :=
    (if r.traceLost = 0 then [] else [(s.traceWord 15 (512 * row) 0, ofNat (r.traceLost % 2 ^ 32))]) ++
      [(s.traceWord type src dom, w1)]
  if r.trace.length + new.length ≤ 1024 then s.setRow row { r with trace := r.trace ++ new, traceLost := 0 }
  else s.setRow row { r with traceLost := r.traceLost + 1 }

/-- A record of type 3 to 13 sourced by cell k, if its TRCEN enables the type (R487). -/
def State.trace (s : State) (k type : Nat) (w1 : Word) : State :=
  let c := s.cell k
  if (SMap.get 0 c.dbg.f 13).getLsbD (type - 3) then s.pushTrace (k / 512) type k c.ident.dom w1 else s

/-- n clk pass. The ring takes the oldest records of each row's buffer as it can, which is at least one per clk here
(timing is left out). -/
def State.pass (s : State) (n : Nat) : State :=
  { s with now := s.now + n, rows := s.rows.map (fun x => (x.1, { x.2 with trace := x.2.trace.drop n })) }

/-- A third firing in the block of cell k (R125): MTSTAT.REFIRE, and NOMAJ with a record of kind 4 where no majority
exists; kind 0 vector lane, 1 matrix element, 2 predicate unit. -/
def State.softError (s : State) (k kind : Nat) (majority : Bool) : State :=
  let bn := blockOf k
  let b := s.block bn
  let sat (w : Word) (lo n : Nat) : Word :=
    if field w lo n = 2 ^ n - 1 then w else w + at_ 1 lo
  let w := sat b.mtstat 16 16
  let w := if majority then w else sat w 8 8
  let s := (s.setBlock bn { b with mtstat := w }).trace k 13 (ofNat (2 * kind + b2n (!majority)))
  if majority then s else s.record (k / 512) 4 (s.cell k).ident.dom k 0 0

/-! ### Rebuilds of parity groups (R273) -/

/-- The bytes of a word whose horizontal parity fails. -/
def Upset.lanes (u : Upset) : List Nat :=
  (upto 8).filter (fun b => (popCount (u.data.extractLsb' (8 * b) 8) 8 + popCount (u.par.extractLsb' b 1) 1) % 2 = 1)

/-- A check of the word's parity finds a mismatch. -/
def Upset.seen (u : Upset) : Bool := !u.lanes.isEmpty

/-- The parity group of the word at byte address 8 w: the rows of a vault's bank are o[24:12], in groups of 64 (R268, R272; log entry
55); an HBM word stands alone (R269). -/
def groupOf (w : Nat) : ParityGroup :=
  if 0x10000000000 ≤ 8 * w then .hbm w
  else .vault (8 * w / 0x2000000) (8 * w / 64 % 64) (8 * w / 4096 % 8192 / 64)

/-- The words of a group whose parity fails, with their upsets. -/
def State.failing (s : State) (g : ParityGroup) : SMap Upset :=
  match g with
  | .lstore k n => (s.cell k).upsets.filter (fun x => x.1 / 64 = n && x.2.seen)
  | .hbm w => s.upsets.filter (fun x => x.1 = w)
  | _ => s.upsets.filter (fun x => groupOf x.1 = g && x.2.seen)

/-- The group is being rebuilt, or a read of it hands it to the recovery engine: every access to it waits (R273). -/
def State.groupBusy (s : State) (g : ParityGroup) : Bool := s.rebuilds.any (fun r => r.grp = g) || !(s.failing g).isEmpty
/-- The group of an address in cell k's local store is not to be accessed. -/
def State.storeBusyAt (s : State) (k a : Nat) : Bool := s.groupBusy (.lstore k (a / 512))
/-- Some group of cell k's local store that holds one of the n bytes from a on is not to be accessed. -/
def State.storeBusy (s : State) (k a n : Nat) : Bool :=
  s.rebuilds.any (fun r => match r.grp with
    | .lstore c g => c = k && decide (a / 512 ≤ g) && decide (512 * g < a + n)
    | _ => false) ||
  (s.cell k).upsets.any (fun x => x.2.seen && decide (a / 512 ≤ x.1 / 64) && decide (512 * (x.1 / 64) < a + n))

/-! ### Leave (R39, R40, R497) -/

/-- Slot 0 of the block, its origin cell. -/
def originCell (b : Nat) : Nat := 8 * (b / 64) * 512 + 8 * (b % 64)

/-- A LEAVE record of the block's governor, with GOV.TRC (R489). -/
def State.traceLeave (s : State) (b : Nat) (release : Bool) (l : Leave) : State :=
  if (s.block b).govTrc then
    let kind := match l.by_ with
      | .burst _ => 1
      | .copy => 2
      | _ => 0
    let o := originCell b
    s.pushTrace (yOf o) 14 o (s.cell o).ident.dom (ofNat (b2n release * 1024 + kind * 256 + l.amount % 256))
  else s

/-- A request joins the governor's queue. -/
def State.askLeave (s : State) (b : Nat) (l : Leave) : State :=
  let x := s.block b
  s.setBlock b { x with reqs := x.reqs ++ [l] }

/-- The leave held for a purpose is released; a request still waiting is withdrawn. -/
def State.giveLeave (s : State) (b : Nat) (by_ : LeaveBy) : State :=
  let x := s.block b
  match x.held.find? (fun l => l.by_ = by_) with
  | some l => (s.setBlock b { x with held := x.held.erase l }).traceLeave b true l
  | none =>
    match x.reqs.find? (fun l => l.by_ = by_) with
    | some l => s.setBlock b { x with reqs := x.reqs.erase l }
    | none => s

/-! ### Registers -/

/-- g[n] (R60): g0 reads the clean zero. -/
def Cell.reg (c : Cell) (n : Nat) : Val := if n = 0 then Val.zero else SMap.get Val.zero c.g n

/-- g[n] := v; a write of g0 is discarded (R60). -/
def Cell.setReg (c : Cell) (n : Nat) (v : Val) : Cell := if n = 0 then c else { c with g := SMap.put c.g n v }

def Cell.slot (c : Cell) (j : Nat) : SlotState := SMap.get .idle c.slots j
def Cell.setSlot (c : Cell) (j : Nat) (x : SlotState) : Cell := { c with slots := SMap.put c.slots j x }
def Cell.sem (c : Cell) (n : Nat) : Sem := SMap.get {} c.sems n
def Cell.setSem (c : Cell) (n : Nat) (x : Sem) : Cell := { c with sems := SMap.put c.sems n x }
def Cell.inEp (c : Cell) (i : Nat) : InEp := SMap.get {} c.ins i
def Cell.setIn (c : Cell) (i : Nat) (x : InEp) : Cell := { c with ins := SMap.put c.ins i x }
def Cell.outEp (c : Cell) (i : Nat) : OutEp := SMap.get {} c.outs i
def Cell.setOut (c : Cell) (i : Nat) (x : OutEp) : Cell := { c with outs := SMap.put c.outs i x }
/-- The binding of qi: 0 unbound, 1 inbound, 2 outbound, 3 phase (R204, R229). -/
def Cell.binding (c : Cell) (i : Nat) : BitVec 2 := SMap.get 0 c.bind i
def Cell.haOf (c : Cell) (n : Nat) : BitVec 32 := SMap.get 0 c.ha n
def Cell.hbOf (c : Cell) (n : Nat) : BitVec 32 := SMap.get 0 c.hb n
/-- A cell runs privileged when its id.dom is 0 (R74). -/
def Cell.priv (c : Cell) : Bool := c.ident.dom = 0
/-- Entry 16 or 18 runs. -/
def Cell.inHandler (c : Cell) : Bool := c.sys.entry = 16 || c.sys.entry = 18
/-- The cell has received START and has not been released (R50). -/
def Cell.started (c : Cell) : Bool := c.st ≠ .free && c.st ≠ .configured
/-- The slots PENDING and FAULTED, as masks (R172). -/
def Cell.pendingMask (c : Cell) : BitVec 8 :=
  (upto 8).foldl (fun m j => if c.slot j = .pending then m ||| oneBit 8 j else m) 0
def Cell.faultedMask (c : Cell) : BitVec 8 :=
  (upto 8).foldl (fun m j => if c.slot j = .faulted then m ||| oneBit 8 j else m) 0

/-! ### The local store and the instruction store -/

/-- The n bytes at local-store address a with the poison of the words read (R166). -/
def Cell.ldStore (c : Cell) (a n : Nat) : Nat × Bool :=
  (c.store.read a n, c.storePoison.any (a / 8) ((a + n - 1) / 8 - a / 8 + 1))

/-- The low n bytes of v at local-store address a; every word written in part or whole takes the poison bit p (R166). -/
def Cell.stStore (c : Cell) (a n v : Nat) (p : Bool) : Cell :=
  { c with
    store := c.store.write a n v
    storePoison := c.storePoison.fill p (a / 8) ((a + n - 1) / 8 - a / 8 + 1)
    upsets := c.upsets.filter (fun x => !(decide (a / 8 ≤ x.1) && decide (x.1 ≤ (a + n - 1) / 8))) }

/-- The 64-bit local-store word at byte address a, which is a multiple of 8. -/
def Cell.ldWord (c : Cell) (a : Nat) : Val := ⟨ofNat (c.store.read a 8), c.storePoison.has (a / 8)⟩
def Cell.stWord (c : Cell) (a : Nat) (v : Val) : Cell := c.stStore a 8 v.v.toNat v.p

/-- An engine may still read the local store for an instruction of the cell. -/
def Cell.enginesOut (c : Cell) : Bool :=
  !c.copies.isEmpty || !c.vec.queue.isEmpty || !c.vec.preds.isEmpty || !c.mat.entries.isEmpty

/-- An instruction of the cell, or of its vector queue, is about to write n bytes at a: what stands there is kept for the engines that
may read it (R129). -/
def Cell.noteWrite (c : Cell) (a n : Nat) (vec : Bool) : Cell :=
  if n ≠ 0 ∧ c.enginesOut then
    { c with
      writes := c.writes + 1
      priors := c.priors ++ (List.range ((a + n - 1) / 8 - a / 8 + 1)).map (fun j =>
        (a / 8 + j, c.ldWord (8 * (a / 8 + j)), c.writes, vec)) }
  else { c with priors := [] }

/-- The word at a as an engine reads it for an instruction that issued when the cell had made `since` writes: any of the values that
it has held since then (R129). Instructions of the vector queue see its own writes in queue order (R127). -/
def Cell.engineWord (c : Cell) (fresh since : Nat) (vec : Bool) (a : Nat) : Val :=
  match c.priors.filter (fun x => x.1 = a / 8 && decide (since ≤ x.2.2.1) && !(vec && x.2.2.2)) with
  | [] => c.ldWord a
  | old => (old.map (fun x => x.2.1) ++ [c.ldWord a]).getD (Config.pick fresh (a / 8) % (old.length + 1)) (c.ldWord a)

/-- The cell with its local store as an engine reads it (R129). -/
def Cell.viewAt (c : Cell) (fresh since : Nat) (vec : Bool) : Cell :=
  { c.priors.foldl (fun x y => x.stWord (8 * y.1) (c.engineWord fresh since vec (8 * y.1))) c with upsets := c.upsets }

/-- What an instruction-store word reads as until it is written (R55). -/
def istoreReset : Word := 0xFFFFFFFFFFFFFFFF
def Cell.code (c : Cell) (i : Nat) : Word := SMap.get istoreReset c.istore i
def Cell.setCode (c : Cell) (i : Nat) (w : Word) : Cell := { c with istore := SMap.set istoreReset c.istore i w }

/-! ### Tokens and pending faults (R66, R77, R78, R281) -/

/-- The slot of a token returns to IDLE (R66). -/
def Cell.fire (c : Cell) (t : Tok) : Cell :=
  match t.slot with
  | some j => c.setSlot j.toNat .idle
  | none => c

/-- An asynchronous operation meets a fault: its slot becomes FAULTED with the record; with no slot the cell holds one
fault, the earlier in program order, and the row manager is told of the other (R281). -/
def State.fail (s : State) (k : Nat) (t : Tok) (cause : BitVec 8) (tval : Word) : State :=
  let c := s.cell k
  match t.slot with
  | some j =>
    let r : FaultRec := ⟨t.seq, t.pc, t.opb, cause, tval, j, oneBit 8 j.toNat, false, false⟩
    s.setCell k { (c.setSlot j.toNat .faulted) with faults := c.faults ++ [r] }
  | none =>
    let r : FaultRec := ⟨t.seq, t.pc, t.opb, cause, tval, 0, 0, true, false⟩
    match c.heldFault with
    | none => s.setCell k { c with heldFault := some r }
    | some r0 =>
      if r.seq < r0.seq then
        (s.setCell k { c with heldFault := some r }).record (yOf k) 14 c.ident.dom k r0.cause.toNat r0.tval
      else s.record (yOf k) 14 c.ident.dom k cause.toNat tval

/-- An asynchronous instruction no longer writes register d (R149). -/
def Cell.unbusy (c : Cell) (d : Nat) : Cell := { c with busy := c.busy.erase d }
/-- An asynchronous instruction will write register d, if d names a g register (R149). -/
def Cell.setBusy (c : Cell) (d : Nat) : Cell := if d = 0 ∨ 55 < d then c else { c with busy := d :: c.busy }

/-! ### Parking (R167, R429) -/

def PCause.code : PCause → Nat
  | .none => 0 | .nested => 1 | .noHandler => 2 | .istore => 3 | .cut => 4 | .self => 5 | .rmPark => 6 | .sink => 7
  | .hang => 8

def CellState.code : CellState → Nat
  | .free => 0 | .configured => 1 | .idle => 2 | .running => 3 | .asleep => 4 | .parked => 5

/-- The cell parks: its state is held, the cause is shown in CSTAT, and the row manager is told by a record of kind 1,
or kind 2 for a sink (R432). -/
def State.park (s : State) (k : Nat) (c : Cell) (why : PCause) (cause : BitVec 8) (tval : Word) : State :=
  let c' := { c with st := .parked, heldSt := c.st, pcause := why, rmParkReq := false, parkWait := none, refused := none }
  (s.setCell k c').record (yOf k) (if why = .sink then 2 else 1) c.ident.dom k
    (why.code * 2 ^ 21 + c.pc % 2048 * 2 ^ 10 + cause.toNat) tval

/-! ### Taking a trap or a break (R179, R180) -/

/-- What an entry to entry 16 or 18 reports (R173, R179). -/
structure TrapRec where
  cause : BitVec 8
  sw : Bool := false
  brk : Bool := false
  defer : Bool := false
  arrive : Bool := false
  slot : BitVec 3 := 0
  lost : Bool := false
  tpc : Nat
  taken : Nat
  opb : BitVec 8
  tval : Word
  held : Bool := false
  slots : BitVec 8 := 0

/-- sys.trap (R173). -/
def TrapRec.pack (r : TrapRec) (prev : BitVec 5) : Word :=
  at_ (b2n r.held) 40 ||| at_ r.opb.toNat 32 ||| at_ prev.toNat 27 ||| at_ (r.taken % 2048) 16 |||
  at_ (b2n r.lost) 15 ||| at_ r.slot.toNat 12 ||| at_ (b2n r.arrive) 11 ||| at_ (b2n r.defer) 10 |||
  at_ (b2n r.brk) 9 ||| at_ (b2n r.sw) 8 ||| at_ r.cause.toNat 0

/-- Every slot of the mask becomes IDLE. -/
def Cell.idleSlots (c : Cell) (m : BitVec 8) : Cell := (bitsOf m 8).foldl (fun c j => c.setSlot j .idle) c

/-- Entering handler n does not just park the cell (R179, R180). -/
def Cell.enters (c : Cell) (n : Nat) : Bool := !c.inHandler && (c.haOf n).getLsbD 16

/-- Enter handler n (16 for a trap, 18 for a break) at cell k, whose state is c (R179, R180): park inside a handler or
without a valid handler, otherwise write sys.trap, sys.tpc and sys.tval, free the fault's slots, and continue at the
handler 3 clk later. -/
def State.enter (s : State) (k : Nat) (c : Cell) (n : Nat) (r : TrapRec) : State :=
  if c.inHandler then s.park k c .nested r.cause r.tval
  else if (c.haOf n).getLsbD 16 = false then s.park k c .noHandler r.cause r.tval
  else
    let c := c.idleSlots r.slots
    let prev := c.sys.entry
    s.setCell k { c with
      st := .running
      wait := none
      step := 0
      bpSkip := false
      refused := none
      pc := field (c.haOf n) 0 11
      readyAt := s.now + 3
      sys := { c.sys with
        trap := r.pack prev
        tpc := BitVec.ofNat 11 r.tpc
        tval := r.tval
        intrap := prev ≠ 31
        entry := BitVec.ofNat 5 n } }

/-- A cause of the instruction at the PC is taken at that instruction (R77, cell pipeline). -/
def State.trapHere (s : State) (k : Nat) (c : Cell) (opb cause : BitVec 8) (tval : Word) : State :=
  s.enter k c 16 { cause, tpc := c.pc, taken := c.pc, opb, tval }

/-- A pending fault is taken at the instruction at the PC; its record leaves the cell (R78, R179). A deferred POISON is
the sink discard of a copy or an exchange send: the cell parks with PCAUSE SINK instead (R441). Where entering only parks the
cell, nothing is taken: the slot keeps its fault and its record (R66, R179). -/
def State.takeFault (s : State) (k : Nat) (c : Cell) (r : FaultRec) : State :=
  let taken := { c with
    faults := c.faults.filter (fun x => x ≠ r)
    heldFault := if c.heldFault = some r then none else c.heldFault }
  if r.cause = 8 ∧ r.vector = false ∧ c.inHandler = false then
    s.park k { taken.idleSlots r.slots with sinkPending := true } .sink 8 r.tval
  else
  s.enter k (if c.enters 16 then taken else c) 16
    { cause := r.cause
      defer := true
      slot := if r.held then 0 else r.slot
      tpc := r.pc
      taken := c.pc
      opb := r.opb
      tval := r.tval
      held := r.held
      slots := r.slots }

/-- A queue-arrival trap becomes pending: at most 4 are held, a fifth is only reported (R168). -/
def State.arrivalTrap (s : State) (k : Nat) (cause : BitVec 8) (tval : Word) : State :=
  let c := s.cell k
  if c.arrivals.length < 4 then s.setCell k { c with arrivals := c.arrivals ++ [⟨cause, tval⟩] }
  else (s.setCell k { c with arrLost := true }).record (yOf k) 13 c.ident.dom k cause.toNat tval

/-! ### Receive rings (R212 to R216) -/

end Sys2Proof.Machine

namespace Sys2Proof

open Sys2Proof.Machine

/-- The side word of a queue word (R212). -/
def QWord.side (w : QWord) : Word :=
  at_ w.punit.toNat 46 ||| at_ (w.seq.toNat % 2 ^ 16) 30 ||| at_ (if w.pos = 1 then w.len.toNat else 0) 20 |||
  at_ w.pos.toNat 4 ||| at_ (b2n w.p) 3 ||| at_ w.tag.toNat 0

/-- The word is a CTL word of a subtype (R120). -/
def QWord.isCtl (w : QWord) (sub : Nat) : Bool := w.tag = 7 && field w.v 56 8 = sub

end Sys2Proof

namespace Sys2Proof.Machine

open Sys2Proof

/-- LOG2CAP as its four bits give it: 16, the largest ring, does not fit and stands as 0 (R212, R226; log entry 34). -/
def log2capOf (n : Nat) : BitVec 5 := if n = 0 then 16 else BitVec.ofNat 5 n

def InEp.slots (e : InEp) : Nat := 2 ^ e.log2cap.toNat / 16
def InEp.slotAddr (e : InEp) (k : Nat) : Nat := e.rbase.toNat + 16 * k
/-- Ring slot (HEAD + j) mod Slots. -/
def InEp.nth (e : InEp) (j : Nat) : Nat := if e.slots = 0 then 0 else (e.head + j) % e.slots

/-- A group with a slot of the ring or an entry of the replay buffer of port i is being rebuilt (R273). -/
def State.portBusy (s : State) (k i : Nat) : Bool :=
  let e := (s.cell k).inEp i
  let o := (s.cell k).outEp i
  s.storeBusy k e.rbase.toNat (16 * e.slots) || s.storeBusy k o.rpbase.toNat (16 * o.win.toNat)

/-- The data word and side word that the local store holds in ring slot k of port i. -/
def Cell.ringSlot (c : Cell) (i k : Nat) : HeadEnt :=
  let a := (c.inEp i).slotAddr k
  ⟨c.ldWord a, (c.ldWord (a + 8)).v⟩

/-- The head buffer refilled to the first min(4, OCC) slots (R216). -/
def Cell.refill (c : Cell) (i : Nat) : Cell :=
  let e := c.inEp i
  let have_ := e.hb.length
  let need := min 4 e.occ
  c.setIn i { e with hb := e.hb ++ ((List.range need).drop have_).map (fun j => c.ringSlot i (e.nth j)) }

/-- Write one word in the slot at TAIL (R213). -/
def Cell.storeWord (c : Cell) (i : Nat) (src : Src) (w : QWord) : Cell :=
  let e := c.inEp i
  let a := e.slotAddr e.tail
  let c := (c.stWord a ⟨w.v, w.p⟩).stWord (a + 8) ⟨w.side, false⟩
  c.setIn i { e with
    tail := if e.slots = 0 then 0 else (e.tail + 1) % e.slots
    occ := e.occ + 1
    metas := e.metas ++ [⟨src, w.seq⟩] }

/-- RES of port i becomes empty. -/
def Cell.clearRes (c : Cell) (i : Nat) : Cell := c.setIn i { c.inEp i with res := none }

/-- The word at place j of port i, from the head buffer while j < 4 and from the ring beyond it. -/
def Cell.headAt (c : Cell) (i j : Nat) : HeadEnt :=
  match (c.inEp i).hb[j]? with
  | some h => h
  | none => c.ringSlot i ((c.inEp i).nth j)

/-- The number of words from a word to the end of its message, given its side word: its LEN + 1 for a first word, 1 for
a single or last word; an inner word is followed by those up to the next last word (R234, R238). -/
def Cell.restOfMessage (c : Cell) (i : Nat) : Nat :=
  let sides := (List.range (c.inEp i).occ).map (fun j => (c.headAt i j).side)
  match sides with
  | [] => 0
  | w :: _ =>
    if field w 4 2 = 0 then 1
    else ((sides.takeWhile (fun x => field x 4 2 ≠ 3)).length + 1)

/-- Acknowledgements for the words of a list of senders (R218); the words of the counter chain have no producer. -/
def acksFor (os : List Origin) (nack : Bool) : List Ack :=
  (os.filter (fun o => o.src ≠ .chain)).map (fun o => ⟨o.src, o.seq, nack⟩)

/-- Retire every word popped from port i (R218). -/
def Cell.retirePort (c : Cell) (i : Nat) : Cell :=
  let e := c.inEp i
  { c.setIn i { e with popped := [] } with acks := c.acks ++ acksFor e.popped false }

/-- Retire every word popped from any port. -/
def Cell.retireAll (c : Cell) : Cell := (upto 8).foldl Cell.retirePort c

/-! ### Flow windows (R210, R217) -/

def OutEp.inw (e : OutEp) : Nat := e.ents.length
def OutEp.room (e : OutEp) : Nat := e.win.toNat - e.inw
def OutEp.dstOf (e : OutEp) (k : Nat) : BitVec 32 := SMap.get 0 e.dst k
/-- The consumers of an endpoint: bits 0 to MCM1. -/
def OutEp.consumers (e : OutEp) : BitVec 8 := BitVec.ofNat 8 (2 ^ (e.mcm1.toNat + 1) - 1)

/-- The words of an endpoint leave the domain d, for another or for a host queue, so that a poisoned one is a sink (R441, R481). -/
def OutEp.leaves (e : OutEp) (d : BitVec 12) : Bool := e.odom ≠ d || e.hostQ.isSome

/-- One word enters the window of OUT[i]: it takes SEQ, stands in the replay buffer at RPH, and is sent from there
(R210, R217). A detached consumer counts as having acknowledged it (R221). In a replay firing a word whose SEQ is below
HSEQ only advances SEQ (R445). -/
def Cell.enterWindow (c : Cell) (i : Nat) (v : Val) (tag : BitVec 3) (pos : BitVec 2) (len : BitVec 10) : Cell :=
  let e := c.outEp i
  if c.rpl && decide (e.seq.toNat < e.hseq.toNat) then c.setOut i { e with seq := e.seq + 1 }
  else
    let w : QWord := ⟨v.v, v.p, tag, c.ident.unit, e.seq, pos, len, c.ident.dom, e.odom⟩
    let a := e.rpbase.toNat + 16 * e.rph
    let c := (c.stWord a v).stWord (a + 8) ⟨w.side, false⟩
    c.setOut i { e with
      seq := e.seq + 1
      rph := if e.win = 0 then 0 else (e.rph + 1) % e.win.toNat
      ents := e.ents ++ [⟨w, e.rph, e.det, e.det, e.det, 0⟩] }

/-- The words of one message enter the window in order (R233). -/
def Cell.enterMessage (c : Cell) (i : Nat) (tag : BitVec 3) (vs : List Val) : Cell :=
  let n := vs.length
  (vs.zip (List.range n)).foldl (fun c x =>
    let pos : BitVec 2 := if n = 1 then 0 else if x.2 = 0 then 1 else if x.2 + 1 = n then 3 else 2
    c.enterWindow i x.1 tag pos (BitVec.ofNat 10 (if n = 1 then 0 else n - 1))) c

/-! ### The scheduler (R20 to R23, R168, R449) -/

/-- HA[n].VALID -/
def Cell.valid (c : Cell) (n : Nat) : Bool := (c.haOf n).getLsbD 16
def Cell.portOf (c : Cell) (n : Nat) : Nat := field (c.haOf n) 13 3
def Cell.prioOf (c : Cell) (n : Nat) : Nat := field (c.haOf n) 11 2
def Cell.tagsOf (c : Cell) (n : Nat) : BitVec 8 := (c.hbOf n).extractLsb' 8 8
def Cell.needOf (c : Cell) (n : Nat) : BitVec 8 := (c.hbOf n).extractLsb' 0 8

/-- A head word is present at port i (R216). -/
def Cell.hasHead (c : Cell) (i : Nat) : Bool := decide (0 < (c.inEp i).occ)
/-- The head word of port i is a SEQSYNC word (R120). -/
def Cell.headIsSync (c : Cell) (i : Nat) : Bool :=
  let h := c.headAt i 0
  field h.side 0 3 = 7 && field h.v.v 56 8 = 6
/-- The valid message entry of lowest number that binds port i. -/
def Cell.firstEntry (c : Cell) (i : Nat) : Option Nat := (upto 16).find? (fun e => c.valid e && c.portOf e = i)

/-- The tag test of R20, with the exception of R21 for a SEQSYNC word. -/
def Cell.tagOk (c : Cell) (e : Nat) : Bool :=
  let i := c.portOf e
  if c.headIsSync i then c.firstEntry i = some e
  else (c.tagsOf e).getLsbD (field (c.headAt i 0).side 0 3)

/-- Message entry e is runnable (R20). -/
def Cell.runnable (c : Cell) (e : Nat) : Bool :=
  c.valid e && c.started && (bitsOf (c.needOf e) 8).all c.hasHead && c.hasHead (c.portOf e) && c.tagOk e

/-- An entry that is no longer runnable counts no time (R23). -/
def Cell.dropStale (c : Cell) : Cell := { c with runSince := c.runSince.filter (fun x => c.runnable x.1) }

/-- Pop the head word of port i: HEAD advances, the slot is free, the word waits for retirement, and a word of the
cell's own counter chain makes the firing non-replayable (R216, R218, R443). -/
def Cell.popHead (c : Cell) (i : Nat) : Cell :=
  let e := c.inEp i
  let o := (e.metas.head?).getD ⟨.chain, 0⟩
  let c := c.setIn i { e with
    head := e.nth 1
    occ := e.occ - 1
    hb := e.hb.drop 1
    metas := e.metas.drop 1
    popped := e.popped ++ [o] }
  { (c.refill i).dropStale with
    nonReplay := c.nonReplay || decide (o.src = .chain)
    ckpt := { c.ckpt with pops := c.ckpt.pops ++ [(i, o)] } }

/-- The effective priority of entry e at clk `now` (R23). -/
def Cell.effPrio (c : Cell) (now e : Nat) : Nat :=
  min 3 (c.prioOf e + (now - SMap.get now c.runSince e) / 4096)

/-- The time since which each entry has been runnable, brought up to date (R23). -/
def Cell.noteRunnable (c : Cell) (now : Nat) : Cell :=
  (upto 16).foldl (fun c e =>
    if c.runnable e then
      match SMap.find c.runSince e with
      | some _ => c
      | none => { c with runSince := SMap.put c.runSince e now }
    else { c with runSince := SMap.erase c.runSince e }) c

/-- After an instruction that may have popped words, entries that a new head word makes runnable count from now (R23). -/
def Cell.afterPops (c old : Cell) (now : Nat) : Cell := if c.ins = old.ins then c else c.noteRunnable now

/-- The entry that the round robin of one level picks (R23). -/
def Cell.pickLevel (c : Cell) (now lvl : Nat) : Option Nat :=
  ((List.range 16).map (fun i => (SMap.get 15 c.last lvl + i + 1) % 16)).find?
    (fun e => c.runnable e && c.effPrio now e = lvl)

/-- Every enabled inbound endpoint has absorbed the markers of its producers, and a quiesce is requested (R449). -/
def Cell.quiesceReady (c : Cell) : Bool :=
  c.qreq && (upto 8).all (fun i => !(c.inEp i).en || (c.inEp i).qc = (c.inEp i).qnp)

/-- Pick of R23 over the message entries: the entry, and its level. -/
def Cell.pick (c : Cell) (now : Nat) : Option (Nat × Nat) :=
  [3, 2, 1, 0].findSome? (fun lvl => (c.pickLevel now lvl).map (fun e => (e, lvl)))

/-- The checkpoint of R442 with the resume PC pc. -/
def Cell.checkpoint (c : Cell) (pc : Nat) : Cell :=
  { c with ckpt := {
      pc, entry := c.sys.entry, intrap := c.sys.intrap, g := c.g
      res := (upto 8).map (fun i => (i, (c.inEp i).res))
      sems := c.sems, loop := c.sys.loop, lfsr := c.sys.lfsr, flags := c.sys.flags, rm := c.sys.rm
      vl := c.vec.vl
      seqs := (upto 8).map (fun i => (i, (c.outEp i).seq))
      pops := [] } }

/-- A firing begins at the PC: its replays count from here, and a checkpoint is written (R442, R444). -/
def Cell.beginFiring (c : Cell) : Cell := { c with replays := 0 }.checkpoint c.pc

/-- Dispatch of entry e (R169): PC and ENTRY, and nothing else a program can see; the first instruction issues 3 clk
later (R26). -/
def Cell.dispatch (c : Cell) (now e : Nat) : Cell :=
  let c := { c with
    st := .running, pc := field (c.haOf e) 0 11, readyAt := now + 3, wait := none, step := 0, bpSkip := false
    sys := { c.sys with entry := BitVec.ofNat 5 e }
    runSince := SMap.erase c.runSince e }
  c.beginFiring.noteRunnable now

/-! ### Producers of one's own words: divert edges and markers -/

/-- Pop n words of port i and give their data (R238, R234). -/
def Cell.popWords (c : Cell) (i : Nat) : Nat → Cell × List HeadEnt
  | 0 => (c, [])
  | n + 1 =>
    let h := c.headAt i 0
    let (c', hs) := (c.popHead i).popWords i n
    (c', h :: hs)

/-- The last n words popped from port i are retired at once, as diverted or discarded (R218). -/
def Cell.retireLast (c : Cell) (i n : Nat) : Cell :=
  let e := c.inEp i
  let keep := e.popped.length - n
  { c.setIn i { e with popped := e.popped.take keep } with
    acks := c.acks ++ acksFor (e.popped.drop keep) false
    ckpt := { c.ckpt with pops := c.ckpt.pops.take (c.ckpt.pops.length - n) } }

/-- No valid entry takes the head word of port i although the port accepts its tag (R21). -/
def Cell.stray (c : Cell) (i : Nat) : Bool :=
    c.hasHead i && !c.headIsSync i && (c.firstEntry i).isSome &&
    (c.inEp i).acc.getLsbD (field (c.headAt i 0).side 0 3) &&
    !(upto 16).any (fun e => c.valid e && c.portOf e = i && (c.tagsOf e).getLsbD (field (c.headAt i 0).side 0 3))

/-- R21 at a task boundary or in an idle cell: the stray head word, with the rest of its message, is diverted, or
retired with a QTAG arrival trap; on a divert edge without room it stays. -/
def State.treatStray (s : State) (k i : Nat) : State :=
  let c := s.cell k
  if c.stray i = false then s
  else
    let n := c.restOfMessage i
    let tag := field (c.headAt i 0).side 0 3
    if (c.inEp i).diven then
      if (c.outEp i).room < n then s
      else
        let (c, hs) := c.popWords i n
        s.setCell k ((c.retireLast i n).enterMessage i (BitVec.ofNat 3 tag) (hs.map (fun h => h.v)))
    else
      let (c, _) := c.popWords i n
      let c := c.retireLast i n
      let c := c.setIn i { c.inEp i with tagf := true }
      (s.setCell k c).arrivalTrap k 9 (ofNat (i + 8 * tag))

/-- R21 applied to the head words of port i, at most n of them. -/
def State.treatPort (s : State) (k i : Nat) : Nat → State
  | 0 => s
  | n + 1 => (s.treatStray k i).treatPort k i n

/-- R21 applied to every port. -/
def State.treatStrays (s : State) (k : Nat) : State :=
  (upto 8).foldl (fun s i => s.treatPort k i ((s.cell k).inEp i).occ) s

/-- The phase of the cell's load has ended at its root, so that nothing is dispatched in the load (R32). -/
def State.retiring (s : State) (c : Cell) : Bool :=
  s.cells.any (fun x => x.2.phaseEnd && x.2.ident.load = c.ident.load)

/-- The default cut of R449: a cell without a valid entry 17 forwards its markers when there is room, and parks with
PCAUSE CUT as an idle cell once the items of R450 are settled. -/
def Cell.forwardMarkers (c : Cell) : Cell :=
  (upto 8).foldl (fun c i =>
    let e := c.outEp i
    if e.en && !e.fwd && decide (0 < e.room) then
      let c := c.enterWindow i ⟨at_ 2 56 ||| (c.qcut.zeroExtend 64), false⟩ 7 0 0
      c.setOut i { c.outEp i with fwd := true }
    else c) c

/-- Every enabled outbound endpoint has its marker. -/
def Cell.allForwarded (c : Cell) : Bool := (upto 8).all (fun i => !(c.outEp i).en || (c.outEp i).fwd)

/-- The quiesce request and its counters clear when the cell parks for the cut (R450). -/
def Cell.clearCut (c : Cell) : Cell :=
  let c := (upto 8).foldl (fun c i => (c.setIn i { c.inEp i with qc := 0 }).setOut i { c.outEp i with fwd := false }) c
  { c with qreq := false }

/-- A task boundary, or the look of an idle cell (R168, R23): a pending arrival trap first, which begins
a firing of entry 16 (log entry 40), then entries 19 and 17, then the message entries; with none the
cell is idle. An arrival trap that finds no valid handler stays pending in the cell that parks (R22,
R179). -/
def State.boundary (s : State) (k : Nat) : State :=
  let s := s.treatStrays k
  let c := (s.cell k).noteRunnable s.now
  match c.arrivals with
  | r :: rest =>
    let c := { c with sys := { c.sys with entry := 31 } }
    let c := if c.enters 16 then { c with arrivals := rest, arrLost := false, st := .running } else { c with st := .idle }
    let t := s.enter k c 16 { cause := r.cause, arrive := true, lost := (s.cell k).arrLost, tpc := 0x7FF,
                              taken := 0x7FF, opb := 0, tval := r.tval }
    t.modCell k (fun c => if c.st = .running then c.beginFiring else c)
  | [] =>
    if c.parkWait.isSome || s.retiring c then s.setCell k { c with st := .idle, sys := { c.sys with entry := 31 } }
    else if c.sys.sreq && c.valid 19 then s.setCell k (c.dispatch s.now 19)
    else if c.quiesceReady then
      if c.valid 17 then s.setCell k (c.dispatch s.now 17)
      else
        let c := { c.forwardMarkers with st := .idle, sys := { c.sys with entry := 31 } }
        if c.allForwarded then s.setCell k { c with parkWait := some .cut } else s.setCell k c
    else
      match c.pick s.now with
      | some (e, lvl) => s.setCell k ({ c with last := SMap.put c.last lvl e }.dispatch s.now e)
      | none => s.setCell k { c with st := .idle, sys := { c.sys with entry := 31 } }

/-- The end of the running task (R200, R218, R443, R445), then the task boundary. -/
def State.endTask (s : State) (k : Nat) (c : Cell) : State :=
  let c := c.retireAll
  let c := { c with
    rpl := false, nonReplay := false, wait := none, step := 0, bpSkip := false, pc := c.pc
    sys := { c.sys with wde := false, intrap := false, entry := 31 }
    ckpt := { c.ckpt with pops := [] }
    outs := c.outs.map (fun x => (x.1, { x.2 with hseq := 0 })) }
  let s := s.setCell k c
  if c.rmParkReq then s.park k { c with st := .idle } .rmPark 0 0 else s.boundary k

end Sys2Proof.Machine
end

