-- ==== Sys2Proof/Machine/Flags.lean ====
section
/-! DEFINITION. The five sticky flags of sys.flags (R103) and the state of stochastic rounding (R105, R106). -/

namespace Sys2Proof.Machine

/-- The flags an operation sets: NX, UF, OF, DZ and NV are bits 0 to 4 of sys.flags (R103). -/
abbrev Flags := BitVec 5
def Flags.none : Flags := 0
def Flags.nx : Flags := 1
def Flags.uf : Flags := 2
def Flags.of : Flags := 4
def Flags.dz : Flags := 8
def Flags.nv : Flags := 16

/-- Flags are only ever set (R103): the events of an operation are ORed into sys.flags. -/
def Cell.orFlags (c : Cell) (f : Flags) : Cell := { c with sys := { c.sys with flags := c.sys.flags ||| f } }

/-- The flags that firings of the cell have set in clk `now`. -/
def Cell.firedAt (c : Cell) (now : Nat) : Flags := if c.fired.1 = now then c.fired.2 else 0

/-- A firing of the cell sets flags in clk `now`; a WRSYS of the same clk does not lose them (R177). -/
def Cell.fireFlags (c : Cell) (now : Nat) (f : Flags) : Cell := { c.orFlags f with fired := (now, c.firedAt now ||| f) }

/-- Step of R105: the next state of the Galois register. -/
def lfsrStep (x : BitVec 32) : BitVec 32 := if x.getLsbD 0 then (x >>> 1) ^^^ 0x80200003#32 else x >>> 1

/-- The state after n steps. -/
def lfsrSteps (x : BitVec 32) : Nat → BitVec 32
  | 0 => x
  | n + 1 => lfsrSteps (lfsrStep x) n

/-- The n states drawn from x, in order (R106). -/
def lfsrDraws (x : BitVec 32) : Nat → List (BitVec 32)
  | 0 => []
  | n + 1 => lfsrStep x :: lfsrDraws (lfsrStep x) n

/-- An instruction that draws n states advances sys.lfsr by n at its issue (R106). -/
def Cell.advanceLfsr (c : Cell) (n : Nat) : Cell :=
  { c with sys := { c.sys with lfsr := lfsrSteps c.sys.lfsr n } }

/-- The rounding mode of an RM field, with DYN resolved by sys.rm (R107). -/
def Cell.mode (c : Cell) (rm : BitVec 3) : BitVec 3 := if rm = 6 then c.sys.rm else rm

end Sys2Proof.Machine
end

