-- ==== Sys2Proof/Machine/Num.lean ====
section
/-! DEFINITION. Number formats and rounding (R96 to R109): exact values as sign and ratio, the floating-point formats, RoundTo
and ToInt. -/

namespace Sys2Proof.Machine

/-! ### Exact values -/

/-- An exact result: a NaN, an infinity, a signed zero, or the ratio n / d of positive numbers with a sign. -/
inductive Num where
  | nan
  | inf (neg : Bool)
  | zero (neg : Bool)
  | fin (neg : Bool) (n d : Nat)
  deriving DecidableEq, Repr

def Num.neg : Num → Bool
  | .nan => false
  | .inf s => s
  | .zero s => s
  | .fin s _ _ => s

def Num.isNaN : Num → Bool
  | .nan => true
  | _ => false

def Num.isInf : Num → Bool
  | .inf _ => true
  | _ => false

def Num.isZero : Num → Bool
  | .zero _ => true
  | _ => false

def Num.isFinite (x : Num) : Bool := !x.isNaN && !x.isInf

def Num.negate : Num → Num
  | .nan => .nan
  | .inf s => .inf (!s)
  | .zero s => .zero (!s)
  | .fin s n d => .fin (!s) n d

def Num.abs : Num → Num
  | .nan => .nan
  | .inf _ => .inf false
  | .zero _ => .zero false
  | .fin _ n d => .fin false n d

/-- An integer as an exact value; 0 is +0. -/
def Num.ofInt (x : Int) : Num := if x = 0 then .zero false else .fin (decide (x < 0)) x.natAbs 1

/-- The ratio i / d with d > 0; 0 takes the sign given. -/
def Num.ofRatio (zeroNeg : Bool) (i : Int) (d : Nat) : Num :=
  if i = 0 then .zero zeroNeg else .fin (decide (i < 0)) i.natAbs d

/-- The signed numerator of a finite value. -/
def Num.num : Num → Int
  | .fin s n _ => if s then -(n : Int) else n
  | _ => 0

def Num.den : Num → Nat
  | .fin _ _ d => d
  | _ => 1

/-- x < y for values that are not NaN. -/
def Num.lt (x y : Num) : Bool :=
  match x, y with
  | .inf true, .inf true => false
  | .inf true, _ => true
  | _, .inf true => false
  | .inf false, _ => false
  | _, .inf false => true
  | _, _ => decide (x.num * y.den < y.num * x.den)

/-- x = y as numbers, with -0 = +0. -/
def Num.eqv (x y : Num) : Bool := !x.isNaN && !y.isNaN && !x.lt y && !y.lt x

/-! ### Formats (R99) -/

/-- A floating-point format: exponent and fraction widths, and whether it is E4M3 (R100). -/
structure Fmt where
  eb : Nat
  fb : Nat
  e4m3 : Bool := false
  deriving DecidableEq, Repr

def Fmt.f16 : Fmt := ⟨5, 10, false⟩
def Fmt.bf16 : Fmt := ⟨8, 7, false⟩
def Fmt.f32 : Fmt := ⟨8, 23, false⟩
def Fmt.f64 : Fmt := ⟨11, 52, false⟩
def Fmt.fE4m3 : Fmt := ⟨4, 3, true⟩
def Fmt.fE5m2 : Fmt := ⟨5, 2, false⟩

def Fmt.width (f : Fmt) : Nat := 1 + f.eb + f.fb
def Fmt.bias (f : Fmt) : Nat := 2 ^ (f.eb - 1) - 1
def Fmt.prec (f : Fmt) : Nat := f.fb + 1
def Fmt.emin (f : Fmt) : Int := 1 - (f.bias : Int)
def Fmt.expOnes (f : Fmt) : Nat := 2 ^ f.eb - 1
def Fmt.signBit (f : Fmt) (s : Bool) : Nat := if s then 2 ^ (f.eb + f.fb) else 0
/-- The canonical NaN. -/
def Fmt.nan (f : Fmt) : Nat := if f.e4m3 then 0x7F else f.expOnes * 2 ^ f.fb + 2 ^ (f.fb - 1)
def Fmt.inf (f : Fmt) (s : Bool) : Nat := f.signBit s + f.expOnes * 2 ^ f.fb
/-- The largest finite magnitude, as a pattern without its sign. -/
def Fmt.maxBits (f : Fmt) : Nat := if f.e4m3 then 0x7E else f.expOnes * 2 ^ f.fb - 1
/-- The pattern of a finite magnitude is its exponent field and fraction; its value is k * 2^x for these. -/
def Fmt.kx (f : Fmt) (bits : Nat) : Nat × Int :=
  let e := bits / 2 ^ f.fb % 2 ^ f.eb
  let m := bits % 2 ^ f.fb
  if e = 0 then (m, f.emin - f.fb) else (m + 2 ^ f.fb, (e : Int) - f.bias - f.fb)

/-- k * 2^x as a ratio. -/
def ratio (k : Nat) (x : Int) : Nat × Nat := if 0 ≤ x then (k * 2 ^ x.toNat, 1) else (k, 2 ^ (-x).toNat)

/-- The exact value of a pattern (R99, R100). -/
def Fmt.decode (f : Fmt) (bits : Nat) : Num :=
  let bits := bits % 2 ^ f.width
  let s := decide (2 ^ (f.eb + f.fb) ≤ bits)
  let e := bits / 2 ^ f.fb % 2 ^ f.eb
  let m := bits % 2 ^ f.fb
  if f.e4m3 && e = f.expOnes && m = 7 then .nan
  else if !f.e4m3 && e = f.expOnes then (if m = 0 then .inf s else .nan)
  else
    let (k, x) := f.kx bits
    if k = 0 then .zero s
    else
      let (n, d) := ratio k x
      .fin s n d

/-- A signalling NaN: fraction MSB 0; every E4M3 NaN is quiet (R100). -/
def Fmt.isSNaN (f : Fmt) (bits : Nat) : Bool :=
  !f.e4m3 && (f.decode bits).isNaN && (bits / 2 ^ (f.fb - 1)) % 2 = 0

/-- NV if some operand pattern is a signalling NaN (R102). -/
def Fmt.snanFlag (f : Fmt) (xs : List Nat) : Flags := if xs.any f.isSNaN then Flags.nv else Flags.none

/-! ### Rounding (R104) -/

/-- floor(log2(n / d)) for positive n and d. -/
def floorLog2 (n d : Nat) : Int :=
  let e : Int := (Nat.log2 n : Int) - Nat.log2 d
  let ge := if 0 ≤ e then decide (d * 2 ^ e.toNat ≤ n) else decide (d ≤ n * 2 ^ (-e).toNat)
  if ge then e else e - 1

/-- Whether the magnitude is rounded up: k is the integer part, r / d the fraction, s the sign, rnd the state drawn under
STO (R104). -/
def roundUp (mode : BitVec 3) (s : Bool) (k r d : Nat) (rnd : BitVec 32) : Bool :=
  match mode with
  | 1#3 => false
  | 2#3 => decide (0 < r) && !s
  | 3#3 => decide (0 < r) && s
  | 4#3 => decide (d ≤ 2 * r)
  | 5#3 => decide (2 ^ 32 ≤ r * 2 ^ 32 / d + rnd.toNat)
  | _ => decide (d < 2 * r) || (decide (2 * r = d) && decide (k % 2 = 1))

/-- n / (d * 2^x) as quotient, remainder and divisor. -/
def scaled (n d : Nat) (x : Int) : Nat × Nat × Nat :=
  let (n', d') := if 0 ≤ x then (n, d * 2 ^ x.toNat) else (n * 2 ^ (-x).toNat, d)
  (n' / d', n' % d', d')

/-- The pattern of magnitude k * 2^x, which the format can hold exactly with k at most 2^P. -/
def Fmt.pack (f : Fmt) (k : Nat) (x : Int) : Nat :=
  let (k, x) := if k = 2 ^ f.prec then (2 ^ f.fb, x + 1) else (k, x)
  if k < 2 ^ f.fb then k else ((x + f.fb + f.bias).toNat) * 2 ^ f.fb + (k - 2 ^ f.fb)

/-- RoundTo of R104: the pattern and the flags. -/
def roundTo (f : Fmt) (mode : BitVec 3) (sat : Bool) (rnd : BitVec 32) (v : Num) : Nat × Flags :=
  match v with
  | .nan => (f.nan, Flags.none)
  | .inf s =>
    if sat then (f.signBit s + f.maxBits, Flags.none)
    else if f.e4m3 then (f.nan, Flags.none)
    else (f.inf s, Flags.none)
  | .zero s => (f.signBit s, Flags.none)
  | .fin s n d =>
    let e := max (floorLog2 n d) f.emin
    let x := e - f.fb
    let (k, r, dd) := scaled n d x
    let k' := if roundUp mode s k r dd rnd then k + 1 else k
    let (mk, mx) := f.kx f.maxBits
    let (a, b) := ratio k' x
    let (ma, mb) := ratio mk mx
    if ma * b < a * mb then
      let fl := Flags.of ||| Flags.nx
      let toInf := mode = 0 || mode = 4 || mode = 5 || (mode = 2 && !s) || (mode = 3 && s)
      if sat || !toInf then (f.signBit s + f.maxBits, fl)
      else if f.e4m3 then (f.nan, fl)
      else (f.inf s, fl)
    else
      let tiny := decide (floorLog2 n d < f.emin)
      let fl := if r = 0 then Flags.none else if tiny then Flags.nx ||| Flags.uf else Flags.nx
      (f.signBit s + f.pack k' x, fl)

/-! ### Operations (R102) -/

/-- Sum of two exact values: the value and whether the operation is invalid. An exact zero sum of opposite signs is -0
under RDN. -/
def Num.add (mode : BitVec 3) (x y : Num) : Num × Bool :=
  match x, y with
  | .nan, _ => (.nan, false)
  | _, .nan => (.nan, false)
  | .inf s, .inf t => if s = t then (.inf s, false) else (.nan, true)
  | .inf s, _ => (.inf s, false)
  | _, .inf t => (.inf t, false)
  | .zero s, .zero t => (.zero (if s = t then s else mode = 3), false)
  | .zero _, _ => (y, false)
  | _, .zero _ => (x, false)
  | .fin _ _ d, .fin _ _ e =>
    (.ofRatio (decide (mode = 3)) (x.num * e + y.num * d) (d * e), false)

/-- Product: the value and whether it is 0 times infinity. -/
def Num.mul (x y : Num) : Num × Bool :=
  let s := x.neg != y.neg
  match x, y with
  | .nan, _ => (.nan, false)
  | _, .nan => (.nan, false)
  | .inf _, .zero _ => (.nan, true)
  | .zero _, .inf _ => (.nan, true)
  | .inf _, _ => (.inf s, false)
  | _, .inf _ => (.inf s, false)
  | .zero _, _ => (.zero s, false)
  | _, .zero _ => (.zero s, false)
  | .fin _ a b, .fin _ c d => (.fin s (a * c) (b * d), false)

/-- Quotient: the value and the flags NV and DZ. -/
def Num.div (x y : Num) : Num × Flags :=
  let s := x.neg != y.neg
  match x, y with
  | .nan, _ => (.nan, Flags.none)
  | _, .nan => (.nan, Flags.none)
  | .inf _, .inf _ => (.nan, Flags.nv)
  | .zero _, .zero _ => (.nan, Flags.nv)
  | .inf _, _ => (.inf s, Flags.none)
  | _, .inf _ => (.zero s, Flags.none)
  | .zero _, _ => (.zero s, Flags.none)
  | .fin _ _ _, .zero _ => (.inf s, Flags.dz)
  | .fin _ a b, .fin _ c d => (.fin s (a * d) (b * c), Flags.none)

/-- The integer square root, bit by bit from bit n - 1 down. -/
def isqrtBits (m : Nat) : Nat → Nat → Nat
  | 0, r => r
  | n + 1, r =>
    let t := r + 2 ^ n
    isqrtBits m n (if t * t ≤ m then t else r)

/-- The integer square root. -/
def isqrt (m : Nat) : Nat := isqrtBits m (Nat.log2 m / 2 + 1) 0

/-- A value between two neighbours of a grid finer than any rounding looks at stands for an irrational root: the root
scaled by 2^140, with a last half when it is not exact. -/
def Num.sqrt (x : Num) : Num × Flags :=
  match x with
  | .nan => (.nan, Flags.none)
  | .zero s => (.zero s, Flags.none)
  | .inf false => (.inf false, Flags.none)
  | .inf true => (.nan, Flags.nv)
  | .fin true _ _ => (.nan, Flags.nv)
  | .fin false n d =>
    let e := floorLog2 n d
    let sh : Int := 2 * (140 - e / 2)
    let (q, r, _) := scaled n d (-sh)
    let t := isqrt q
    let exact := decide (r = 0) && decide (t * t = q)
    let m := if exact then 2 * t else 2 * t + 1
    let (a, b) := ratio m (-(sh / 2) - 1)
    (.fin false a b, Flags.none)

/-! ### Integers (R97, R108, R109) -/

/-- An integer type: width and sign (R96). -/
structure ITy where
  w : Nat
  signed : Bool
  deriving DecidableEq, Repr

def ITy.min (t : ITy) : Int := if t.signed then -(2 ^ (t.w - 1)) else 0
def ITy.max (t : ITy) : Int := if t.signed then 2 ^ (t.w - 1) - 1 else 2 ^ t.w - 1
/-- The value of a pattern. -/
def ITy.val (t : ITy) (bits : Nat) : Int :=
  let b := bits % 2 ^ t.w
  if t.signed && decide (2 ^ (t.w - 1) ≤ b) then (b : Int) - 2 ^ t.w else b
/-- The pattern of an integer modulo 2^W. -/
def ITy.wrap (t : ITy) (x : Int) : Nat := (x % 2 ^ t.w).toNat
def ITy.clamp (t : ITy) (x : Int) : Int := Max.max t.min (Min.min t.max x)
/-- An exact integer narrowed to the type (R97). -/
def ITy.narrow (t : ITy) (sat : Bool) (x : Int) : Nat := t.wrap (if sat then t.clamp x else x)

/-- ToInt of R109: the pattern and the flags. -/
def toIntTy (t : ITy) (mode : BitVec 3) (sat : Bool) (rnd : BitVec 32) (v : Num) : Nat × Flags :=
  match v with
  | .nan => (0, Flags.nv)
  | .inf s => (if sat then t.wrap (if s then t.min else t.max) else 0, Flags.nv)
  | .zero _ => (0, Flags.none)
  | .fin s n d =>
    let k := n / d
    let r := n % d
    let m := if roundUp mode s k r d rnd then k + 1 else k
    let i : Int := if s then -(m : Int) else m
    if i < t.min ∨ t.max < i then (t.wrap (if sat then t.clamp i else i), Flags.nv)
    else (t.wrap i, if r = 0 then Flags.none else Flags.nx)

end Sys2Proof.Machine
end

