-- ==== Sys2Proof/Machine/Packets.lean ====
section
/-! DEFINITION. Packets between modules at their source (R395, R397 to R402): routing tables, spraying over the planes, the
streams of unacknowledged packets, and the flits that a port sends. -/

namespace Sys2Proof.Machine

open Sys2Proof

def State.linkPort (s : State) (p : Nat) : LinkPort := SMap.get {} s.carrier.ports p
def State.setLinkPort (s : State) (p : Nat) (x : LinkPort) : State :=
  { s with carrier := { s.carrier with ports := SMap.put s.carrier.ports p x } }
def State.plane (s : State) (q : Nat) : Plane := SMap.get {} s.carrier.planes q
def State.setPlane (s : State) (q : Nat) (x : Plane) : State :=
  { s with carrier := { s.carrier with planes := SMap.put s.carrier.planes q x } }

/-- The key of a stream: module and virtual channel (R399). -/
def streamKey (m : Nat) (vc : BitVec 2) : Nat := 4 * m + vc.toNat
def State.outStream (s : State) (m : Nat) (vc : BitVec 2) : OutStream := SMap.get {} s.carrier.outs (streamKey m vc)
def State.setOutStream (s : State) (m : Nat) (vc : BitVec 2) (x : OutStream) : State :=
  { s with carrier := { s.carrier with outs := SMap.put s.carrier.outs (streamKey m vc) x } }
def State.inStream (s : State) (m : Nat) (vc : BitVec 2) : InStream := SMap.get {} s.carrier.ins (streamKey m vc)
def State.setInStream (s : State) (m : Nat) (vc : BitVec 2) (x : InStream) : State :=
  { s with carrier := { s.carrier with ins := SMap.put s.carrier.ins (streamKey m vc) x } }

/-! ### Routing (R401) -/

/-- The entry of a copy of the plane's table for a destination module. -/
def Plane.entry (x : Plane) (copy : Bool) (m : Nat) : BitVec 4 := SMap.get 0 x.table (1024 * b2n copy + m)

/-- The port, among all 32, that plane q names for a destination module; none where the entry is invalid. -/
def State.route (s : State) (q : Nat) (copy : Bool) (m : Nat) : Option Nat :=
  let e := (s.plane q).entry copy m
  if e.getLsbD 3 then some (8 * q + field e 0 3) else none

/-- Plane q has a route up for injection to module m (R398). -/
def State.routeUp (s : State) (m q : Nat) : Bool :=
  match s.route q (s.plane q).act m with
  | some p => (s.linkPort p).up
  | none => false

/-- The plane that takes the next packet for module m: round robin, skipping planes with no route up (R398). -/
def State.nextPlane (s : State) (m : Nat) : Option Nat :=
  let t := SMap.get 0 s.carrier.spray m
  ((List.range 4).map (fun i => (t + i) % 4)).find? (s.routeUp m)

/-! ### Sending -/

/-- The KIND of a packet (R395). -/
def packetKind : PacketOp → Nat
  | .read .. => 0
  | .write .. => 1
  | .fill .. => 1
  | .clear .. => 1
  | .line .. => 1
  | .atomic .. => 2
  | .reply .. => 3
  | .nack .. => 3
  | .retranslate .. => 3
  | .retire .. => 3
  | .discarded .. => 3
  | .ack .. => 3
  | .words .. => 4
  | .exchange _ => 5
  | .service => 6

/-- A flit leaves on port p: the port numbers it, acknowledges the reverse direction, and keeps it among the last 1,024
(R395, R396). `ctl` holds bits [39:0] of the link control word. -/
def State.sendFlit (s : State) (p : Nat) (ctl : Word) (rest : List Word) : State :=
  let x := s.linkPort p
  let w := at_ x.tx.toNat 52 ||| at_ (x.rx - 1).toNat 40 ||| ctl
  s.setLinkPort p { x with tx := x.tx + 1, sent := (x.sent ++ [SentFlit.mk (w :: rest) 0]).drop (x.sent.length - 1023) }

/-- The link control bits of a flit: virtual channel, type, STOMP. -/
def flitCtl (vc : BitVec 2) (ft : Nat) (stomp : Bool) : Word := at_ vc.toNat 38 ||| at_ ft 35 ||| at_ (b2n stomp) 34

/-- Word 1 of a head flit (R395). -/
def headWord (dst src : Nat) (tbl : Bool) (kind nflm1 : Nat) (eseq : BitVec 32) : Word :=
  at_ dst 54 ||| at_ src 44 ||| at_ (b2n tbl) 43 ||| at_ kind 40 ||| at_ nflm1 34 ||| eseq.zeroExtend 64

/-- Free words, since the layout of OPF and payload and the polynomial of the CRCs are not in the spec (log entry 9): n whole ones and c
with only a CRC of 32 bits. -/
def State.freeWords (s : State) (n c : Nat) : List Word :=
  (List.range (n + c)).map (fun i =>
    let w := Config.freeWord (s.fresh + i)
    if i < n then w else w &&& 0xFFFFFFFF#64)

/-- The words of a flit of type ft after its first, or after the head word: OPF with HOPS 0 in a head, payload, and CRCs (R395). -/
def State.flitBody (s : State) (ft : Nat) : List Word :=
  match ft with
  | 1 => (Config.freeWord (s.fresh + 29) &&& ofNat (2 ^ 59 - 1)) :: s.freeWords 28 1
  | 2 => s.freeWords 31 0
  | 3 => s.freeWords 30 1
  | _ => (Config.freeWord (s.fresh + 29) &&& ofNat (2 ^ 59 - 1)) :: s.freeWords 27 2

/-- How many payload words a packet carries: the data it names, and one poison bit for each queue word. The spec does not give the
layout of a payload (log entry 9). -/
def payloadWords : PacketOp → Nat
  | .write .. => 1
  | .fill .. => 1
  | .line .. => 9
  | .atomic .. => 3
  | .reply .. => 1
  | .words _ _ _ ws => ws.length + (ws.length + 63) / 64
  | .exchange (.post _ _ d _ _) => d.length + 2
  | .exchange (.record _ _ ws) => 2 + (5 * ws.length + 7) / 8
  | .exchange (.item _ _ _ _ (.bytes _ _)) => 2
  | .exchange (.item _ _ _ _ (.short _)) => 1
  | .service => 1
  | _ => 0

/-- The flits of a packet with n payload words (R395): 27 words fit in a single one, 28 in a head, 31 in a body and 30 in a tail. -/
def flitCount (n : Nat) : Nat := if n ≤ 27 then 1 else min 64 (2 + (n - 58 + 30) / 31)

/-- A flit of a packet leaves, with free words. -/
def State.packetFlit (s : State) (p : Nat) (vc : BitVec 2) (ft : Nat) (head : List Word) : State :=
  let s' := s.sendFlit p (flitCtl vc ft false) (head ++ s.flitBody ft)
  { s' with fresh := s'.fresh + 32 }

/-- A packet of n flits leaves on port p, with the head word given (R395). -/
def State.sendFlits (s : State) (p : Nat) (vc : BitVec 2) (n : Nat) (head : Word) : State :=
  if n ≤ 1 then s.packetFlit p vc 4 [head]
  else ((List.range (n - 2)).foldl (fun s _ => s.packetFlit p vc 2 []) (s.packetFlit p vc 1 [head])).packetFlit p vc 3 []

/-- A packet leaves for module m on plane q (R398, R399). A KIND 3 packet is not acknowledged. -/
def State.inject (s : State) (m : Nat) (vc : BitVec 2) (q : Nat) (op : PacketOp) : State :=
  let x := s.outStream m vc
  let tbl := (s.plane q).act
  let p := (s.route q tbl m).getD 0
  let n := flitCount (payloadWords op)
  let s := s.sendFlits p vc n (headWord m s.modNo.toNat tbl (packetKind op) (n - 1) x.next)
  let un := if packetKind op = 3 then x.unacked else x.unacked ++ [⟨x.next, q, tbl, op⟩]
  let s := s.setOutStream m vc { x with next := x.next + 1, unacked := un }
  { s with carrier := { s.carrier with spray := SMap.put s.carrier.spray m ((q + 1) % 4) } }

/-- The packets that stall for module m leave while fewer than 256 are unacknowledged and some plane has a route up. -/
def State.drain (s : State) (m : Nat) (vc : BitVec 2) : Nat → State
  | 0 => s
  | n + 1 =>
    let x := s.outStream m vc
    match x.waiting, s.nextPlane m with
    | op :: rest, some q =>
      if packetKind op ≠ 3 ∧ 256 ≤ x.unacked.length then s
      else ((s.setOutStream m vc { x with waiting := rest }).inject m vc q op).drain m vc n
    | _, _ => s

/-- A packet for module m on a virtual channel (R399). -/
def State.sendPacket (s : State) (m : Nat) (vc : BitVec 2) (op : PacketOp) : State :=
  let x := s.outStream m vc
  (s.setOutStream m vc { x with waiting := x.waiting ++ [op] }).drain m vc (x.waiting.length + 1)

/-- Every stream leaves as it can, after a port has come up or a table has changed. -/
def State.drainAll (s : State) : State :=
  s.carrier.outs.foldl (fun s x => s.drain (x.1 / 4) (BitVec.ofNat 2 x.1) x.2.waiting.length) s

end Sys2Proof.Machine
end

