-- ==== Sys2Proof/Machine/Circuits.lean ====
section
/-! DEFINITION. Circuits (R404, R405): where the chain of lanes of an outbound port leads, through the cells of the grid and the
channels of the link ports (R403). -/

namespace Sys2Proof.Machine

open Sys2Proof

/-- Where a chain of lanes ends: an inbound port of a cell, a channel of a link port that leaves the module, or nowhere. -/
inductive CircuitEnd where
  | port (cell port : Nat)
  | channel (link chan : Nat)
  | nowhere
  deriving DecidableEq, Repr

/-- The neighbour of cell k in direction d: 0 north, 1 east, 2 south, 3 west (R404); none at the grid's edge. -/
def neighbour (k d : Nat) : Option Nat :=
  match d with
  | 0 => if yOf k = 0 then none else some (k - 512)
  | 1 => if xOf k = 511 then none else some (k + 1)
  | 2 => if yOf k = 511 then none else some (k + 512)
  | _ => if xOf k = 0 then none else some (k - 1)

/-- The place of an edge cell along the side d. -/
def sidePos (k d : Nat) : Nat := if d % 2 = 0 then xOf k else yOf k
/-- The cell at a place of side d. -/
def sideCell (d pos : Nat) : Nat :=
  match d with
  | 0 => pos
  | 1 => 512 * pos + 511
  | 2 => 512 * 511 + pos
  | _ => 512 * pos

def Cell.lane (c : Cell) (f : Nat) : BitVec 32 := SMap.get 0 c.lanes f
def LinkPort.chan (x : LinkPort) (c : Nat) : BitVec 32 := SMap.get 0 x.cch c
/-- Channel c of a link port is enabled in the direction given, 0 outbound. -/
def LinkPort.chanOn (x : LinkPort) (c dir : Nat) : Bool := (x.chan c).getLsbD 31 && field (x.chan c) 30 1 = dir

/-- The outgoing lane, as 2 d + l, that an incoming lane of a cell feeds, and that a local port feeds. -/
def Cell.fedByLane (c : Cell) (d l : Nat) : Option Nat :=
  (upto 8).find? (fun j => (c.lane j).getLsbD 11 && !(c.lane j).getLsbD 10 && field (c.lane j) 3 2 = d && field (c.lane j) 2 1 = l)
def Cell.fedByPort (c : Cell) (i : Nat) : Option Nat :=
  (upto 8).find? (fun j => (c.lane j).getLsbD 11 && (c.lane j).getLsbD 10 && field (c.lane j) 7 3 = i)

/-- The outbound channel that meets lane l at a place of side d; on which side a port's channels lie the spec does not say (log
entry 62). -/
def State.edgeChannel (s : State) (d pos l : Nat) : CircuitEnd :=
  match ((upto 32).flatMap (fun p => (upto 16).map (fun c => (p, c)))).find? (fun x =>
      let y := s.linkPort x.1
      y.chanOn x.2 0 && Config.portSide x.1 % 4 = d && field (y.chan x.2) 21 9 = pos && field (y.chan x.2) 20 1 = l) with
  | some (p, c) => .channel p c
  | none => .nowhere

/-- Where a word goes that leaves cell k on lane l in direction d, through at most n cells. -/
def State.follow (s : State) : Nat → Nat → Nat → Nat → CircuitEnd
  | 0, _, _, _ => .nowhere
  | n + 1, k, d, l =>
    match neighbour k d with
    | none => s.edgeChannel d (sidePos k d) l
    | some k' =>
      let i := (d + 2) % 4
      let c := s.cell k'
      if (c.lane (8 + 2 * i + l)).getLsbD 11 then .port k' (field (c.lane (8 + 2 * i + l)) 0 3)
      else
        match c.fedByLane i l with
        | some j => s.follow n k' (j / 2) (j % 2)
        | none => .nowhere

/-- A chain has no lane twice (R405), so it is no longer than the module has lanes. -/
def laneCount : Nat := 8 * 262144

/-- Where the circuit of an outbound port leads; none for a port with PATH = 0. -/
def State.circuit (s : State) (k i : Nat) : Option CircuitEnd :=
  if ((s.cell k).outEp i).path = false then none
  else
    match (s.cell k).fedByPort i with
    | some j => some (s.follow laneCount k (j / 2) (j % 2))
    | none => some .nowhere

/-- Where a word goes that comes in on channel c of link port p. -/
def State.channelEnd (s : State) (p c : Nat) : CircuitEnd :=
  let x := s.linkPort p
  if x.chanOn c 1 = false then .nowhere
  else
    let d := Config.portSide p % 4
    let l := field (x.chan c) 20 1
    let k := sideCell d (field (x.chan c) 21 9)
    if ((s.cell k).lane (8 + 2 * d + l)).getLsbD 11 then .port k (field ((s.cell k).lane (8 + 2 * d + l)) 0 3)
    else
      match (s.cell k).fedByLane d l with
      | some j => s.follow laneCount k (j / 2) (j % 2)
      | none => .nowhere

end Sys2Proof.Machine
end

