-- ==== Sys2Proof/Machine/Operands.lean ====
section
/-! DEFINITION. What can stop an instruction at its issue, and the operand helpers of R183: sources (g registers and q
ports under the sticky counts of R62), destinations (g registers, pushes on outbound ports and on the phase endpoint),
and the checks of a push (R121, R183, R232, R441). -/

namespace Sys2Proof.Machine

/-- Why an instruction does not complete its issue. -/
inductive Stop where
  /-- it sleeps with no effect (R24, R184) -/
  | wait (why : Stall) (on : WaitCond)
  /-- it sleeps after a part of its effect, which this cell and state hold -/
  | waitIn (s : State) (c : Cell) (why : Stall) (on : WaitCond)
  /-- it raises a cause with its sys.tval (R75, R175) -/
  | cause (code : BitVec 8) (tval : Word)
  /-- it raises ILLOP, whose sys.tval is the instruction word (R175) -/
  | illop
  /-- it raises PRIV with the instruction word (R175) -/
  | priv
  /-- a poisoned value reaches a sink at the instruction; the number of its operand field is sys.tval (R441) -/
  | sink (fld : Nat)
  /-- it ends in a state of its own: a trap, a break, a return, the end of the task, a park -/
  | other (s : State)

/-- What an instruction's body gives: the other units' state, the cell with every effect of the instruction, the next
PC if it is not PC + 1, its issue cost, whether its token fires later, and whether its slot is already FAULTED. -/
structure Fin where
  s : State
  c : Cell
  jump : Option Nat := none
  cost : Nat := 1
  async : Bool := false
  failed : Bool := false

abbrev Res := Except Stop Fin

/-- Cause codes of R75. -/
def causeAlign : BitVec 8 := 3
def causeLbound : BitVec 8 := 4
def causeTrans : BitVec 8 := 5
def causeKind : BitVec 8 := 6
def causeFill2 : BitVec 8 := 7
def causePoison : BitVec 8 := 8

/-- POISON: sys.tval is the number of the operand field, 0 D, 1 A, 2 B, 3 C (R175). -/
def poisonAt (fld : Nat) : Stop := .cause causePoison (ofNat fld)

/-- Raise ILLOP unless the condition holds. -/
def legal (b : Bool) : Except Stop Unit := if b then .ok () else .error .illop

/-- Raise POISON of a field unless its value is clean. -/
def clean (fld : Nat) (v : Val) : Except Stop Unit := if v.p then .error (poisonAt fld) else .ok ()

/-- A g register as a source: it waits while an asynchronous instruction will write it (R149). -/
def readG (c : Cell) (n : Nat) : Except Stop Val :=
  if c.busy.contains n then .error (.wait .token (.reg n)) else .ok (c.reg n)

/-- Every register among the 6-bit fields is ready, which is looked at before any head word (R160, R161): one that an asynchronous
instruction will write is waited for (R149). -/
def regsReady (c : Cell) (fs : List (BitVec 6)) : Except Stop Unit :=
  match fs.find? (fun f => decide (f.toNat ≤ 55) && c.busy.contains f.toNat) with
  | some f => .error (.wait .token (.reg f.toNat))
  | none => .ok ()

/-- A destination field that names a q port names one bound outbound or to the phase endpoint: ILLOP, the lowest cause, otherwise
(R61, R76). -/
def needDst (c : Cell) (f : BitVec 6) : Except Stop Unit :=
  legal (decide (f.toNat ≤ 55) || c.binding (f.toNat - 56) = 2 || c.binding (f.toNat - 56) = 3)

/-- ReadPort of R62: one read of a port with sticky count n. -/
def readPort (c : Cell) (i : Nat) (n : BitVec 3) : Except Stop (Val × Cell) :=
  if c.binding i ≠ 1 then .error .illop
  else if c.hasHead i = false then .error (.wait .popEmpty (.head i 0))
  else
    let v := (c.headAt i 0).v
    let e := c.inEp i
    let res := match e.res with
      | some r => r
      | none => if n = 7 then e.stk.toNat else n.toNat
    if res = 0 then .ok (v, (c.popHead i).clearRes i)
    else .ok (v, c.setIn i { e with res := some (res - 1) })

/-- ReadSrc of R183 for a 6-bit field f with sticky count n. -/
def readSrc (c : Cell) (f : BitVec 6) (n : BitVec 3) : Except Stop (Val × Cell) :=
  if f.toNat ≤ 55 then do return (← readG c f.toNat, c) else readPort c (f.toNat - 56) n

/-- The subtypes a push may carry with tag CTL (R120, R121): a reserved one raises ILLOP, and QUIESCE, LOADMARK and
SEQSYNC raise PRIV outside domain 0. -/
def checkCtl (c : Cell) (tag : BitVec 3) (v : Word) : Except Stop Unit :=
  if tag ≠ 7 then .ok ()
  else
    let sub := field v 56 8
    if sub = 0 ∨ 8 ≤ sub then .error .illop
    else if (sub = 2 ∨ sub = 4 ∨ sub = 6) ∧ c.priv = false then .error .priv
    else .ok ()

/-- A push of one word on port i with a tag (R232): on an outbound port it enters the window; on the phase endpoint only
a PHASE word with tag CTL is legal. A poisoned word for another domain, or for the phase endpoint, is a sink (R441). -/
def push (c : Cell) (i : Nat) (v : Val) (tag : BitVec 3) (fld : Nat) : Except Stop Cell :=
  if c.binding i = 2 then do
    checkCtl c tag v.v
    if v.p && (c.outEp i).leaves c.ident.dom then .error (.sink fld)
    else if (c.outEp i).room = 0 then .error (.wait .pushFull (.room i 1))
    else .ok (c.enterWindow i v tag 0 0)
  else if c.binding i = 3 then
    if tag ≠ 7 ∨ field v.v 56 8 ≠ 3 then .error .illop
    else if v.p then .error (.sink fld)
    else if 16 ≤ c.phaseOut.length then .error (.wait .pushFull .phaseRoom)
    else .ok { c with phaseOut := c.phaseOut ++
      [⟨v.v, false, 7, c.ident.unit, 0, 0, 0, c.ident.dom, c.ident.dom⟩] }
  else .error .illop

/-- The default tag of a port: DEFTAG of the outbound endpoint, CTL on the phase endpoint (R183). -/
def Cell.defTag (c : Cell) (i : Nat) : BitVec 3 := if c.binding i = 3 then 7 else (c.outEp i).deftag

/-- WriteDst of R183 for a 6-bit field f. A g register that an asynchronous instruction will write is waited for
(R149). -/
def writeDst (c : Cell) (f : BitVec 6) (v : Val) : Except Stop Cell :=
  let n := f.toNat
  if n ≤ 55 then
    if c.busy.contains n then .error (.wait .token (.reg n)) else .ok (c.setReg n v)
  else push c (n - 56) v (c.defTag (n - 56)) 0

/-- A destination that an asynchronous instruction will write: a g register becomes busy; a q port must be bound
outbound or to the phase endpoint (R61, R149). -/
def claimDst (c : Cell) (f : BitVec 6) : Except Stop Cell :=
  let n := f.toNat
  if n ≤ 55 then
    if c.busy.contains n then .error (.wait .token (.reg n)) else .ok (c.setBusy n)
  else if c.binding (n - 56) = 2 ∨ c.binding (n - 56) = 3 then .ok c
  else .error .illop

/-- Several causes found at one issue: the one of lowest code is raised (R76). -/
def raise (cs : List (Bool × BitVec 8 × Word)) : Except Stop Unit :=
  let on := cs.filter (fun x => x.1)
  match on with
  | [] => .ok ()
  | x :: xs =>
    let m := xs.foldl (fun a b => if b.2.1.toNat < a.2.1.toNat then b else a) x
    .error (.cause m.2.1 m.2.2)

/-- Sources A and B of a format-R or format-M instruction, in order. -/
def readAB (c : Cell) (a b : BitVec 6) (sa sb : BitVec 3) : Except Stop (Val × Val × Cell) := do
  let (x, c) ← readSrc c a sa
  let (y, c) ← readSrc c b sb
  return (x, y, c)

end Sys2Proof.Machine
end

