-- ==== Sys2Proof/Decode.lean ====
section
/-! DEFINITION. The decoder of instruction words, total on every 64-bit word (an unassigned opcode becomes
`unassignedOpcode`, the operation that raises ILLOP), of byte lists (refused by name when shorter than a word), of
configuration commands (R43, R44) and of the TAP's instruction register (R494); and after it the encoder, written
from the same tables. -/

namespace Sys2Proof

/-- The common header of an instruction word (R56). -/
def Hdr.ofWord (w : Word) : Hdr := ⟨w.extractLsb' 48 8, w.getLsbD 47, w.extractLsb' 44 3⟩

/-- The fields of format R (R57). -/
def FmtR.ofWord (w : Word) : FmtR :=
  ⟨w.extractLsb' 38 6, w.extractLsb' 32 6, w.extractLsb' 26 6, w.extractLsb' 20 6, w.extractLsb' 17 3,
   w.extractLsb' 14 3, w.extractLsb' 11 3, w.extractLsb' 7 4, w.extractLsb' 4 3, w.getLsbD 3, w.extractLsb' 0 3⟩

/-- The fields of format I (R57). -/
def FmtI.ofWord (w : Word) : FmtI :=
  ⟨w.extractLsb' 38 6, w.extractLsb' 32 6, w.extractLsb' 29 3, w.extractLsb' 0 29⟩

/-- The fields of format M (R57). -/
def FmtM.ofWord (w : Word) : FmtM :=
  ⟨w.extractLsb' 38 6, w.extractLsb' 32 6, w.extractLsb' 26 6, w.extractLsb' 23 3, w.extractLsb' 20 3,
   w.extractLsb' 18 2, w.getLsbD 17, w.extractLsb' 14 3, w.extractLsb' 0 14⟩

/-- The fields of format B (R57). -/
def FmtB.ofWord (w : Word) : FmtB :=
  ⟨w.extractLsb' 38 6, w.extractLsb' 32 6, w.extractLsb' 29 3, w.extractLsb' 0 29⟩

/-- The fields of format X (R57). -/
def FmtX.ofWord (w : Word) : FmtX :=
  ⟨w.extractLsb' 38 6, w.extractLsb' 32 6, w.extractLsb' 26 6, w.extractLsb' 20 6, w.extractLsb' 0 20⟩

/-- The fields of format V (R57). -/
def FmtV.ofWord (w : Word) : FmtV :=
  ⟨w.extractLsb' 38 6, w.extractLsb' 32 6, w.extractLsb' 26 6, w.extractLsb' 20 6, w.extractLsb' 17 3,
   w.getLsbD 16, w.extractLsb' 11 5, w.extractLsb' 7 4, w.extractLsb' 4 3, w.getLsbD 3, w.extractLsb' 0 3⟩

/-- The instruction of an opcode of format R (R58, R79), none for any other opcode. -/
def decodeR (op : BitVec 8) (h : Hdr) (f : FmtR) : Option Instr :=
  match op with
  | 0x00#8 => some (.nop h f)
  | 0x01#8 => some (.add h f)
  | 0x02#8 => some (.sub h f)
  | 0x03#8 => some (.adds h f)
  | 0x04#8 => some (.mul h f)
  | 0x05#8 => some (.mulh h f)
  | 0x06#8 => some (.mulhn h f)
  | 0x07#8 => some (.div h f)
  | 0x08#8 => some (.divn h f)
  | 0x09#8 => some (.rem h f)
  | 0x0A#8 => some (.remn h f)
  | 0x0B#8 => some (.andR h f)
  | 0x0C#8 => some (.orR h f)
  | 0x0D#8 => some (.xorR h f)
  | 0x0E#8 => some (.shl h f)
  | 0x0F#8 => some (.shr h f)
  | 0x10#8 => some (.sra h f)
  | 0x11#8 => some (.rotl h f)
  | 0x12#8 => some (.clz h f)
  | 0x13#8 => some (.popc h f)
  | 0x14#8 => some (.min h f)
  | 0x15#8 => some (.max h f)
  | 0x16#8 => some (.minn h f)
  | 0x17#8 => some (.maxn h f)
  | 0x18#8 => some (.ceq h f)
  | 0x19#8 => some (.clt h f)
  | 0x1A#8 => some (.cltn h f)
  | 0x1B#8 => some (.sel h f)
  | 0x26#8 => some (.modw h f)
  | 0x2D#8 => some (.ret h f)
  | 0x33#8 => some (if f.fn = 1 then .rettNext h f else if f.fn = 2 then .rettRedo h f else if f.fn = 3 then .rettEnd h f else .rettRetry h f)
  | 0x34#8 => some (.done h f)
  | _ => none

/-- The instruction of an opcode of format I (R58, R79), none for any other opcode. -/
def decodeI (op : BitVec 8) (h : Hdr) (f : FmtI) : Option Instr :=
  match op with
  | 0x1C#8 => some (.addi h f)
  | 0x1D#8 => some (.andi h f)
  | 0x1E#8 => some (.ori h f)
  | 0x1F#8 => some (.xori h f)
  | 0x20#8 => some (.shli h f)
  | 0x21#8 => some (.shri h f)
  | 0x22#8 => some (.srai h f)
  | 0x23#8 => some (.movi h f)
  | 0x24#8 => some (.movhi h f)
  | 0x31#8 => some (.svc h f)
  | 0x32#8 => some (.trap h f)
  | 0x35#8 => some (.brk h f)
  | 0x36#8 => some (.rdsys h f)
  | 0x37#8 => some (.wrsys h f)
  | _ => none

/-- The instruction of an opcode of format M (R58, R79), none for any other opcode. -/
def decodeM (op : BitVec 8) (h : Hdr) (f : FmtM) : Option Instr :=
  match op with
  | 0x25#8 => some (.lea h f)
  | 0x2F#8 => some (.ldl h f)
  | 0x30#8 => some (.stl h f)
  | 0x70#8 => some (.ldg h f)
  | 0x71#8 => some (.stg h f)
  | 0x72#8 => some (.ldf h f)
  | 0x73#8 => some (.stf h f)
  | 0x74#8 => some (.clrf h f)
  | 0x75#8 => some (.ald h f)
  | 0x7E#8 => some (.fence h f)
  | _ => none

/-- The instruction of an opcode of format B (R58, R79), none for any other opcode. -/
def decodeB (op : BitVec 8) (h : Hdr) (f : FmtB) : Option Instr :=
  match op with
  | 0x27#8 => some (.br h f)
  | 0x28#8 => some (.bz h f)
  | 0x29#8 => some (.bnz h f)
  | 0x2A#8 => some (.blz h f)
  | 0x2B#8 => some (.bgez h f)
  | 0x2C#8 => some (.call h f)
  | 0x2E#8 => some (.loopn h f)
  | _ => none

/-- The instruction of an opcode of format X (R58, R79), none for any other opcode. -/
def decodeX (op : BitVec 8) (h : Hdr) (f : FmtX) : Option Instr :=
  match op with
  | 0x40#8 => some (.pop h f)
  | 0x41#8 => some (.peek h f)
  | 0x42#8 => some (.push h f)
  | 0x43#8 => some (.pushl h f)
  | 0x44#8 => some (.popl h f)
  | 0x45#8 => some (.qlen h f)
  | 0x46#8 => some (.qroom h f)
  | 0x47#8 => some (.qbind h f)
  | 0x48#8 => some (if f.ef.getLsbD 11 then .qtagIn h f else .qtagOut h f)
  | 0x49#8 => some (.qstk h f)
  | 0x4A#8 => some (.qskip h f)
  | 0x4B#8 => some (.qdiv h f)
  | 0x4C#8 => some (.qseq h f)
  | 0x4D#8 => some (.qsleep h f)
  | 0x4E#8 => some (.qmark h f)
  | 0x4F#8 => some (.qflush h f)
  | 0x50#8 => some (if f.ef.extractLsb' 2 2 = 0 then .ccfgLim h f else .ccfgMode h f)
  | 0x51#8 => some (.cstart h f)
  | 0x52#8 => some (.cstop h f)
  | 0x53#8 => some (.cread h f)
  | 0x54#8 => some (.rngrd h f)
  | 0x55#8 => some (.qwaitn h f)
  | 0x60#8 => some (.cpy h f)
  | 0x61#8 => some (.cpys h f)
  | 0x62#8 => some (.cpyg h f)
  | 0x63#8 => some (.cpyd h f)
  | 0x64#8 => some (if f.ef.getLsbD 6 then .eagcfgR h f else .eagcfgW h f)
  | 0x65#8 => some (if f.ef.extractLsb' 1 2 = 1 then .eaggoResume h f else if f.ef.extractLsb' 1 2 = 2 then .eaggoStop h f else .eaggoStart h f)
  | 0x66#8 => some (.sinc h f)
  | 0x67#8 => some (.sset h f)
  | 0x68#8 => some (.srd h f)
  | 0x69#8 => some (.swait h f)
  | 0x6A#8 => some (.swaitd h f)
  | 0x76#8 => some (.aadd h f)
  | 0x77#8 => some (.afadd h f)
  | 0x78#8 => some (.amin h f)
  | 0x79#8 => some (.amax h f)
  | 0x7A#8 => some (.axchg h f)
  | 0x7B#8 => some (.acas h f)
  | 0x7C#8 => some (.aor h f)
  | 0x7D#8 => some (.aand h f)
  | 0x80#8 => some (.evarr h f)
  | 0x81#8 => some (if f.ef.getLsbD 3 then .evwaitE h f else .evwaitB h f)
  | 0x82#8 => some (.evsig h f)
  | 0x83#8 => some (.evlock h f)
  | 0x84#8 => some (.evunlk h f)
  | 0x85#8 => some (.evcmb h f)
  | 0xC0#8 => some (.pori2 h f)
  | 0xC1#8 => some (.pori3 h f)
  | 0xC2#8 => some (.pinci h f)
  | 0xC3#8 => some (.pinsp h f)
  | 0xC4#8 => some (.psegx h f)
  | 0xC5#8 => some (.pstat h f)
  | 0xC8#8 => some (.mgang h f)
  | 0xC9#8 => some (.mread h f)
  | 0xCA#8 => some (.mclr h f)
  | 0xCB#8 => some (if f.ef.getLsbD 2 then .msclRd h f else .mscl h f)
  | 0xCC#8 => some (.mstat h f)
  | 0xCD#8 => some (.mfill h f)
  | 0xCE#8 => some (if f.ef.getLsbD 4 then .mcut h f else .mcutOff h f)
  | 0xCF#8 => some (.mswap h f)
  | 0xD0#8 => some (if f.ef.getLsbD 4 then .mleaveRel h f else .mleaveRsv h f)
  | 0xD1#8 => some (.msync h f)
  | 0xD8#8 => some (.xpost h f)
  | 0xD9#8 => some (.xgrant h f)
  | 0xDA#8 => some (.xsend h f)
  | 0xDB#8 => some (.xdone h f)
  | 0xDC#8 => some (.xstat h f)
  | 0xE0#8 => some (.qfwd h f)
  | 0xE1#8 => some (if f.ef.extractLsb' 0 2 = 1 then .parkSelf h f else .parkCut h f)
  | 0xE2#8 => some (.reinj h f)
  | 0xE3#8 => some (if f.ef.getLsbD 0 then .ptestCell h f else .ptestDom h f)
  | 0xE4#8 => some (if f.ef.getLsbD 0 then .wdogOff h f else .wdogSet h f)
  | _ => none

/-- The instruction of an opcode of format V (R58, R79), none for any other opcode. -/
def decodeV (op : BitVec 8) (h : Hdr) (f : FmtV) : Option Instr :=
  match op with
  | 0x88#8 => some (.vadd h f)
  | 0x89#8 => some (.vsub h f)
  | 0x8A#8 => some (.vmul h f)
  | 0x8B#8 => some (.vfma h f)
  | 0x8C#8 => some (.vfms h f)
  | 0x8D#8 => some (.vdiv h f)
  | 0x8E#8 => some (.vsqrt h f)
  | 0x8F#8 => some (.vrcp h f)
  | 0x90#8 => some (.vexp2 h f)
  | 0x91#8 => some (.vsig h f)
  | 0x92#8 => some (.vmin h f)
  | 0x93#8 => some (.vmax h f)
  | 0x94#8 => some (.vabs h f)
  | 0x95#8 => some (.vneg h f)
  | 0x96#8 => some (.vcmp h f)
  | 0x97#8 => some (.vsel h f)
  | 0x98#8 => some (.vand h f)
  | 0x99#8 => some (.vor h f)
  | 0x9A#8 => some (.vxor h f)
  | 0x9B#8 => some (.vshl h f)
  | 0x9C#8 => some (.vshr h f)
  | 0x9D#8 => some (.vsra h f)
  | 0x9E#8 => some (.vcvt h f)
  | 0x9F#8 => some (.vsdc h f)
  | 0xA0#8 => some (.vsde h f)
  | 0xA1#8 => some (.vsdd h f)
  | 0xA2#8 => some (.vldl h f)
  | 0xA3#8 => some (.vstl h f)
  | 0xA4#8 => some (.vgath h f)
  | 0xA5#8 => some (.vscat h f)
  | 0xA6#8 => some (.vbcast h f)
  | 0xA7#8 => some (.vext h f)
  | 0xA8#8 => some (.vred h f)
  | 0xA9#8 => some (.vscan h f)
  | 0xAA#8 => some (.vperm h f)
  | 0xAB#8 => some (if f.fn = 1 then .viotaCnt h f else .viota h f)
  | 0xAC#8 => some (.vsetl h f)
  | 0xAD#8 => some (if f.fn = 5 then .vmovpRd h f else if f.fn = 6 then .vmovpWr h f else .vmovp h f)
  | 0xAE#8 => some (.vpopq h f)
  | 0xAF#8 => some (.vpushq h f)
  | _ => none

/-- The instruction of a 64-bit word: every word has one (R79). -/
def decodeWord (w : Word) : Instr :=
  let op := w.extractLsb' 56 8
  let h := Hdr.ofWord w
  (decodeR op h (FmtR.ofWord w) <|> decodeI op h (FmtI.ofWord w) <|> decodeM op h (FmtM.ofWord w) <|>
    decodeB op h (FmtB.ofWord w) <|> decodeX op h (FmtX.ofWord w) <|> decodeV op h (FmtV.ofWord w)).getD
    (.unassignedOpcode w)

/-- Why a list of bytes is no instruction. -/
inductive DecodeError where
  | tooShort
  deriving DecidableEq, Repr

/-- The 64-bit word of eight bytes, byte 0 lowest (R4). -/
def wordOfBytes (b0 b1 b2 b3 b4 b5 b6 b7 : Byte) : Word :=
  b7 ++ b6 ++ b5 ++ b4 ++ b3 ++ b2 ++ b1 ++ b0

/-- The instruction at the head of a list of bytes and the rest of the list. -/
def decodeBytes : List Byte → Except DecodeError (Instr × List Byte)
  | b0 :: b1 :: b2 :: b3 :: b4 :: b5 :: b6 :: b7 :: rest =>
    .ok (decodeWord (wordOfBytes b0 b1 b2 b3 b4 b5 b6 b7), rest)
  | _ => .error .tooShort

/-- The configuration command of a first word and the two words that follow it (R43), for a master and issuer whose
current space is `space3 = true` when it is space 3 (R46): the words a command does not have are not read. An
ill-formed or reserved first word becomes `cfgReservedCommand` (R44). -/
def decodeCommand (m : Master) (space3 : Bool) (w w1 w2 : BitVec 32) : Instr :=
  let off := w.extractLsb' 18 10
  let fld := w.extractLsb' 12 6
  match w.extractLsb' 28 4 with
  | 0x0#4 =>
    if space3 = true ∧ fld = 0 then .mark m off (w.extractLsb' 0 12)
    else if space3 = true ∧ fld = 1 then .clrerr m off (w.extractLsb' 0 12)
    else .write m off fld (w.extractLsb' 0 12)
  | 0x1#4 => if w.extractLsb' 0 7 = 0 then .base m (w.extractLsb' 25 3) (w.extractLsb' 7 18) else .cfgReservedCommand m w
  | 0x2#4 => if w.extractLsb' 0 12 = 0 then .wide m off fld w1 else .cfgReservedCommand m w
  | 0x3#4 => if w.extractLsb' 11 7 = 0 then .istore m off (w.extractLsb' 0 11) (w2 ++ w1) else .cfgReservedCommand m w
  | 0x4#4 => if w.extractLsb' 14 4 = 0 then .lstore m off (w.extractLsb' 0 14) (w2 ++ w1) else .cfgReservedCommand m w
  | 0xF#4 => if w.extractLsb' 0 18 = 0 then .start m off else .cfgReservedCommand m w
  | _ => .cfgReservedCommand m w

/-- The TAP instruction of an instruction-register code (R494); the data shifted in is zero here. -/
def decodeTap (ir : BitVec 8) : Option Instr :=
  match ir with
  | 0x00#8 => some .extest
  | 0x01#8 => some .idcode
  | 0x02#8 => some .samplePreload
  | 0x10#8 => some (.mdlsel 0)
  | 0x11#8 => some .mdlread
  | 0x12#8 => some (.mdllanes false)
  | 0x13#8 => some .mdlresume
  | 0xFF#8 => some .bypass
  | _ => none

/-- The master that `decodeTableWord` takes for a configuration command: row 0, issued by the loader. -/
def tableMaster : Master := ⟨0, 0⟩

/-- The operation of a table word of nbits bits: 64 bits are a cell's instruction word, 32 bits the first word of a
configuration command (its other words zero, its space not 3), 8 bits a code of the TAP's instruction register. No
other operation of the table has a word. -/
def decodeTableWord (nbits w : Nat) : Option Instr :=
  if nbits = 64 then some (decodeWord (BitVec.ofNat 64 w))
  else if nbits = 32 then some (decodeCommand tableMaster false (BitVec.ofNat 32 w) 0 0)
  else if nbits = 8 then decodeTap (BitVec.ofNat 8 w)
  else none

/-! ### The encoder -/

/-- Bits [63:44] of a word: opcode and header (R56). -/
def encodeHdr (op : BitVec 8) (h : Hdr) : BitVec 20 := op ++ h.wm ++ BitVec.ofBool h.ee ++ h.es

/-- A word of format R (R57). -/
def encodeR (op : BitVec 8) (h : Hdr) (f : FmtR) : Word :=
  encodeHdr op h ++ f.d ++ f.a ++ f.b ++ f.c ++ f.sa ++ f.sb ++ f.sc ++ f.ty ++ f.rm ++ BitVec.ofBool f.sat ++ f.fn

/-- A word of format I (R57). -/
def encodeI (op : BitVec 8) (h : Hdr) (f : FmtI) : Word := encodeHdr op h ++ f.d ++ f.a ++ f.sa ++ f.imm

/-- A word of format M (R57). -/
def encodeM (op : BitVec 8) (h : Hdr) (f : FmtM) : Word :=
  encodeHdr op h ++ f.d ++ f.a ++ f.b ++ f.sa ++ f.sb ++ f.sz ++ BitVec.ofBool f.sx ++ f.scope ++ f.disp

/-- A word of format B (R57). -/
def encodeB (op : BitVec 8) (h : Hdr) (f : FmtB) : Word := encodeHdr op h ++ f.d ++ f.a ++ f.sa ++ f.off

/-- A word of format X (R57). -/
def encodeX (op : BitVec 8) (h : Hdr) (f : FmtX) : Word := encodeHdr op h ++ f.d ++ f.a ++ f.b ++ f.c ++ f.ef

/-- A word of format V (R57). -/
def encodeV (op : BitVec 8) (h : Hdr) (f : FmtV) : Word :=
  encodeHdr op h ++ f.d ++ f.a ++ f.b ++ f.c ++ f.p ++ BitVec.ofBool f.pz ++ f.z ++ f.ty ++ f.rm ++
    BitVec.ofBool f.sat ++ f.fn

/-- The word of a cell's instruction, none for an operation of another agent. -/
def encode (i : Instr) : Option Word :=
  match i with
  | .write _ _ _ _ => none
  | .base _ _ _ => none
  | .wide _ _ _ _ => none
  | .start _ _ => none
  | .istore _ _ _ _ => none
  | .lstore _ _ _ _ => none
  | .cfgReservedCommand _ _ => none
  | .mark _ _ _ => none
  | .clrerr _ _ _ => none
  | .loadStart _ => none
  | .loadMark _ => none
  | .phaseReturn _ => none
  | .borrowRequest _ => none
  | .borrowGrantDeferred _ => none
  | .taskDispatch _ => none
  | .priorityAging _ => none
  | .taskWake _ => none
  | .watchdogSleepLimit _ => none
  | .istoreFetchError _ => none
  | .unassignedOpcode w => some w
  | .nop h f => some (encodeR 0x00 h f)
  | .add h f => some (encodeR 0x01 h f)
  | .sub h f => some (encodeR 0x02 h f)
  | .adds h f => some (encodeR 0x03 h f)
  | .mul h f => some (encodeR 0x04 h f)
  | .mulh h f => some (encodeR 0x05 h f)
  | .mulhn h f => some (encodeR 0x06 h f)
  | .div h f => some (encodeR 0x07 h f)
  | .divn h f => some (encodeR 0x08 h f)
  | .rem h f => some (encodeR 0x09 h f)
  | .remn h f => some (encodeR 0x0A h f)
  | .andR h f => some (encodeR 0x0B h f)
  | .orR h f => some (encodeR 0x0C h f)
  | .xorR h f => some (encodeR 0x0D h f)
  | .shl h f => some (encodeR 0x0E h f)
  | .shr h f => some (encodeR 0x0F h f)
  | .sra h f => some (encodeR 0x10 h f)
  | .rotl h f => some (encodeR 0x11 h f)
  | .clz h f => some (encodeR 0x12 h f)
  | .popc h f => some (encodeR 0x13 h f)
  | .min h f => some (encodeR 0x14 h f)
  | .max h f => some (encodeR 0x15 h f)
  | .minn h f => some (encodeR 0x16 h f)
  | .maxn h f => some (encodeR 0x17 h f)
  | .ceq h f => some (encodeR 0x18 h f)
  | .clt h f => some (encodeR 0x19 h f)
  | .cltn h f => some (encodeR 0x1A h f)
  | .sel h f => some (encodeR 0x1B h f)
  | .modw h f => some (encodeR 0x26 h f)
  | .addi h f => some (encodeI 0x1C h f)
  | .andi h f => some (encodeI 0x1D h f)
  | .ori h f => some (encodeI 0x1E h f)
  | .xori h f => some (encodeI 0x1F h f)
  | .shli h f => some (encodeI 0x20 h f)
  | .shri h f => some (encodeI 0x21 h f)
  | .srai h f => some (encodeI 0x22 h f)
  | .movi h f => some (encodeI 0x23 h f)
  | .movhi h f => some (encodeI 0x24 h f)
  | .lea h f => some (encodeM 0x25 h f)
  | .br h f => some (encodeB 0x27 h f)
  | .bz h f => some (encodeB 0x28 h f)
  | .bnz h f => some (encodeB 0x29 h f)
  | .blz h f => some (encodeB 0x2A h f)
  | .bgez h f => some (encodeB 0x2B h f)
  | .call h f => some (encodeB 0x2C h f)
  | .ret h f => some (encodeR 0x2D h f)
  | .loopn h f => some (encodeB 0x2E h f)
  | .ldl h f => some (encodeM 0x2F h f)
  | .stl h f => some (encodeM 0x30 h f)
  | .svc h f => some (encodeI 0x31 h f)
  | .svcReply _ _ => none
  | .trap h f => some (encodeI 0x32 h f)
  | .brk h f => some (encodeI 0x35 h f)
  | .rettRetry h f => some (encodeR 0x33 h f)
  | .rettNext h f => some (encodeR 0x33 h f)
  | .rettRedo h f => some (encodeR 0x33 h f)
  | .rettEnd h f => some (encodeR 0x33 h f)
  | .done h f => some (encodeR 0x34 h f)
  | .rdsys h f => some (encodeI 0x36 h f)
  | .wrsys h f => some (encodeI 0x37 h f)
  | .pop h f => some (encodeX 0x40 h f)
  | .peek h f => some (encodeX 0x41 h f)
  | .push h f => some (encodeX 0x42 h f)
  | .pushl h f => some (encodeX 0x43 h f)
  | .popl h f => some (encodeX 0x44 h f)
  | .qlen h f => some (encodeX 0x45 h f)
  | .qroom h f => some (encodeX 0x46 h f)
  | .qseq h f => some (encodeX 0x4C h f)
  | .qbind h f => some (encodeX 0x47 h f)
  | .qtagOut h f => some (encodeX 0x48 h f)
  | .qtagIn h f => some (encodeX 0x48 h f)
  | .qstk h f => some (encodeX 0x49 h f)
  | .qskip h f => some (encodeX 0x4A h f)
  | .qwaitn h f => some (encodeX 0x55 h f)
  | .qdiv h f => some (encodeX 0x4B h f)
  | .qsleep h f => some (encodeX 0x4D h f)
  | .qmark h f => some (encodeX 0x4E h f)
  | .qflush h f => some (encodeX 0x4F h f)
  | .ccfgLim h f => some (encodeX 0x50 h f)
  | .ccfgMode h f => some (encodeX 0x50 h f)
  | .cstart h f => some (encodeX 0x51 h f)
  | .cstop h f => some (encodeX 0x52 h f)
  | .cread h f => some (encodeX 0x53 h f)
  | .rngrd h f => some (encodeX 0x54 h f)
  | .counterChainEmit _ => none
  | .queueMessageArrival _ => none
  | .queueMessageStoreDeferred _ _ => none
  | .quiesceArrival _ => none
  | .wordAck _ => none
  | .wordNack _ => none
  | .suspendedResend _ => none
  | .laggardTimeout _ _ => none
  | .cpy h f => some (encodeX 0x60 h f)
  | .cpys h f => some (encodeX 0x61 h f)
  | .cpyg h f => some (encodeX 0x62 h f)
  | .cpyd h f => some (encodeX 0x63 h f)
  | .copyStart _ => none
  | .copyCompletion _ _ => none
  | .eagcfgW h f => some (encodeX 0x64 h f)
  | .eagcfgR h f => some (encodeX 0x64 h f)
  | .eaggoStart h f => some (encodeX 0x65 h f)
  | .eaggoResume h f => some (encodeX 0x65 h f)
  | .eaggoStop h f => some (encodeX 0x65 h f)
  | .eagElementCommit _ => none
  | .sinc h f => some (encodeX 0x66 h f)
  | .sset h f => some (encodeX 0x67 h f)
  | .srd h f => some (encodeX 0x68 h f)
  | .swait h f => some (encodeX 0x69 h f)
  | .swaitd h f => some (encodeX 0x6A h f)
  | .ldg h f => some (encodeM 0x70 h f)
  | .stg h f => some (encodeM 0x71 h f)
  | .ldf h f => some (encodeM 0x72 h f)
  | .stf h f => some (encodeM 0x73 h f)
  | .clrf h f => some (encodeM 0x74 h f)
  | .ald h f => some (encodeM 0x75 h f)
  | .aadd h f => some (encodeX 0x76 h f)
  | .afadd h f => some (encodeX 0x77 h f)
  | .amin h f => some (encodeX 0x78 h f)
  | .amax h f => some (encodeX 0x79 h f)
  | .axchg h f => some (encodeX 0x7A h f)
  | .acas h f => some (encodeX 0x7B h f)
  | .aor h f => some (encodeX 0x7C h f)
  | .aand h f => some (encodeX 0x7D h f)
  | .fence h f => some (encodeM 0x7E h f)
  | .tileRead _ _ => none
  | .tileWrite _ => none
  | .tileFill _ _ => none
  | .tileClrf _ _ => none
  | .tileAtomic _ _ => none
  | .deferredReadRetry _ _ => none
  | .accessReply _ _ => none
  | .combineFlushTimeout _ => none
  | .parityRebuildDone _ => none
  | .backgroundScrub _ _ => none
  | .translationMissRequest _ => none
  | .translationFill _ => none
  | .translationInvalidate _ _ _ _ => none
  | .invalidateAck _ => none
  | .hostMemRequest _ _ => none
  | .ownershipToHost _ => none
  | .backInvalidateComplete _ _ => none
  | .ownerHoldExpiry _ => none
  | .evarr h f => some (encodeX 0x80 h f)
  | .evwaitB h f => some (encodeX 0x81 h f)
  | .evwaitE h f => some (encodeX 0x81 h f)
  | .evsig h f => some (encodeX 0x82 h f)
  | .evlock h f => some (encodeX 0x83 h f)
  | .evunlk h f => some (encodeX 0x84 h f)
  | .evcmb h f => some (encodeX 0x85 h f)
  | .eventApply _ => none
  | .eventUpMessage _ => none
  | .eventDownMessage _ => none
  | .eventParentFire _ => none
  | .vadd h f => some (encodeV 0x88 h f)
  | .vsub h f => some (encodeV 0x89 h f)
  | .vmul h f => some (encodeV 0x8A h f)
  | .vfma h f => some (encodeV 0x8B h f)
  | .vfms h f => some (encodeV 0x8C h f)
  | .vdiv h f => some (encodeV 0x8D h f)
  | .vsqrt h f => some (encodeV 0x8E h f)
  | .vrcp h f => some (encodeV 0x8F h f)
  | .vexp2 h f => some (encodeV 0x90 h f)
  | .vsig h f => some (encodeV 0x91 h f)
  | .vmin h f => some (encodeV 0x92 h f)
  | .vmax h f => some (encodeV 0x93 h f)
  | .vabs h f => some (encodeV 0x94 h f)
  | .vneg h f => some (encodeV 0x95 h f)
  | .vcmp h f => some (encodeV 0x96 h f)
  | .vsel h f => some (encodeV 0x97 h f)
  | .vand h f => some (encodeV 0x98 h f)
  | .vor h f => some (encodeV 0x99 h f)
  | .vxor h f => some (encodeV 0x9A h f)
  | .vshl h f => some (encodeV 0x9B h f)
  | .vshr h f => some (encodeV 0x9C h f)
  | .vsra h f => some (encodeV 0x9D h f)
  | .vcvt h f => some (encodeV 0x9E h f)
  | .vsdc h f => some (encodeV 0x9F h f)
  | .vsde h f => some (encodeV 0xA0 h f)
  | .vsdd h f => some (encodeV 0xA1 h f)
  | .vldl h f => some (encodeV 0xA2 h f)
  | .vstl h f => some (encodeV 0xA3 h f)
  | .vgath h f => some (encodeV 0xA4 h f)
  | .vscat h f => some (encodeV 0xA5 h f)
  | .vbcast h f => some (encodeV 0xA6 h f)
  | .vext h f => some (encodeV 0xA7 h f)
  | .vred h f => some (encodeV 0xA8 h f)
  | .vscan h f => some (encodeV 0xA9 h f)
  | .vperm h f => some (encodeV 0xAA h f)
  | .viota h f => some (encodeV 0xAB h f)
  | .viotaCnt h f => some (encodeV 0xAB h f)
  | .vsetl h f => some (encodeV 0xAC h f)
  | .vmovp h f => some (encodeV 0xAD h f)
  | .vmovpRd h f => some (encodeV 0xAD h f)
  | .vmovpWr h f => some (encodeV 0xAD h f)
  | .vpopq h f => some (encodeV 0xAE h f)
  | .vpushq h f => some (encodeV 0xAF h f)
  | .vectorPortStart _ => none
  | .vectorCompletion _ _ => none
  | .pori2 h f => some (encodeX 0xC0 h f)
  | .pori3 h f => some (encodeX 0xC1 h f)
  | .pinci h f => some (encodeX 0xC2 h f)
  | .pinsp h f => some (encodeX 0xC3 h f)
  | .psegx h f => some (encodeX 0xC4 h f)
  | .pstat h f => some (encodeX 0xC5 h f)
  | .predicateReadPhase _ => none
  | .predicateHandoff _ _ => none
  | .stageBSettle _ _ _ => none
  | .stageCBurstStart _ => none
  | .stageCLaneSettle _ _ => none
  | .predicateCompletion _ _ => none
  | .mgang h f => some (encodeX 0xC8 h f)
  | .mread h f => some (encodeX 0xC9 h f)
  | .mclr h f => some (encodeX 0xCA h f)
  | .mscl h f => some (encodeX 0xCB h f)
  | .msclRd h f => some (encodeX 0xCB h f)
  | .mstat h f => some (encodeX 0xCC h f)
  | .mfill h f => some (encodeX 0xCD h f)
  | .mcut h f => some (encodeX 0xCE h f)
  | .mcutOff h f => some (encodeX 0xCE h f)
  | .mswap h f => some (encodeX 0xCF h f)
  | .mleaveRsv h f => some (encodeX 0xD0 h f)
  | .mleaveRel h f => some (encodeX 0xD0 h f)
  | .msync h f => some (encodeX 0xD1 h f)
  | .groupFormation _ => none
  | .gangLeaveRequest _ => none
  | .gangStart _ => none
  | .gangCompletion _ _ _ => none
  | .matrixTransferComplete _ _ => none
  | .xpost h f => some (encodeX 0xD8 h f)
  | .xgrant h f => some (encodeX 0xD9 h f)
  | .xsend h f => some (encodeX 0xDA h f)
  | .xdone h f => some (encodeX 0xDB h f)
  | .xstat h f => some (encodeX 0xDC h f)
  | .xaPostArrival _ _ => none
  | .xpostAck _ _ => none
  | .roundDeadline _ => none
  | .calendarWrite _ _ => none
  | .exchangePhaseStart _ => none
  | .exchangePairEnd _ _ => none
  | .xdoneComplete _ _ => none
  | .xaHeartbeat _ => none
  | .xaStandbyTakeover _ => none
  | .linkTrain _ _ _ => none
  | .flitReceive _ _ => none
  | .linkReplayRequest _ _ => none
  | .packetDelivery _ _ _ => none
  | .packetAck _ _ => none
  | .routeSwitch _ _ => none
  | .routeTableWrite _ _ => none
  | .qfwd h f => some (encodeX 0xE0 h f)
  | .parkCut h f => some (encodeX 0xE1 h f)
  | .parkSelf h f => some (encodeX 0xE1 h f)
  | .cutParkComplete _ => none
  | .reinj h f => some (encodeX 0xE2 h f)
  | .ptestDom h f => some (encodeX 0xE3 h f)
  | .ptestCell h f => some (encodeX 0xE3 h f)
  | .wdogSet h f => some (encodeX 0xE4 h f)
  | .wdogOff h f => some (encodeX 0xE4 h f)
  | .rmWatchdogExpiry _ => none
  | .cctlPark _ => none
  | .rmParkEffect _ => none
  | .cctlResume _ _ => none
  | .cctlAbort _ => none
  | .oraReattach _ _ _ => none
  | .rmWindowWrite _ _ _ => none
  | .faultQueuePop _ => none
  | .mtstatReadClear _ => none
  | .sinkReplay _ => none
  | .sharedControlError _ => none
  | .heartbeatTick _ => none
  | .rowManagerTakeover _ _ => none
  | .gateForward _ => none
  | .serviceBadFunc _ => none
  | .alloc _ _ => none
  | .free _ => none
  | .avail _ => none
  | .prot _ => none
  | .migrate _ _ => none
  | .entry _ => none
  | .load _ _ _ => none
  | .wait _ => none
  | .cut _ _ => none
  | .resume _ _ => none
  | .kill _ => none
  | .replace _ _ _ _ => none
  | .fwmin _ => none
  | .attest _ => none
  | .portstat _ => none
  | .topo _ => none
  | .routes _ => none
  | .logWrite _ => none
  | .logFlush _ => none
  | .hostDoorbell _ _ _ _ => none
  | .doorbellPush _ _ => none
  | .iqStatClear _ _ _ => none
  | .hostRingWrite _ _ _ => none
  | .hostBarWrite _ _ _ _ => none
  | .hostPortTrain _ _ => none
  | .freezePin => none
  | .mdlctlFreeze _ => none
  | .freezeStop => none
  | .frozenNotice _ => none
  | .thawedNotice _ => none
  | .extest => none
  | .idcode => none
  | .samplePreload => none
  | .mdlsel _ => none
  | .mdlread => none
  | .mdllanes _ => none
  | .mdlresume => none
  | .bypass => none
  | .pcSample _ => none
  | .traceTime _ => none
  | .leaveGrant _ => none
  | .entdaa _ => none
  | .pcapWrite _ => none
  | .fwin _ => none
  | .fwgo _ => none
  | .thermalThrottleTick _ => none
  | .powerOn _ => none
  | .taggedStructureError _ => none
  | .lossOfLink _ _ => none
  | .eagcfgReadReply _ => none
  | .ptestReply _ => none
  | .powerFailure => none
  | .inServiceRepair _ => none

/-- The operation is an instruction that a cell fetches. -/
def Instr.isCell (i : Instr) : Bool := (encode i).isSome

/-- The words of a configuration command (R43), as `decodeCommand` takes them: whether the current space is space 3, the first
word, and the two that may follow it, 0 where the command has none. None for any other operation. -/
def encodeCommand (i : Instr) : Option (Bool × BitVec 32 × BitVec 32 × BitVec 32) :=
  match i with
  | .write _ off fld v => some (false, 0x0#4 ++ off ++ fld ++ v, 0, 0)
  | .mark _ off v => some (true, 0x0#4 ++ off ++ 0#6 ++ v, 0, 0)
  | .clrerr _ off v => some (true, 0x0#4 ++ off ++ 1#6 ++ v, 0, 0)
  | .base _ sp el => some (false, 0x1#4 ++ sp ++ el ++ 0#7, 0, 0)
  | .wide _ off fld v => some (false, 0x2#4 ++ off ++ fld ++ 0#12, v, 0)
  | .istore _ off ix w => some (false, 0x3#4 ++ off ++ 0#7 ++ ix, w.extractLsb' 0 32, w.extractLsb' 32 32)
  | .lstore _ off n w => some (false, 0x4#4 ++ off ++ 0#4 ++ n, w.extractLsb' 0 32, w.extractLsb' 32 32)
  | .start _ off => some (false, 0xF#4 ++ off ++ 0#18, 0, 0)
  | .cfgReservedCommand _ w => some (false, w, 0, 0)
  | _ => none

end Sys2Proof
end

