-- ==== Sys2Proof/WellFormed.lean ====
section
/-! DEFINITION. The encodings that an instruction must respect (R73, and each instruction's own encoding table): an
instruction that breaks them raises ILLOP at issue. For an operation of another agent, the ranges of the numbers that
name its unit. -/

namespace Sys2Proof

open Sys2Proof.Machine

/-- EE = 0 requires ES = 0 (R56, R73). -/
def Hdr.ok (h : Hdr) : Bool := h.ee || h.es = 0

/-- A field that names a g register (R60). -/
def isG (x : BitVec 6) : Bool := decide (x.toNat ≤ 55)

/-- A sticky count is nonzero only on a field that names a q port (R73). -/
def stick (x : BitVec 6) (n : BitVec 3) : Bool := n = 0 || !isG x

/-- The bits of EF20 from bit n up are zero. -/
def top (ef : BitVec 20) (n : Nat) : Bool := decide (ef.toNat < 2 ^ n)

/-- TY, RM and SAT are zero (R185). -/
def FmtR.attrs (f : FmtR) : Bool := f.ty = 0 && f.rm = 0 && !f.sat
/-- TY, RM, SAT and FN are zero (R185). -/
def FmtR.plain (f : FmtR) : Bool := f.attrs && f.fn = 0
/-- The sticky counts are legal, and C and SC are zero unless the syntax names c. -/
def FmtR.shape (f : FmtR) (c : Bool) : Bool :=
  stick f.a f.sa && stick f.b f.sb && (if c then stick f.c f.sc else f.c = 0 && f.sc = 0)
/-- Every operand field and attribute except FN is zero. -/
def FmtR.zero (f : FmtR) : Bool :=
  f.d = 0 && f.a = 0 && f.b = 0 && f.c = 0 && f.sa = 0 && f.sb = 0 && f.sc = 0 && f.attrs
/-- The sticky counts of base and index are legal. -/
def FmtM.idx (f : FmtM) : Bool := stick f.a f.sa && stick f.b f.sb
/-- D, A, B and C are zero. -/
def FmtX.zero (f : FmtX) : Bool := f.d = 0 && f.a = 0 && f.b = 0 && f.c = 0
/-- A system-register number of R171, with the bits above it zero (R201). -/
def sysNumber (imm : BitVec 29) : Bool := decide (imm.toNat ≤ 17) || (decide (32 ≤ imm.toNat) && decide (imm.toNat ≤ 41))
/-- EF20 of an atomic: bits [19:8] and [1:0] zero, SZ 2 or 3 (R286). -/
def atomEf (ef : BitVec 20) : Bool := top ef 8 && field ef 0 2 = 0 && bit ef 3

/-! Roles and types of the vector instructions (R67, R308, R318) -/

/-- Role V: a vector register, or a g register. -/
def roleV (x : BitVec 6) : Bool := decide (x.toNat ≤ 15) || decide (32 ≤ x.toNat)
/-- Role v: a vector register. -/
def rolev (x : BitVec 6) : Bool := decide (x.toNat ≤ 15)
/-- Role g: g0 to g31. -/
def roleg (x : BitVec 6) : Bool := decide (32 ≤ x.toNat)
/-- Role p: a mask register; also the port number. -/
def rolep (x : BitVec 6) : Bool := decide (x.toNat ≤ 7)
def tInt (t : BitVec 4) : Bool := decide (t.toNat ≤ 7)
def tFlt (t : BitVec 4) : Bool := decide (8 ≤ t.toNat) && decide (t.toNat ≤ 11)
def tArith (t : BitVec 4) : Bool := tInt t || tFlt t
def tAny (t : BitVec 4) : Bool := decide (t.toNat ≤ 13)
def tW32 (t : BitVec 4) : Bool := t = 2 || t = 3 || t = 6 || t = 7 || t = 10 || t = 11
def tIota (t : BitVec 4) : Bool := t = 2 || t = 3 || t = 6 || t = 7
/-- What a column of R318 accepts: nothing but 0, anything, on float types, on integer types. -/
inductive Col where
  | no | yes | flt | int
  deriving DecidableEq, Repr
def Col.admits (k : Col) (t : BitVec 4) : Bool :=
  match k with
  | .no => false
  | .yes => true
  | .flt => tFlt t
  | .int => tInt t
/-- The attributes of a format-V instruction: z zero, the mask fields (PZ needs P, R72), RM (7 is never legal, R68), SAT
and FN. -/
def FmtV.attrs (f : FmtV) (mask : Bool) (rm sat : Col) (fnMax : Nat) : Bool :=
  f.z = 0 && (if mask then !f.pz || f.p ≠ 0 else f.p = 0 && !f.pz) &&
  (f.rm = 0 || (rm.admits f.ty && f.rm ≠ 7)) && (!f.sat || sat.admits f.ty) && decide (f.fn.toNat ≤ fnMax)
/-- The encoding rules of the predicates (R362). -/
def predOk (f : FmtX) : Bool :=
  rolev f.d && isG f.a && isG f.b && rolep f.c && top f.ef 12 && field f.ef 10 2 ≤ 1 && field f.ef 0 3 = 0 &&
  (if field f.ef 10 2 = 0 then field f.ef 4 3 = 0 else field f.ef 4 3 ≠ f.c.toNat) &&
  (!bit f.ef 3 || field f.ef 7 3 ≠ 0)

/-- The word of an opcode that R79 does not assign. -/
def unassigned : Instr → Bool
  | .unassignedOpcode _ => true
  | _ => false

/-- The encoding rules of each instruction. -/
def Instr.wf (i : Instr) : Bool :=
  match i with
  | .write m _ _ _ => decide (m.row < 512) && decide (m.issuer ≤ 512)
  | .base m _ _ => decide (m.row < 512) && decide (m.issuer ≤ 512)
  | .wide m _ _ _ => decide (m.row < 512) && decide (m.issuer ≤ 512)
  | .start m _ => decide (m.row < 512) && decide (m.issuer ≤ 512)
  | .istore m _ _ _ => decide (m.row < 512) && decide (m.issuer ≤ 512)
  | .lstore m _ _ _ => decide (m.row < 512) && decide (m.issuer ≤ 512)
  | .cfgReservedCommand m _ => decide (m.row < 512) && decide (m.issuer ≤ 512)
  | .mark m _ _ => decide (m.row < 512) && decide (m.issuer ≤ 512)
  | .clrerr m _ _ => decide (m.row < 512) && decide (m.issuer ≤ 512)
  | .loadStart _ => true
  | .loadMark _ => true
  | .phaseReturn cell => decide (cell < 262144)
  | .borrowRequest cell => decide (cell < 262144)
  | .borrowGrantDeferred root => decide (root < 262144)
  | .taskDispatch cell => decide (cell < 262144)
  | .priorityAging cell => decide (cell < 262144)
  | .taskWake cell => decide (cell < 262144)
  | .watchdogSleepLimit cell => decide (cell < 262144)
  | .istoreFetchError cell => decide (cell < 262144)
  | .unassignedOpcode w => unassigned (decodeWord w)
  | .nop h f => h.ok && f.zero && f.fn = 0
  | .add h f => h.ok && f.shape false && f.plain
  | .sub h f => h.ok && f.shape false && f.plain
  | .adds h f => h.ok && f.shape false && f.attrs && f.fn.toNat ≤ 3
  | .mul h f => h.ok && f.shape false && f.plain
  | .mulh h f => h.ok && f.shape false && f.plain
  | .mulhn h f => h.ok && f.shape false && f.plain
  | .div h f => h.ok && f.shape false && f.plain
  | .divn h f => h.ok && f.shape false && f.plain
  | .rem h f => h.ok && f.shape false && f.plain
  | .remn h f => h.ok && f.shape false && f.plain
  | .andR h f => h.ok && f.shape false && f.plain
  | .orR h f => h.ok && f.shape false && f.plain
  | .xorR h f => h.ok && f.shape false && f.plain
  | .shl h f => h.ok && f.shape false && f.plain
  | .shr h f => h.ok && f.shape false && f.plain
  | .sra h f => h.ok && f.shape false && f.plain
  | .rotl h f => h.ok && f.shape false && f.plain
  | .clz h f => h.ok && f.shape false && f.plain && f.b = 0 && f.sb = 0
  | .popc h f => h.ok && f.shape false && f.plain && f.b = 0 && f.sb = 0
  | .min h f => h.ok && f.shape false && f.plain
  | .max h f => h.ok && f.shape false && f.plain
  | .minn h f => h.ok && f.shape false && f.plain
  | .maxn h f => h.ok && f.shape false && f.plain
  | .ceq h f => h.ok && f.shape false && f.plain
  | .clt h f => h.ok && f.shape false && f.plain
  | .cltn h f => h.ok && f.shape false && f.plain
  | .sel h f => h.ok && f.shape true && f.plain
  | .modw h f => h.ok && f.shape true && f.plain
  | .addi h f => h.ok && stick f.a f.sa
  | .andi h f => h.ok && stick f.a f.sa
  | .ori h f => h.ok && stick f.a f.sa
  | .xori h f => h.ok && stick f.a f.sa
  | .shli h f => h.ok && stick f.a f.sa && f.imm.extractLsb' 6 23 = 0
  | .shri h f => h.ok && stick f.a f.sa && f.imm.extractLsb' 6 23 = 0
  | .srai h f => h.ok && stick f.a f.sa && f.imm.extractLsb' 6 23 = 0
  | .movi h f => h.ok && f.a = 0 && f.sa = 0
  | .movhi h f => h.ok && stick f.a f.sa
  | .lea h f => h.ok && f.idx && !f.sx && f.scope = 0
  | .br h f => h.ok && f.d = 0 && stick f.a f.sa
  | .bz h f => h.ok && f.d = 0 && stick f.a f.sa
  | .bnz h f => h.ok && f.d = 0 && stick f.a f.sa
  | .blz h f => h.ok && f.d = 0 && stick f.a f.sa
  | .bgez h f => h.ok && f.d = 0 && stick f.a f.sa
  | .call h f => h.ok && f.d ≠ 0 && isG f.d && stick f.a f.sa
  | .ret h f => h.ok && f.d = 0 && f.b = 0 && f.sb = 0 && f.shape false && f.plain
  | .loopn h f => h.ok && f.d = 0 && isG f.a && f.sa = 0
  | .ldl h f => h.ok && f.idx && f.scope = 0
  | .stl h f => h.ok && f.idx && !f.sx && f.scope = 0
  | .svc h f => h.ok && stick f.a f.sa && h.ee && field f.imm 24 5 ≤ 4
  | .svcReply cell _ => decide (cell < 262144)
  | .trap h f => h.ok && f.d = 0 && f.a = 0 && f.sa = 0
  | .brk h f => h.ok && f.d = 0 && f.a = 0 && f.sa = 0
  | .rettRetry h f => h.ok && f.zero && f.fn = 0
  | .rettNext h f => h.ok && f.zero && f.fn = 1
  | .rettRedo h f => h.ok && f.zero && f.fn = 2
  | .rettEnd h f => h.ok && f.zero && f.fn = 3
  | .done h f => h.ok && f.zero && f.fn = 0 && !h.ee
  | .rdsys h f => h.ok && f.a = 0 && f.sa = 0 && sysNumber f.imm
  | .wrsys h f => h.ok && f.d = 0 && stick f.a f.sa && sysNumber f.imm
  | .pop h f => h.ok && f.a = 0 && isG f.b && f.c = 0 && top f.ef 3
  | .peek h f => h.ok && f.a = 0 && isG f.b && f.c = 0 && top f.ef 5
  | .push h f => h.ok && f.d = 0 && f.b = 0 && f.c = 0 && top f.ef 6
  | .pushl h f => h.ok && f.d = 0 && isG f.a && f.c = 0 && top f.ef 17 && (if bit f.ef 6 then isG f.b && field f.ef 7 10 = 0 else f.b = 0)
  | .popl h f => h.ok && isG f.d && isG f.a && isG f.b && f.c = 0 && top f.ef 13
  | .qlen h f => h.ok && isG f.d && f.a = 0 && f.b = 0 && f.c = 0 && top f.ef 3
  | .qroom h f => h.ok && isG f.d && f.a = 0 && f.b = 0 && f.c = 0 && top f.ef 3
  | .qseq h f => h.ok && isG f.d && f.a = 0 && f.b = 0 && f.c = 0 && top f.ef 3
  | .qbind h f => h.ok && f.zero && top f.ef 5
  | .qtagOut h f => h.ok && f.zero && top f.ef 12 && !bit f.ef 11 && field f.ef 6 5 = 0
  | .qtagIn h f => h.ok && f.zero && top f.ef 12 && bit f.ef 11
  | .qstk h f => h.ok && f.zero && top f.ef 19
  | .qskip h f => h.ok && f.d = 0 && isG f.a && f.b = 0 && f.c = 0 && top f.ef 3
  | .qwaitn h f => h.ok && isG f.d && isG f.a && f.b = 0 && f.c = 0 && top f.ef 3
  | .qdiv h f => h.ok && f.zero && top f.ef 3
  | .qsleep h f => h.ok && isG f.d && f.a = 0 && f.b = 0 && f.c = 0 && top f.ef 11 && field f.ef 0 3 = 0 && field f.ef 3 8 ≠ 0
  | .qmark h f => h.ok && f.zero && top f.ef 11 && field f.ef 0 3 = 0
  | .qflush h f => h.ok && f.zero && top f.ef 4
  | .ccfgLim h f => h.ok && f.d = 0 && isG f.a && f.b = 0 && f.c = 0 && top f.ef 2
  | .ccfgMode h f => h.ok && f.d = 0 && isG f.a && f.b = 0 && f.c = 0 && f.ef = 4
  | .cstart h f => h.ok && f.zero && top f.ef 1
  | .cstop h f => h.ok && f.zero && f.ef = 0
  | .cread h f => h.ok && isG f.d && f.a = 0 && f.b = 0 && f.c = 0 && top f.ef 1
  | .rngrd h f => h.ok && isG f.d && isG f.a && isG f.b && f.c = 0 && top f.ef 3
  | .counterChainEmit cell => decide (cell < 262144)
  | .queueMessageArrival _ => true
  | .queueMessageStoreDeferred cell _ => decide (cell < 262144)
  | .quiesceArrival _ => true
  | .wordAck cell => decide (cell < 262144)
  | .wordNack cell => decide (cell < 262144)
  | .suspendedResend _ => true
  | .laggardTimeout cell _ => decide (cell < 262144)
  | .cpy h f => h.ok && isG f.d && isG f.a && isG f.b && isG f.c && f.c = 0 && top f.ef 6
  | .cpys h f => h.ok && isG f.d && isG f.a && isG f.b && isG f.c && top f.ef 6
  | .cpyg h f => h.ok && isG f.d && isG f.a && isG f.b && isG f.c && f.c = 0 && top f.ef 5
  | .cpyd h f => h.ok && isG f.d && isG f.a && isG f.b && isG f.c && top f.ef 5
  | .copyStart block => decide (block < 4096)
  | .copyCompletion block _ => decide (block < 4096)
  | .eagcfgW h f => h.ok && f.d = 0 && isG f.a && f.b = 0 && f.c = 0 && top f.ef 7 && !bit f.ef 6 && field f.ef 1 5 ≤ 16
  | .eagcfgR h f => h.ok && isG f.d && f.a = 0 && f.b = 0 && f.c = 0 && top f.ef 7 && bit f.ef 6 && field f.ef 1 5 ≤ 17
  | .eaggoStart h f => h.ok && f.zero && top f.ef 1
  | .eaggoResume h f => h.ok && f.zero && top f.ef 3 && field f.ef 1 2 = 1
  | .eaggoStop h f => h.ok && f.zero && top f.ef 3 && field f.ef 1 2 = 2
  | .eagElementCommit eag => decide (eag < 256)
  | .sinc h f => h.ok && f.d = 0 && isG f.a && f.b = 0 && f.c = 0 && top f.ef 4
  | .sset h f => h.ok && f.d = 0 && isG f.a && f.b = 0 && f.c = 0 && top f.ef 4
  | .srd h f => h.ok && isG f.d && f.a = 0 && f.b = 0 && f.c = 0 && top f.ef 4
  | .swait h f => h.ok && f.d = 0 && isG f.a && f.b = 0 && f.c = 0 && top f.ef 4
  | .swaitd h f => h.ok && isG f.d && isG f.a && f.b = 0 && f.c = 0 && top f.ef 4
  | .ldg h f => h.ok && f.idx && f.scope = 0
  | .stg h f => h.ok && f.idx && !f.sx && f.scope = 0
  | .ldf h f => h.ok && f.idx && f.scope = 0
  | .stf h f => h.ok && f.idx && !f.sx && f.scope = 0 && f.sz = 3
  | .clrf h f => h.ok && f.idx && !f.sx && f.scope = 0 && f.sz = 3 && f.d = 0
  | .ald h f => h.ok && f.idx && f.scope = 0
  | .aadd h f => h.ok && f.c = 0 && atomEf f.ef && !bit f.ef 4 && field f.ef 5 3 = 0
  | .afadd h f => h.ok && f.c = 0 && atomEf f.ef && !bit f.ef 4 && field f.ef 5 3 ≠ 7
  | .amin h f => h.ok && f.c = 0 && atomEf f.ef && field f.ef 5 3 = 0
  | .amax h f => h.ok && f.c = 0 && atomEf f.ef && field f.ef 5 3 = 0
  | .axchg h f => h.ok && f.c = 0 && atomEf f.ef && !bit f.ef 4 && field f.ef 5 3 = 0
  | .acas h f => h.ok && atomEf f.ef && !bit f.ef 4 && field f.ef 5 3 = 0
  | .aor h f => h.ok && f.c = 0 && atomEf f.ef && !bit f.ef 4 && field f.ef 5 3 = 0
  | .aand h f => h.ok && f.c = 0 && atomEf f.ef && !bit f.ef 4 && field f.ef 5 3 = 0
  | .fence h f => h.ok && f.d = 0 && f.a = 0 && f.b = 0 && f.sa = 0 && f.sb = 0 && f.sz = 0 && !f.sx && f.disp = 0 && f.scope.toNat ≤ 4
  | .tileRead cell _ => decide (cell < 262144)
  | .tileWrite _ => true
  | .tileFill cell _ => decide (cell < 262144)
  | .tileClrf cell _ => decide (cell < 262144)
  | .tileAtomic cell _ => decide (cell < 262144)
  | .deferredReadRetry cell _ => decide (cell < 262144)
  | .accessReply cell _ => decide (cell < 262144)
  | .combineFlushTimeout block => decide (block < 4096)
  | .parityRebuildDone _ => true
  | .backgroundScrub _ row => decide (row < 64)
  | .translationMissRequest cell => decide (cell < 262144)
  | .translationFill _ => true
  | .translationInvalidate _ _ _ _ => true
  | .invalidateAck _ => true
  | .hostMemRequest _ _ => true
  | .ownershipToHost _ => true
  | .backInvalidateComplete _ _ => true
  | .ownerHoldExpiry _ => true
  | .evarr h f => h.ok && f.zero && top f.ef 2
  | .evwaitB h f => h.ok && f.a = 0 && f.b = 0 && f.c = 0 && top f.ef 2
  | .evwaitE h f => h.ok && f.a = 0 && f.b = 0 && f.c = 0 && top f.ef 4 && bit f.ef 3
  | .evsig h f => h.ok && f.zero && top f.ef 3
  | .evlock h f => h.ok && f.zero && top f.ef 2
  | .evunlk h f => h.ok && f.zero && top f.ef 2
  | .evcmb h f => h.ok && f.b = 0 && f.c = 0 && top f.ef 5 && field f.ef 2 3 ≤ 5
  | .eventApply strip => decide (strip < 32768)
  | .eventUpMessage strip => decide (strip < 32768)
  | .eventDownMessage strip => decide (strip < 32768)
  | .eventParentFire strip => decide (strip < 32768)
  | .vadd h f => h.ok && rolev f.d && roleV f.a && roleV f.b && f.c = 0 && tArith f.ty && f.attrs true .flt .yes 0
  | .vsub h f => h.ok && rolev f.d && roleV f.a && roleV f.b && f.c = 0 && tArith f.ty && f.attrs true .flt .yes 0
  | .vmul h f => h.ok && rolev f.d && roleV f.a && roleV f.b && f.c = 0 && tArith f.ty && f.attrs true .flt .yes 0
  | .vfma h f => h.ok && rolev f.d && roleV f.a && roleV f.b && roleV f.c && tArith f.ty && f.attrs true .flt .yes 0
  | .vfms h f => h.ok && rolev f.d && roleV f.a && roleV f.b && roleV f.c && tArith f.ty && f.attrs true .flt .yes 0
  | .vdiv h f => h.ok && rolev f.d && roleV f.a && roleV f.b && f.c = 0 && tArith f.ty && f.attrs true .flt .flt 0
  | .vsqrt h f => h.ok && rolev f.d && roleV f.a && f.b = 0 && f.c = 0 && tFlt f.ty && f.attrs true .yes .no 0
  | .vrcp h f => h.ok && rolev f.d && roleV f.a && f.b = 0 && f.c = 0 && f.ty = 10 && f.attrs true .no .no 0
  | .vexp2 h f => h.ok && rolev f.d && roleV f.a && f.b = 0 && f.c = 0 && f.ty = 10 && f.attrs true .yes .yes 0
  | .vsig h f => h.ok && rolev f.d && roleV f.a && f.b = 0 && f.c = 0 && f.ty = 10 && f.attrs true .yes .no 0
  | .vmin h f => h.ok && rolev f.d && roleV f.a && roleV f.b && f.c = 0 && tArith f.ty && f.attrs true .no .no 0
  | .vmax h f => h.ok && rolev f.d && roleV f.a && roleV f.b && f.c = 0 && tArith f.ty && f.attrs true .no .no 0
  | .vabs h f => h.ok && rolev f.d && roleV f.a && f.b = 0 && f.c = 0 && tArith f.ty && f.attrs true .no .int 0
  | .vneg h f => h.ok && rolev f.d && roleV f.a && f.b = 0 && f.c = 0 && tArith f.ty && f.attrs true .no .int 0
  | .vcmp h f => h.ok && rolep f.d && roleV f.a && roleV f.b && f.c = 0 && tW32 f.ty && f.attrs true .no .no 6 && (f.fn ≠ 6 || tFlt f.ty)
  | .vsel h f => h.ok && rolev f.d && roleV f.a && roleV f.b && rolep f.c && tAny f.ty && f.attrs true .no .no 0
  | .vand h f => h.ok && rolev f.d && roleV f.a && roleV f.b && f.c = 0 && tInt f.ty && f.attrs true .no .no 0
  | .vor h f => h.ok && rolev f.d && roleV f.a && roleV f.b && f.c = 0 && tInt f.ty && f.attrs true .no .no 0
  | .vxor h f => h.ok && rolev f.d && roleV f.a && roleV f.b && f.c = 0 && tInt f.ty && f.attrs true .no .no 0
  | .vshl h f => h.ok && rolev f.d && roleV f.a && roleV f.b && f.c = 0 && tInt f.ty && f.attrs true .no .no 0
  | .vshr h f => h.ok && rolev f.d && roleV f.a && roleV f.b && f.c = 0 && tInt f.ty && f.attrs true .no .no 0
  | .vsra h f => h.ok && rolev f.d && roleV f.a && roleV f.b && f.c = 0 && tInt f.ty && f.attrs true .no .no 0
  | .vcvt h f => h.ok && rolev f.d && roleV f.a && f.b = 0 && tAny f.ty && f.attrs true .yes .yes 0 && decide (f.c.toNat ≤ 13)
  | .vsdc h f => h.ok && rolev f.d && roleg f.a && roleg f.b && f.c = 0 && f.ty = 14 && f.attrs true .no .no 0
  | .vsde h f => h.ok && f.d = 0 && rolev f.a && roleg f.b && roleg f.c && tFlt f.ty && f.attrs true .yes .yes 0
  | .vsdd h f => h.ok && rolev f.d && roleg f.a && roleg f.b && f.c = 0 && tFlt f.ty && f.attrs true .yes .yes 0
  | .vldl h f => h.ok && rolev f.d && roleg f.a && roleg f.b && f.c = 0 && tAny f.ty && f.attrs true .no .no 0
  | .vstl h f => h.ok && f.d = 0 && roleg f.a && roleg f.b && rolev f.c && tAny f.ty && f.attrs true .no .no 0
  | .vgath h f => h.ok && rolev f.d && roleg f.a && rolev f.b && f.c = 0 && tW32 f.ty && f.attrs true .no .no 0
  | .vscat h f => h.ok && f.d = 0 && roleg f.a && rolev f.b && rolev f.c && tW32 f.ty && f.attrs true .no .no 0
  | .vbcast h f => h.ok && rolev f.d && roleV f.a && f.c = 0 && tAny f.ty && f.attrs true .no .no 0 && (if rolev f.a then roleg f.b else f.b = 0)
  | .vext h f => h.ok && roleg f.d && rolev f.a && roleg f.b && f.c = 0 && tAny f.ty && f.attrs false .no .no 0
  | .vred h f => h.ok && roleg f.d && rolev f.a && f.b = 0 && f.c = 0 && tArith f.ty && f.attrs true .flt .int 5 && (decide (f.fn.toNat ≤ 2) || tInt f.ty)
  | .vscan h f => h.ok && rolev f.d && rolev f.a && f.b = 0 && f.c = 0 && tArith f.ty && f.attrs true .flt .int 5 && (decide (f.fn.toNat ≤ 2) || tInt f.ty)
  | .vperm h f => h.ok && rolev f.d && rolev f.a && rolev f.b && f.c = 0 && tW32 f.ty && f.attrs true .no .no 0
  | .viota h f => h.ok && rolev f.d && roleg f.a && roleg f.b && f.c = 0 && tIota f.ty && f.attrs true .no .no 0
  | .viotaCnt h f => h.ok && rolev f.d && f.a = 0 && f.b = 0 && rolep f.c && tIota f.ty && f.attrs true .no .no 1 && f.fn = 1
  | .vsetl h f => h.ok && roleg f.d && f.b = 0 && f.c = 0 && tAny f.ty && f.attrs false .no .no 4 && (if f.fn = 0 then roleg f.a else f.a = 0)
  | .vmovp h f => h.ok && rolep f.d && rolep f.a && f.c = 0 && f.ty = 0 && f.attrs false .no .no 4 && (if f.fn = 4 then f.b = 0 else rolep f.b)
  | .vmovpRd h f => h.ok && roleg f.d && rolep f.a && roleg f.b && f.c = 0 && f.ty = 0 && f.attrs false .no .no 5 && f.fn = 5
  | .vmovpWr h f => h.ok && rolep f.d && roleg f.a && roleg f.b && f.c = 0 && f.ty = 0 && f.attrs false .no .no 6 && f.fn = 6
  | .vpopq h f => h.ok && rolev f.d && f.a = 0 && f.b = 0 && rolep f.c && tAny f.ty && f.attrs true .no .no 0
  | .vpushq h f => h.ok && f.d = 0 && rolev f.a && f.b = 0 && rolep f.c && tAny f.ty && f.attrs false .no .no 0
  | .vectorPortStart cell => decide (cell < 262144)
  | .vectorCompletion cell _ => decide (cell < 262144)
  | .pori2 h f => h.ok && predOk f
  | .pori3 h f => h.ok && predOk f
  | .pinci h f => h.ok && predOk f
  | .pinsp h f => h.ok && predOk f
  | .psegx h f => h.ok && predOk f
  | .pstat h f => h.ok && f.a = 0 && f.b = 0 && f.c = 0 && top f.ef 1
  | .predicateReadPhase cell => decide (cell < 262144)
  | .predicateHandoff cell _ => decide (cell < 262144)
  | .stageBSettle quad _ _ => decide (quad < 65536)
  | .stageCBurstStart quad => decide (quad < 65536)
  | .stageCLaneSettle quad _ => decide (quad < 65536)
  | .predicateCompletion cell _ => decide (cell < 262144)
  | .mgang h f => h.ok && f.d = 0 && isG f.a && isG f.b && isG f.c && top f.ef 12 && field f.ef 10 2 ≠ 3 && decide (1 ≤ field f.ef 3 5) && decide (field f.ef 3 5 ≤ 24)
  | .mread h f => h.ok && rolev f.d && f.a = 0 && f.b = 0 && f.c = 0 && top f.ef 4
  | .mclr h f => h.ok && f.zero && top f.ef 8 && f.ef ≠ 0
  | .mscl h f => h.ok && f.d = 0 && isG f.a && f.b = 0 && f.c = 0 && top f.ef 2
  | .msclRd h f => h.ok && isG f.d && f.a = 0 && f.b = 0 && f.c = 0 && top f.ef 3 && bit f.ef 2
  | .mstat h f => h.ok && isG f.d && f.a = 0 && f.b = 0 && f.c = 0 && top f.ef 1
  | .mfill h f => h.ok && f.d = 0 && rolev f.a && f.b = 0 && f.c = 0 && top f.ef 3
  | .mcut h f => h.ok && f.zero && top f.ef 5 && bit f.ef 4
  | .mcutOff h f => h.ok && f.zero && f.ef = 0
  | .mswap h f => h.ok && rolev f.d && f.a = 0 && f.b = 0 && f.c = 0 && top f.ef 3
  | .mleaveRsv h f => h.ok && f.zero && top f.ef 4 && decide (1 ≤ f.ef.toNat) && decide (f.ef.toNat ≤ 8)
  | .mleaveRel h f => h.ok && f.zero && f.ef = 16
  | .msync h f => h.ok && f.zero && f.ef = 0
  | .groupFormation strip => decide (strip < 32768)
  | .gangLeaveRequest strip => decide (strip < 32768)
  | .gangStart strip => decide (strip < 32768)
  | .gangCompletion strip _ _ => decide (strip < 32768)
  | .matrixTransferComplete cell _ => decide (cell < 262144)
  | .xpost h f => h.ok && f.d = 0 && isG f.a && isG f.b && isG f.c && top f.ef 4
  | .xgrant h f => h.ok && isG f.d && isG f.a && f.b = 0 && f.c = 0 && top f.ef 9 && (bit f.ef 8 || field f.ef 4 4 = 0)
  | .xsend h f => h.ok && isG f.d && isG f.a && isG f.b && f.c = 0 && top f.ef 4
  | .xdone h f => h.ok && isG f.d && f.a = 0 && f.b = 0 && f.c = 0 && top f.ef 4
  | .xstat h f => h.ok && isG f.d && f.a = 0 && f.b = 0 && f.c = 0 && top f.ef 4
  | .xaPostArrival _ _ => true
  | .xpostAck _ _ => true
  | .roundDeadline _ => true
  | .calendarWrite _ _ => true
  | .exchangePhaseStart _ => true
  | .exchangePairEnd _ _ => true
  | .xdoneComplete _ _ => true
  | .xaHeartbeat _ => true
  | .xaStandbyTakeover _ => true
  | .linkTrain _ _ _ => true
  | .flitReceive _ _ => true
  | .linkReplayRequest _ _ => true
  | .packetDelivery _ _ _ => true
  | .packetAck _ _ => true
  | .routeSwitch _ _ => true
  | .routeTableWrite _ _ => true
  | .qfwd h f => h.ok && f.zero && top f.ef 11 && field f.ef 0 3 = 0 && field f.ef 3 8 ≠ 0
  | .parkCut h f => h.ok && f.zero && f.ef = 0 && !h.ee
  | .parkSelf h f => h.ok && f.zero && f.ef = 1 && !h.ee
  | .cutParkComplete cell => decide (cell < 262144)
  | .reinj h f => h.ok && isG f.d && isG f.a && isG f.b && f.c = 0 && top f.ef 3
  | .ptestDom h f => h.ok && isG f.d && isG f.a && f.b = 0 && f.c = 0 && f.ef = 0
  | .ptestCell h f => h.ok && isG f.d && isG f.a && f.b = 0 && f.c = 0 && f.ef = 1
  | .wdogSet h f => h.ok && f.d = 0 && isG f.a && f.b = 0 && f.c = 0 && f.ef = 0
  | .wdogOff h f => h.ok && f.zero && f.ef = 1
  | .rmWatchdogExpiry cell => decide (cell < 262144)
  | .cctlPark cell => decide (cell < 262144)
  | .rmParkEffect cell => decide (cell < 262144)
  | .cctlResume cell _ => decide (cell < 262144)
  | .cctlAbort cell => decide (cell < 262144)
  | .oraReattach cell _ _ => decide (cell < 262144)
  | .rmWindowWrite row _ _ => decide (row < 512)
  | .faultQueuePop row => decide (row < 512)
  | .mtstatReadClear block => decide (block < 4096)
  | .sinkReplay cell => decide (cell < 262144)
  | .sharedControlError _ => true
  | .heartbeatTick row => decide (row < 512)
  | .rowManagerTakeover row _ => decide (row < 512)
  | .gateForward _ => true
  | .serviceBadFunc _ => true
  | .alloc _ _ => true
  | .free _ => true
  | .avail _ => true
  | .prot _ => true
  | .migrate _ _ => true
  | .entry _ => true
  | .load _ _ _ => true
  | .wait _ => true
  | .cut _ _ => true
  | .resume _ _ => true
  | .kill _ => true
  | .replace _ _ _ _ => true
  | .fwmin _ => true
  | .attest _ => true
  | .portstat _ => true
  | .topo _ => true
  | .routes _ => true
  | .logWrite _ => true
  | .logFlush _ => true
  | .hostDoorbell _ _ _ _ => true
  | .doorbellPush _ _ => true
  | .iqStatClear _ _ _ => true
  | .hostRingWrite _ _ _ => true
  | .hostBarWrite _ _ _ _ => true
  | .hostPortTrain _ _ => true
  | .freezePin => true
  | .mdlctlFreeze row => decide (row < 512)
  | .freezeStop => true
  | .frozenNotice _ => true
  | .thawedNotice _ => true
  | .extest => true
  | .idcode => true
  | .samplePreload => true
  | .mdlsel _ => true
  | .mdlread => true
  | .mdllanes _ => true
  | .mdlresume => true
  | .bypass => true
  | .pcSample cell => decide (cell < 262144)
  | .traceTime row => decide (row < 512)
  | .leaveGrant block => decide (block < 4096)
  | .entdaa _ => true
  | .pcapWrite _ => true
  | .fwin _ => true
  | .fwgo _ => true
  | .thermalThrottleTick _ => true
  | .powerOn _ => true
  | .taggedStructureError _ => true
  | .lossOfLink _ _ => true
  | .eagcfgReadReply cell => decide (cell < 262144)
  | .ptestReply cell => decide (cell < 262144)
  | .powerFailure => true
  | .inServiceRepair _ => true

end Sys2Proof
end

