-- ==== Sys2Proof/Machine/Issue.lean ====
section
/-! DEFINITION. The issue of an instruction of a cell: what is served at T in the order of R181, the wait mask and the
emit slot (R66), legality and privilege (R73, R74), and the commit of the effects (R160, R184), of a sleep (R24), of a
cause (R76, R77) or of a sink discard (R441). -/

namespace Sys2Proof.Machine

open Sys2Proof

/-- The word of a cell's instruction (0 for the operation of another agent). -/
def Instr.word (i : Instr) : Word := (encode i).getD 0
/-- Its opcode byte. -/
def Instr.op (i : Instr) : BitVec 8 := (Instr.word i).extractLsb' 56 8

/-! ### Ports that an instruction names (R316) -/

/-- The opcodes of formats R and X, which have fields B and C, and of format M, which has field B (R79). -/
def hasC (op : BitVec 8) : Bool :=
  let n := op.toNat
  decide (n ≤ 0x1B) || n = 0x26 || n = 0x2D || n = 0x33 || n = 0x34 || (decide (0x40 ≤ n) && decide (n ≤ 0x6A)) ||
  (decide (0x76 ≤ n) && decide (n ≤ 0x7D)) || (decide (0x80 ≤ n) && decide (n ≤ 0x85)) || decide (0xC5 ≤ n)
def hasB (op : BitVec 8) : Bool :=
  let n := op.toNat
  hasC op || n = 0x25 || n = 0x2F || n = 0x30 || (decide (0x70 ≤ n) && decide (n ≤ 0x7E))

/-- The port of a 6-bit operand field, as a mask. -/
def portBit (x : Nat) : BitVec 8 := if 56 ≤ x then oneBit 8 (x - 56) else 0

/-- The ports that EF20 names: by number, or by a mask. -/
def efPorts (op : BitVec 8) (w : Word) : BitVec 8 :=
  let n := op.toNat
  if (decide (0x40 ≤ n) && decide (n ≤ 0x4C)) || n = 0x4F || n = 0x54 || n = 0x55 || n = 0xE2 then oneBit 8 (field w 0 3)
  else if n = 0x4D ∨ n = 0x4E ∨ n = 0xE0 then w.extractLsb' 3 8
  else 0

/-- The ports that a pipeline instruction names in an operand or in EF20. -/
def portsNamed (w : Word) : BitVec 8 :=
  let op : BitVec 8 := w.extractLsb' 56 8
  portBit (field w 38 6) ||| portBit (field w 32 6) ||| (if hasB op then portBit (field w 26 6) else 0) |||
  (if hasC op then portBit (field w 20 6) else 0) ||| efPorts op w

/-- The ports that a pipeline instruction of cell c names: QMARK with an empty mask names every port bound inbound (R240, R316). -/
def Cell.portsOf (c : Cell) (w : Word) : BitVec 8 :=
  if field w 56 8 = 0x4E ∧ field w 3 8 = 0 then
    portsNamed w ||| (upto 8).foldl (fun m i => if c.binding i = 1 then m ||| oneBit 8 i else m) 0
  else portsNamed w

/-- The ports of the VPOPQ and VPUSHQ instructions in the vector queue (R316). -/
def Cell.vports (c : Cell) : BitVec 8 :=
  c.vec.queue.foldl (fun m e => if e.op = 0xAE ∨ e.op = 0xAF then m ||| oneBit 8 (e.f.c.toNat % 8) else m) 0

/-- The opcodes that issue to the vector queue: 0x88 to 0xAF but for VSETL, and the predicates 0xC0 to 0xC4 (R77, R310, R337). -/
def toVectorQueue (op : BitVec 8) : Bool :=
  (decide (0x88 ≤ op.toNat) && decide (op.toNat ≤ 0xAF) && op ≠ 0xAC) ||
    (decide (0xC0 ≤ op.toNat) && decide (op.toNat ≤ 0xC4))

/-- A pending fault is taken at an instruction with this opcode that waits on the slots of `named`: at one that names a
slot of it, at DONE (R200), at FENCE unless it is a vector fault with a slot, and, if it is a vector fault, at one that
issues to the vector queue (R77). -/
def FaultRec.takenAt (r : FaultRec) (named : BitVec 8) (op : BitVec 8) : Bool :=
  (r.slots &&& named) ≠ 0 || op = 0x34 || (op = 0x7E && (!r.vector || r.held)) || (r.vector && toVectorQueue op)

/-- The pending fault to take at an instruction, the earliest in program order (R78). -/
def Cell.faultFor (c : Cell) (named op : BitVec 8) : Option FaultRec :=
  let rs := (c.faults ++ c.heldFault.toList).filter (fun r => r.takenAt named op)
  rs.foldl (fun m r => match m with
    | none => some r
    | some x => if r.seq < x.seq then some r else m) none

/-- Supervisor opcodes raise PRIV in a cell that is not privileged, but QFWD and PARK.CUT are legal in any cell while it
runs entry 17 (R74). -/
def privileged (i : Instr) (c : Cell) : Bool :=
  let op := Instr.op i
  if op.toNat < 0xE0 ∨ 0xE4 < op.toNat then true
  else if c.priv then true
  else if op = 0xE0 then c.sys.entry = 17
  else if op = 0xE1 then c.sys.entry = 17 && field (Instr.word i) 0 2 ≠ 1
  else false

/-- A field of page 7 (R487). -/
def Cell.debugField (c : Cell) (n : Nat) : BitVec 32 := SMap.get 0 c.dbg.f n

/-- A breakpoint matches the instruction at the PC of the cell (R488); its number. -/
def Cell.breakpoint (c : Cell) : Option Nat :=
  (upto 4).find? (fun n => (c.debugField n).getLsbD 11 && field (c.debugField n) 0 11 = c.pc)

/-- An access that watchpoints look at: local or global, its address and size, its directions, and for a global one the
domain of its page (R488). -/
structure Watched where
  glob : Bool
  a : Nat
  size : Nat
  rd : Bool
  wr : Bool
  dom : BitVec 12 := 0

/-- Watchpoint n matches the access. -/
def Cell.watchMatch (c : Cell) (w : Watched) (n : Nat) : Bool :=
  let ctl := c.debugField (4 + 4 * n)
  let lo := (c.debugField (5 + 4 * n)).toNat + field (c.debugField (6 + 4 * n)) 0 25 * 2 ^ 32
  ctl.getLsbD 11 && ctl.getLsbD 10 == w.glob && ((ctl.getLsbD 9 && w.rd) || (ctl.getLsbD 8 && w.wr)) &&
  (!ctl.getLsbD 7 || (c.debugField (7 + 4 * n)).extractLsb' 0 12 = w.dom) &&
  decide (lo < w.a + w.size) && decide (w.a < lo + 2 ^ field ctl 0 6)

/-- The watchpoint that breaks at the access. -/
def Cell.watchBreak (c : Cell) (w : Watched) : Option Nat :=
  (upto 2).find? (fun n => c.watchMatch w n && !(c.debugField (4 + 4 * n)).getLsbD 6)

/-- A trace-only match emits a WATCH record and the instruction proceeds; nothing matches in entry 16 or 18. -/
def State.watchTrace (s : State) (k : Nat) (c : Cell) (w : Watched) : State :=
  if c.inHandler then s
  else if (upto 2).any (fun n => c.watchMatch w n && (c.debugField (4 + 4 * n)).getLsbD 6) then
    s.trace k 4 (at_ (b2n w.wr) 63 ||| at_ (Nat.log2 w.size) 61 ||| at_ (w.a % 2 ^ 57) 0)
  else s

/-- The number of the hardware breakpoint that matches at the instruction: BPn, or 4 + n for WPn (R181, R488). -/
def Cell.hardBreak (c : Cell) (w : Option Watched) : Option Nat :=
  if c.inHandler || c.bpSkip then none
  else
    match c.breakpoint with
    | some n => some n
    | none => (w.bind c.watchBreak).map (fun n => n + 4)

/-- The cell falls asleep, or sleeps on (R24). -/
def State.sleep (s : State) (k : Nat) (c : Cell) (why : Stall) (on : WaitCond) : State :=
  let c := if c.st = .asleep then { c with wait := some (why, on), waitAt := if c.wait = some (why, on) then c.waitAt else s.now }
    else { c with st := .asleep, wait := some (why, on), sleepAt := s.now, waitAt := s.now, wdSent := false }
  { s.setCell k c with now := s.now + 1 }

/-- The token of the instruction at the PC. -/
def Cell.tok (c : Cell) (i : Instr) (h : Hdr) : Tok :=
  { slot := if h.ee then some h.es else none, seq := c.iseq, pc := c.pc, opb := Instr.op i, word := Instr.word i, rpl := c.rpl
    at_ := c.writes }

/-- The commit of a completed issue: the effects, the next PC, the emit slot, and the issue cost (R66, R160, R203). -/
def commit (k : Nat) (h : Hdr) (start : Nat) (f : Fin) : State :=
  let c := f.c.afterPops (f.s.cell k) start
  let c := if h.ee then c.setSlot h.es.toNat (if f.failed then .faulted else if f.async then .pending else .idle) else c
  f.s.setCell k { c with
    st := .running, wait := none, step := 0, bpSkip := false
    pc := f.jump.getD (c.pc + 1), iseq := c.iseq + 1, readyAt := start + f.cost }

/-- What a stop of the issue does. -/
def stopped (i : Instr) (k : Nat) (s : State) (c : Cell) : Stop → State
  | .wait why on => s.sleep k c why on
  | .waitIn s' c' why on => s'.sleep k c' why on
  | .cause code tval => s.trapHere k c (Instr.op i) code tval
  | .illop => s.trapHere k c (Instr.op i) 1 (Instr.word i)
  | .priv => s.trapHere k c (Instr.op i) 2 (Instr.word i)
  | .sink fld => s.park k { c with sinkPending := true, bpSkip := false } .sink causePoison (ofNat fld)
  | .other s' => s'

/-- What a cell that is not privileged raises at an instruction of R74: PRIV, or the lower cause ILLOP where the instruction also
meets it (R76). -/
def unprivileged (r : Res) : Stop :=
  match r with
  | .error .illop => .illop
  | _ => .priv

/-- The issue of instruction i with header h at the current cell. `body` gives the instruction's own effect, or why it
stops; it is given the state at the clk of the issue and the cell. `watch` gives the access that watchpoints look at. A
cell that neither runs nor sleeps issues nothing. -/
def issue (i : Instr) (h : Hdr) (s0 : State) (body : State → Cell → Res)
    (watch : State → Cell → Option Watched := fun _ _ => none) : Host.Outcome State Fault Refusal :=
  let k := s0.cur
  let c := s0.cell k
  if c.st ≠ .running ∧ c.st ≠ .asleep then .next s0
  else
    let s := { s0 with now := max s0.now c.readyAt }
    let named := if h.ee then h.wm ||| oneBit 8 h.es.toNat else h.wm
    match c.hardBreak (watch s c) with
    | some n =>
      .next ((s.trace k 3 (ofNat (n * 2 ^ 16 + c.pc))).enter k c 18
        { cause := 0, brk := true, tpc := c.pc, taken := c.pc, opb := Instr.op i, tval := ofNat n })
    | none =>
      if h.wm &&& c.pendingMask ≠ 0 then .next (s.sleep k c .token (.slots h.wm))
      else if c.inHandler ∧ named &&& c.faultedMask ≠ 0 then .next (s.park k c .nested 0 0)
      else
        match (if c.inHandler then none else c.faultFor named (Instr.op i)) with
        | some r => .next (s.takeFault k c r)
        | none =>
          if named &&& c.pendingMask ≠ 0 then .next (s.sleep k c .token (.slots named))
          else if i.wf = false then .next (stopped i k s c .illop)
          else if privileged i c = false then .next (stopped i k s c (unprivileged (body s c)))
          else if toVectorQueue (Instr.op i) = false ∧ c.portsOf (Instr.word i) &&& c.vports ≠ 0 then
            .next (s.sleep k c .token (.vports (c.portsOf (Instr.word i))))
          else if (upto 8).any (fun p => (c.portsOf (Instr.word i)).getLsbD p && s.portBusy k p) then
            .next (s.sleep k c .token .rebuilds)
          else
            match body s c with
            | .ok f => .next (commit k h s.now f)
            | .error e => .next (stopped i k s c e)

end Sys2Proof.Machine
end

