-- ==== Sys2Proof/Machine/Scalar.lean ====
section
/-! DEFINITION. The register instructions of the cell core: arithmetic and logic, immediates, constants and LEA (R183 to
R192, R202). -/

namespace Sys2Proof.Machine

open Sys2Proof

/-! ### The results of R186 -/

/-- Signed quotient, truncated; a zero divisor gives -1 and the minimum over -1 gives the minimum (R98). -/
def divS (a b : Word) : Word := if b = 0 then BitVec.allOnes 64 else ofInt ((sgn a).tdiv (sgn b))
/-- Unsigned quotient; a zero divisor gives 2^64 - 1 (R98). -/
def divN (a b : Word) : Word := if b = 0 then BitVec.allOnes 64 else ofNat (uns a / uns b)
/-- Signed remainder, with the sign of the dividend; a zero divisor gives a (R98). -/
def remS (a b : Word) : Word := if b = 0 then a else ofInt ((sgn a).tmod (sgn b))
/-- Unsigned remainder; a zero divisor gives a (R98). -/
def remN (a b : Word) : Word := if b = 0 then a else ofNat (uns a % uns b)
/-- MULH: floor(S(a) * S(b) / 2^64). -/
def mulhS (a b : Word) : Word := ofInt ((sgn a * sgn b) / 2 ^ 64)
/-- MULHN: floor(U(a) * U(b) / 2^64). -/
def mulhN (a b : Word) : Word := ofNat (uns a * uns b / 2 ^ 64)
/-- A truth value as a word. -/
def ofBool (b : Bool) : Word := if b then 1 else 0

/-- The result of ADDS: the exact sum or difference, clamped to the type that FN selects (R187). -/
def addSat (fn : BitVec 3) (a b : Word) : Word :=
  let clampS (x : Int) : Word := ofInt (max (-2 ^ 63) (min (2 ^ 63 - 1) x))
  let clampN (x : Int) : Word := ofInt (max 0 (min (2 ^ 64 - 1) x))
  if fn = 0 then clampS (sgn a + sgn b)
  else if fn = 1 then clampN ((uns a : Int) + uns b)
  else if fn = 2 then clampS (sgn a - sgn b)
  else clampN ((uns a : Int) - uns b)

/-- MODW: (U(a) + U(b)) mod U(c), modulo 2^64 when U(c) = 0 (R189). -/
def modw (a b c : Word) : Word := if c = 0 then a + b else ofNat ((uns a + uns b) % uns c)

/-- The sign-extended IMM29. -/
def simm (f : FmtI) : Word := f.imm.signExtend 64

/-! ### Shapes -/

/-- A result from A and B, poisoned if either is (R185). -/
def aluR (i : Instr) (h : Hdr) (f : FmtR) (op : Word → Word → Word) (s : State) : Host.Outcome State Fault Refusal :=
  issue i h s fun s c => do
    regsReady c [f.a, f.b, f.d]
    let (a, b, c) ← readAB c f.a f.b f.sa f.sb
    let c ← writeDst c f.d ⟨op a.v b.v, a.p || b.p⟩
    return { s, c }

/-- A result from A alone (CLZ, POPC). -/
def aluR1 (i : Instr) (h : Hdr) (f : FmtR) (op : Word → Word) (s : State) : Host.Outcome State Fault Refusal :=
  issue i h s fun s c => do
    regsReady c [f.a, f.d]
    let (a, c) ← readSrc c f.a f.sa
    let c ← writeDst c f.d ⟨op a.v, a.p⟩
    return { s, c }

/-- A result from A and the immediate, poisoned if A is (R190). -/
def aluI (i : Instr) (h : Hdr) (f : FmtI) (op : Word → Word) (s : State) : Host.Outcome State Fault Refusal :=
  issue i h s fun s c => do
    regsReady c [f.a, f.d]
    let (a, c) ← readSrc c f.a f.sa
    let c ← writeDst c f.d ⟨op a.v, a.p⟩
    return { s, c }

/-! ### Instructions -/

/-- NOP (R202): no effect beyond R66. -/
def execNop (h : Hdr) (f : FmtR) (s : State) : Host.Outcome State Fault Refusal :=
  issue (.nop h f) h s fun s c => return { s, c }

/-- ADD (R186). -/
def execAdd (h : Hdr) (f : FmtR) (s : State) : Host.Outcome State Fault Refusal :=
  aluR (.add h f) h f (fun a b => a + b) s

/-- SUB (R186). -/
def execSub (h : Hdr) (f : FmtR) (s : State) : Host.Outcome State Fault Refusal :=
  aluR (.sub h f) h f (fun a b => a - b) s

/-- MUL (R186). -/
def execMul (h : Hdr) (f : FmtR) (s : State) : Host.Outcome State Fault Refusal :=
  aluR (.mul h f) h f (fun a b => a * b) s

/-- MULH (R186). -/
def execMulh (h : Hdr) (f : FmtR) (s : State) : Host.Outcome State Fault Refusal :=
  aluR (.mulh h f) h f mulhS s

/-- MULHN (R186). -/
def execMulhn (h : Hdr) (f : FmtR) (s : State) : Host.Outcome State Fault Refusal :=
  aluR (.mulhn h f) h f mulhN s

/-- DIV (R186). -/
def execDiv (h : Hdr) (f : FmtR) (s : State) : Host.Outcome State Fault Refusal :=
  aluR (.div h f) h f divS s

/-- DIVN (R186). -/
def execDivn (h : Hdr) (f : FmtR) (s : State) : Host.Outcome State Fault Refusal :=
  aluR (.divn h f) h f divN s

/-- REM (R186). -/
def execRem (h : Hdr) (f : FmtR) (s : State) : Host.Outcome State Fault Refusal :=
  aluR (.rem h f) h f remS s

/-- REMN (R186). -/
def execRemn (h : Hdr) (f : FmtR) (s : State) : Host.Outcome State Fault Refusal :=
  aluR (.remn h f) h f remN s

/-- AND (R186). -/
def execAndR (h : Hdr) (f : FmtR) (s : State) : Host.Outcome State Fault Refusal :=
  aluR (.andR h f) h f (fun a b => a &&& b) s

/-- OR (R186). -/
def execOrR (h : Hdr) (f : FmtR) (s : State) : Host.Outcome State Fault Refusal :=
  aluR (.orR h f) h f (fun a b => a ||| b) s

/-- XOR (R186). -/
def execXorR (h : Hdr) (f : FmtR) (s : State) : Host.Outcome State Fault Refusal :=
  aluR (.xorR h f) h f (fun a b => a ^^^ b) s

/-- SHL (R186). -/
def execShl (h : Hdr) (f : FmtR) (s : State) : Host.Outcome State Fault Refusal :=
  aluR (.shl h f) h f (fun a b => a <<< (uns b % 64)) s

/-- SHR (R186). -/
def execShr (h : Hdr) (f : FmtR) (s : State) : Host.Outcome State Fault Refusal :=
  aluR (.shr h f) h f (fun a b => a >>> (uns b % 64)) s

/-- SRA (R186). -/
def execSra (h : Hdr) (f : FmtR) (s : State) : Host.Outcome State Fault Refusal :=
  aluR (.sra h f) h f (fun a b => a.sshiftRight (uns b % 64)) s

/-- ROTL (R186). -/
def execRotl (h : Hdr) (f : FmtR) (s : State) : Host.Outcome State Fault Refusal :=
  aluR (.rotl h f) h f (fun a b => a.rotateLeft (uns b % 64)) s

/-- MIN (R186). -/
def execMin (h : Hdr) (f : FmtR) (s : State) : Host.Outcome State Fault Refusal :=
  aluR (.min h f) h f (fun a b => if sgn a ≤ sgn b then a else b) s

/-- MAX (R186). -/
def execMax (h : Hdr) (f : FmtR) (s : State) : Host.Outcome State Fault Refusal :=
  aluR (.max h f) h f (fun a b => if sgn a ≤ sgn b then b else a) s

/-- MINN (R186). -/
def execMinn (h : Hdr) (f : FmtR) (s : State) : Host.Outcome State Fault Refusal :=
  aluR (.minn h f) h f (fun a b => if uns a ≤ uns b then a else b) s

/-- MAXN (R186). -/
def execMaxn (h : Hdr) (f : FmtR) (s : State) : Host.Outcome State Fault Refusal :=
  aluR (.maxn h f) h f (fun a b => if uns a ≤ uns b then b else a) s

/-- CEQ (R186). -/
def execCeq (h : Hdr) (f : FmtR) (s : State) : Host.Outcome State Fault Refusal :=
  aluR (.ceq h f) h f (fun a b => ofBool (a = b)) s

/-- CLT (R186). -/
def execClt (h : Hdr) (f : FmtR) (s : State) : Host.Outcome State Fault Refusal :=
  aluR (.clt h f) h f (fun a b => ofBool (sgn a < sgn b)) s

/-- CLTN (R186). -/
def execCltn (h : Hdr) (f : FmtR) (s : State) : Host.Outcome State Fault Refusal :=
  aluR (.cltn h f) h f (fun a b => ofBool (uns a < uns b)) s

/-- CLZ (R186). -/
def execClz (h : Hdr) (f : FmtR) (s : State) : Host.Outcome State Fault Refusal :=
  aluR1 (.clz h f) h f (fun a => ofNat (leadingZeros a 64)) s

/-- POPC (R186). -/
def execPopc (h : Hdr) (f : FmtR) (s : State) : Host.Outcome State Fault Refusal :=
  aluR1 (.popc h f) h f (fun a => ofNat (popCount a 64)) s

/-- ADDS (R187). -/
def execAdds (h : Hdr) (f : FmtR) (s : State) : Host.Outcome State Fault Refusal :=
  aluR (.adds h f) h f (addSat f.fn) s

/-- SEL: every named port is read and popped; poison comes from c and the chosen operand alone (R188). -/
def execSel (h : Hdr) (f : FmtR) (s : State) : Host.Outcome State Fault Refusal :=
  issue (.sel h f) h s fun s c => do
    regsReady c [f.a, f.b, f.c, f.d]
    let (x, y, c) ← readAB c f.a f.b f.sa f.sb
    let (z, c) ← readSrc c f.c f.sc
    let r := if z.v ≠ 0 then x else y
    let c ← writeDst c f.d ⟨r.v, z.p || r.p⟩
    return { s, c }

/-- MODW (R189). -/
def execModw (h : Hdr) (f : FmtR) (s : State) : Host.Outcome State Fault Refusal :=
  issue (.modw h f) h s fun s c => do
    regsReady c [f.a, f.b, f.c, f.d]
    let (x, y, c) ← readAB c f.a f.b f.sa f.sb
    let (z, c) ← readSrc c f.c f.sc
    let c ← writeDst c f.d ⟨modw x.v y.v z.v, x.p || y.p || z.p⟩
    return { s, c }

/-- ADDI (R190). -/
def execAddi (h : Hdr) (f : FmtI) (s : State) : Host.Outcome State Fault Refusal :=
  aluI (.addi h f) h f (fun a => a + simm f) s

/-- ANDI (R190). -/
def execAndi (h : Hdr) (f : FmtI) (s : State) : Host.Outcome State Fault Refusal :=
  aluI (.andi h f) h f (fun a => a &&& simm f) s

/-- ORI (R190). -/
def execOri (h : Hdr) (f : FmtI) (s : State) : Host.Outcome State Fault Refusal :=
  aluI (.ori h f) h f (fun a => a ||| simm f) s

/-- XORI (R190). -/
def execXori (h : Hdr) (f : FmtI) (s : State) : Host.Outcome State Fault Refusal :=
  aluI (.xori h f) h f (fun a => a ^^^ simm f) s

/-- SHLI (R190). -/
def execShli (h : Hdr) (f : FmtI) (s : State) : Host.Outcome State Fault Refusal :=
  aluI (.shli h f) h f (fun a => a <<< field f.imm 0 6) s

/-- SHRI (R190). -/
def execShri (h : Hdr) (f : FmtI) (s : State) : Host.Outcome State Fault Refusal :=
  aluI (.shri h f) h f (fun a => a >>> field f.imm 0 6) s

/-- SRAI (R190). -/
def execSrai (h : Hdr) (f : FmtI) (s : State) : Host.Outcome State Fault Refusal :=
  aluI (.srai h f) h f (fun a => a.sshiftRight (field f.imm 0 6)) s

/-- MOVI: the sign-extended immediate, clean (R191). -/
def execMovi (h : Hdr) (f : FmtI) (s : State) : Host.Outcome State Fault Refusal :=
  issue (.movi h f) h s fun s c => do
    let c ← writeDst c f.d (.clean (simm f))
    return { s, c }

/-- MOVHI: i * 2^29 + a[28:0] (R191). -/
def execMovhi (h : Hdr) (f : FmtI) (s : State) : Host.Outcome State Fault Refusal :=
  aluI (.movhi h f) h f (fun a => simm f * 0x20000000 + (a.extractLsb' 0 29).zeroExtend 64) s

/-- LEA: base + index * 2^SZ + displacement (R192). -/
def execLea (h : Hdr) (f : FmtM) (s : State) : Host.Outcome State Fault Refusal :=
  issue (.lea h f) h s fun s c => do
    regsReady c [f.a, f.b, f.d]
    let (a, b, c) ← readAB c f.a f.b f.sa f.sb
    let c ← writeDst c f.d ⟨a.v + b.v <<< f.sz.toNat + f.disp.signExtend 64, a.p || b.p⟩
    return { s, c }

end Sys2Proof.Machine
end

