-- ==== Sys2Proof/Machine/Local.lean ====
section
/-! DEFINITION. The local address map (R35) with the registers it shows (R17, R171 to R174, R229, R244, R298), local loads
and stores (R193), and RDSYS and WRSYS (R176, R201). -/

namespace Sys2Proof.Machine

open Sys2Proof

/-! ### Register words -/

/-- sys.status (R172). PRIVL follows id.dom, and so reads 1 where id.dom has its reset value, though the table gives PRIVL the
reset value 0 (log entry 12). -/
def Cell.status (c : Cell) : Word :=
  at_ c.arrivals.length 27 ||| at_ (b2n c.sys.sreq) 26 ||| at_ (b2n c.qreq) 25 ||| at_ (b2n c.sys.wde) 24 |||
  at_ c.pendingMask.toNat 16 ||| at_ c.faultedMask.toNat 8 ||| at_ (b2n c.priv) 6 ||| at_ (b2n c.sys.intrap) 5 |||
  at_ c.sys.entry.toNat 0

/-- sys.clk: 0 until START, then the clk elapsed since it (R167, R174). -/
def Cell.clk (c : Cell) (now : Nat) : Word := if c.started then ofNat now - c.startAt else 0

/-- The register of a number of R171, for cell k at clk `now`; an unassigned number reads 0. -/
def Cell.sysReg (c : Cell) (k now n : Nat) : Word :=
  match n with
  | 0 => c.ident.unit.zeroExtend 64
  | 1 => c.ident.units.zeroExtend 64
  | 2 => c.ident.node.zeroExtend 64
  | 3 => ofNat k
  | 4 => ofNat (xOf k)
  | 5 => ofNat (yOf k)
  | 6 => ofNat (stripOf k)
  | 7 => ofNat (slotOf k)
  | 8 => c.ident.org0.zeroExtend 64
  | 9 => c.ident.org1.zeroExtend 64
  | 10 => c.ident.org2.zeroExtend 64
  | 11 => c.ident.org3.zeroExtend 64
  | 12 => c.ident.ext0.zeroExtend 64
  | 13 => c.ident.ext1.zeroExtend 64
  | 14 => c.ident.ext2.zeroExtend 64
  | 15 => c.ident.ext3.zeroExtend 64
  | 16 => c.ident.dom.zeroExtend 64
  | 17 => c.ident.load
  | 32 => c.status
  | 33 => c.sys.trap
  | 34 => c.sys.tpc.zeroExtend 64
  | 35 => c.sys.tval
  | 36 => c.sys.rm.zeroExtend 64
  | 37 => c.sys.lfsr.zeroExtend 64
  | 38 => c.sys.loop
  | 39 => c.sys.flags.zeroExtend 64
  | 40 => c.sys.wd.zeroExtend 64
  | 41 => c.clk now
  | _ => 0

/-- A write of a system register by an agent that may write every field: the row manager (R428) or WRSYS, whose own rules
`wrsysRule` checks first. A zero written to sys.lfsr becomes 1 (R105), and sys.rm holds 0 to 5 (R107): another value leaves it as
it is (log entry 32). -/
def Sys.write (y : Sys) (n : Nat) (v : Word) : Sys :=
  match n with
  | 32 => { y with entry := v.extractLsb' 0 5, intrap := v.getLsbD 5, wde := v.getLsbD 24, sreq := v.getLsbD 26 }
  | 33 => { y with trap := v }
  | 34 => { y with tpc := v.extractLsb' 0 11 }
  | 35 => { y with tval := v }
  | 36 => if field v 0 3 ≤ 5 then { y with rm := v.extractLsb' 0 3 } else y
  | 37 => { y with lfsr := if v.extractLsb' 0 32 = 0 then 1 else v.extractLsb' 0 32 }
  | 38 => { y with loop := v }
  | 39 => { y with flags := v.extractLsb' 0 5 }
  | 40 => { y with wd := v.extractLsb' 0 32 }
  | _ => y

/-- What WRSYS checks (R107, R176): PRIV for a read-only register and for sys.wd in a cell that is not privileged; ILLOP
for sys.tpc and sys.tval outside entries 16 and 18, for a nonzero bit where the layout has zeros, in sys.status and sys.trap too,
where it is the lower cause (R76), and for 6 or 7 in sys.rm. -/
def wrsysRule (c : Cell) (n : Nat) (v : Word) : Except Stop Unit :=
  let zeros (lo : Nat) : Except Stop Unit := legal (decide (v.toNat < 2 ^ lo))
  match n with
  | 32 => do zeros 30; legal (!bit v 7); .error .priv
  | 33 => do zeros 41; .error .priv
  | 34 => do legal c.inHandler; zeros 11
  | 35 => legal c.inHandler
  | 36 => do zeros 3; legal (decide (v.toNat ≤ 5))
  | 37 => .ok ()
  | 38 => .ok ()
  | 39 => zeros 5
  | 40 => do zeros 32; if c.priv then .ok () else .error .priv
  | _ => .error .priv

/-- IST of inbound endpoint i (R229). -/
def Cell.ist (c : Cell) (i : Nat) : Word :=
  let e := c.inEp i
  at_ ((e.res.getD 0) % 2 ^ 16) 48 ||| at_ (b2n (!e.waiting.isEmpty)) 47 ||| at_ (b2n e.tagf) 46 |||
  at_ (b2n e.ovr) 45 ||| at_ (b2n (c.binding i = 1)) 44 ||| at_ (b2n e.res.isSome) 43 ||| at_ (e.tail % 2 ^ 12) 28 |||
  at_ (e.head % 2 ^ 12) 16 ||| at_ (min 4 e.occ) 13 ||| at_ (e.occ % 2 ^ 13) 0

/-- ICFG of inbound endpoint i (R229). -/
def Cell.icfg (c : Cell) (i : Nat) : Word :=
  let e := c.inEp i
  at_ (b2n e.en) 52 ||| at_ e.stk.toNat 36 ||| at_ (b2n e.diven) 32 ||| at_ e.acc.toNat 24 ||| at_ (e.log2cap.toNat % 16) 17 |||
  at_ e.rbase.toNat 0

/-- OST.BLOCK: the task sleeps on window room at the port. -/
def Cell.blocked (c : Cell) (i : Nat) : Bool :=
  c.st = .asleep && (match c.wait with
    | some (_, .room p _) => p = i
    | _ => false)

/-- OST of outbound endpoint i (R229). -/
def Cell.ost (c : Cell) (i : Nat) : Word :=
  let e := c.outEp i
  at_ e.mcm1.toNat 36 ||| at_ (b2n e.nack) 35 ||| at_ e.det.toNat 27 ||| at_ (b2n (c.blocked i)) 26 |||
  at_ (b2n (c.binding i = 2)) 25 ||| at_ e.deftag.toNat 22 ||| at_ e.win.toNat 11 ||| at_ (e.inw % 2 ^ 11) 0

/-- The next index word of the counter chain (R229, R241). -/
def Chain.idxWord (x : Chain) : Word :=
  let g (l : Nat) : Nat := SMap.get 0 x.ind l
  if x.ranOut then 0 else ofNat (g 3 * 2 ^ 48 + g 2 * 2 ^ 32 + g 1 * 2 ^ 16 + g 0)
def Chain.stat (x : Chain) : Word :=
  at_ x.port.toNat 4 ||| at_ (b2n x.mark) 3 ||| at_ (b2n x.idx) 2 ||| at_ (b2n x.done) 1 ||| at_ (b2n x.run) 0

/-- QBINDS (R229). -/
def Cell.qbinds (c : Cell) : Word := (upto 8).foldl (fun w i => w ||| at_ (c.binding i).toNat (2 * i)) 0

/-- A semaphore as a word (R244). -/
def Sem.word (x : Sem) : Word := at_ (b2n x.ovf) 40 ||| at_ x.value.toNat 0

/-- The endpoint-state word at offset o of 0xF_1000 (R229, R244); an offset that is not listed reads 0. -/
def Cell.epWord (c : Cell) (o : Nat) : Word :=
  let i := o % 0x200 / 0x40
  let r := o % 0x40
  if o < 0x200 then (if r = 0 then c.ist i else if r = 8 then c.icfg i else 0)
  else if o < 0x400 then (if r = 0 then c.ost i else if r = 8 then ofNat (c.outEp i).seq.toNat else 0)
  else if o = 0x400 then c.chain.idxWord
  else if o = 0x408 then c.chain.stat
  else if 0x410 ≤ o ∧ o < 0x430 then ofNat (SMap.get 0 c.chain.lim ((o - 0x410) / 8))
  else if o = 0x480 then c.qbinds
  else if 0x500 ≤ o ∧ o < 0x580 then (c.sem ((o - 0x500) / 8)).word
  else 0

/-! ### The local address map -/

/-- The ranges of R35. -/
inductive LocalRange where
  | store | code | event | endpoint | sysregs | none
  deriving DecidableEq, Repr

/-- The range of R35 that holds a local address. -/
def rangeOf (a : Nat) : LocalRange :=
  if a < 0x20000 then .store
  else if 0xE0000 ≤ a ∧ a < 0xE4000 then .code
  else if 0xF0000 ≤ a ∧ a < 0xF0100 then .event
  else if 0xF1000 ≤ a ∧ a < 0xF2000 then .endpoint
  else if 0xF2000 ≤ a ∧ a < 0xF3000 then .sysregs
  else .none

/-- Bytes o to o + n - 1 of a word. -/
def bytesOf (w : Word) (o n : Nat) : Nat := (w.toNat / 2 ^ (8 * o)) % 2 ^ (8 * n)

/-- The effective address of a format-M access: the index is not scaled (R193, R282). -/
def effAddr (a b : Val) (disp : BitVec 14) : Word := a.v + b.v + disp.signExtend 64

/-- The causes a local access meets (R36, R193), in any order. -/
def localCauses (ea : Word) (size : Nat) (stl poisoned : Bool) (fld : Nat) : List (Bool × BitVec 8 × Word) :=
  let a := ea.toNat
  let r := rangeOf a
  [(stl && (r = .code || r = .event || r = .endpoint || r = .sysregs), 2, ea),
   (decide (a % size ≠ 0), causeAlign, ea),
   (decide (2 ^ 20 ≤ a) || r = .none || rangeOf (a + size - 1) ≠ r, causeLbound, ea),
   (poisoned, causePoison, ofNat fld)]

/-- The local access that watchpoints look at: none while its address cannot be read or is poisoned (R488). -/
def localWatch (f : FmtM) (store : Bool) (_ : State) (c : Cell) : Option Watched :=
  match readAB c f.a f.b f.sa f.sb with
  | .ok (a, b, _) =>
    if a.p || b.p then none
    else some { glob := false, a := (effAddr a b f.disp).toNat, size := 2 ^ f.sz.toNat, rd := !store, wr := store }
  | .error _ => none

/-- The trace of a trace-only watchpoint at a local access. -/
def localTrace (f : FmtM) (store : Bool) (s : State) (c : Cell) : State :=
  match localWatch f store s c with
  | some w => s.watchTrace s.cur c w
  | none => s

/-! ### The event window (R298, R301, R302) -/

def Strip.bar (t : Strip) (n : Nat) : Barrier := SMap.get {} t.bars n
def Strip.ev (t : Strip) (n : Nat) : EventLine := SMap.get {} t.evs n
def Strip.mut (t : Strip) (n : Nat) : Mutex := SMap.get {} t.muts n
def Strip.setBar (t : Strip) (n : Nat) (b : Barrier) : Strip := { t with bars := SMap.put t.bars n b }
def Strip.setEv (t : Strip) (n : Nat) (b : EventLine) : Strip := { t with evs := SMap.put t.evs n b }
def Strip.setMut (t : Strip) (n : Nat) (b : Mutex) : Strip := { t with muts := SMap.put t.muts n b }
def Barrier.en (b : Barrier) : Bool := b.cfg.getLsbD 9
def Barrier.tree (b : Barrier) : Bool := b.cfg.getLsbD 8
def Barrier.part (b : Barrier) : BitVec 8 := b.cfg.extractLsb' 0 8
def EventLine.en (e : EventLine) : Bool := e.cfg.getLsbD 10
def EventLine.andLine (e : EventLine) : Bool := e.cfg.getLsbD 9
def EventLine.down (e : EventLine) : Bool := e.cfg.getLsbD 8
def EventLine.mask (e : EventLine) : BitVec 8 := e.cfg.extractLsb' 0 8

/-- EVWAIT.B of slot j on line n: it sleeps while the slot's most recent arrival is in an episode that is not complete,
and gives GEN * 2^32 + RES with RES's poison (R302). -/
def evWaitB (t : Strip) (n j : Nat) : Except Stop Val :=
  let b := t.bar n
  if SMap.find b.arrived j = some b.gen.toNat then .error (.wait .event (.evEpisode n))
  else .ok ⟨at_ b.gen.toNat 32 ||| at_ b.res.toNat 0, b.resP⟩

/-- EVWAIT.E of slot j on line n: it sleeps until the slot has a fire, consumes it and gives FCNT (R302). -/
def evWaitE (t : Strip) (n j : Nat) : Except Stop (Val × Strip) :=
  let e := t.ev n
  if e.pend.getLsbD j = false then .error (.wait .event (.evPend n))
  else .ok (.clean (ofNat e.fcnt.toNat), t.setEv n { e with pend := setBit e.pend j false })

/-- A load of the event window's word at offset o by slot j (R298). -/
def eventWord (t : Strip) (o j : Nat) : Except Stop (Val × Strip) :=
  if o < 0x20 then
    let n := o / 8
    if (t.bar n).en && (t.bar n).part.getLsbD j then do return (← evWaitB t n j, t)
    else .ok (Val.zero, t)
  else if o < 0x60 then
    let n := (o - 0x20) / 8
    if (t.ev n).en && (t.ev n).mask.getLsbD j then evWaitE t n j else .ok (Val.zero, t)
  else if o < 0x80 then
    let m := t.mut ((o - 0x60) / 8)
    let q := m.wq.foldl (fun (w : BitVec 8) x => w ||| oneBit 8 x) 0
    .ok (.clean (at_ (b2n m.hold.isSome) 16 ||| at_ (m.hold.getD 0) 8 ||| at_ q.toNat 0), t)
  else .ok (Val.zero, t)

/-! ### Instructions -/

/-- The field of an address operand that is poisoned, A before B (R175). -/
def poisonField (a : Val) : Nat := if a.p then 1 else 2

/-- LDL (R193): the local store, the instruction store, the event window, endpoint state, and the identity and system
registers. -/
def execLdl (h : Hdr) (f : FmtM) (s : State) : Host.Outcome State Fault Refusal :=
  issue (.ldl h f) h s (watch := localWatch f false) fun s c => do
    let k := s.cur
    let s := localTrace f false s c
    regsReady c [f.a, f.b, f.d]
    let (a, b, c) ← readAB c f.a f.b f.sa f.sb
    needDst c f.d
    let ea := effAddr a b f.disp
    let size := 2 ^ f.sz.toNat
    raise (localCauses ea size false (a.p || b.p) (poisonField a))
    let n := ea.toNat
    let o := n % 8
    let ext (v : Nat) : Word := extend f.sx size v
    match rangeOf n with
    | .store =>
      if s.storeBusyAt k n then .error (.wait .token .rebuilds)
      let (v, p) := c.ldStore n size
      let c ← writeDst c f.d ⟨ext v, p⟩
      return { s, c }
    | .code =>
      let c ← writeDst c f.d (.clean (ext (bytesOf (c.code ((n - 0xE0000) / 8)) o size)))
      return { s, c }
    | .event =>
      let t := s.strip (stripOf k)
      let (v, t) ← eventWord t (n - 0xF0000 - o) (slotOf k)
      let c ← writeDst c f.d ⟨ext (bytesOf v.v o size), v.p⟩
      return { s := s.setStrip (stripOf k) t, c }
    | .endpoint =>
      let c ← writeDst c f.d (.clean (ext (bytesOf (c.epWord (n - 0xF1000 - o)) o size)))
      return { s, c }
    | _ =>
      let c ← writeDst c f.d (.clean (ext (bytesOf (c.sysReg k s.now ((n - 0xF2000) / 8)) o size)))
      return { s, c }

/-- STL (R193): data is read after base and index; every range but the local store raises PRIV. An engine may still read what stood
there (R129). -/
def execStl (h : Hdr) (f : FmtM) (s : State) : Host.Outcome State Fault Refusal :=
  issue (.stl h f) h s (watch := localWatch f true) fun s c => do
    let s := localTrace f true s c
    regsReady c [f.a, f.b, f.d]
    let (a, b, c) ← readAB c f.a f.b f.sa f.sb
    let (d, c) ← readSrc c f.d 0
    let ea := effAddr a b f.disp
    let size := 2 ^ f.sz.toNat
    raise (localCauses ea size true (a.p || b.p) (poisonField a))
    if s.storeBusyAt s.cur ea.toNat then .error (.wait .token .rebuilds)
    return { s, c := (c.noteWrite ea.toNat size false).stStore ea.toNat size (d.v.toNat % 2 ^ (8 * size)) d.p }

/-- RDSYS (R201): the register's value at the issue, clean. -/
def execRdsys (h : Hdr) (f : FmtI) (s : State) : Host.Outcome State Fault Refusal :=
  issue (.rdsys h f) h s fun s c => do
    let c ← writeDst c f.d (.clean (c.sysReg s.cur s.now f.imm.toNat))
    return { s, c }

/-- WRSYS (R201, R176). What is fired in the same clk is ORed into sys.flags after the write (R177). -/
def execWrsys (h : Hdr) (f : FmtI) (s : State) : Host.Outcome State Fault Refusal :=
  issue (.wrsys h f) h s fun s c => do
    let (a, c) ← readSrc c f.a f.sa
    match wrsysRule c f.imm.toNat a.v with
    | .error e => .error e
    | .ok _ => clean 1 a
    let sys := c.sys.write f.imm.toNat a.v
    return { s, c := { c with sys := if f.imm.toNat = 39 then { sys with flags := sys.flags ||| c.firedAt s.now } else sys } }

end Sys2Proof.Machine
end

