-- ==== Sys2Proof/Machine/Branch.lean ====
section
/-! DEFINITION. Branches, calls and returns (R195, R196). -/

namespace Sys2Proof.Machine

open Sys2Proof

/-- A branch target as an integer, checked against the store when taken: LBOUND with the target as value (R59, R175). -/
def target (t : Int) : Except Stop Nat :=
  if t < 0 ∨ 2047 < t then .error (.cause causeLbound (ofInt t)) else .ok t.toNat

/-- PC + OFF29. -/
def relTarget (c : Cell) (f : FmtB) : Int := (c.pc : Int) + f.off.toInt

/-- A conditional branch on operand A: its poison is a cause before its target is looked at, as the pseudocode of R195 has it. -/
def condBranch (i : Instr) (h : Hdr) (f : FmtB) (test : Word → Bool) (s : State) :
    Host.Outcome State Fault Refusal :=
  issue i h s fun s c => do
    let pc := relTarget c f
    let (a, c) ← readSrc c f.a f.sa
    clean 1 a
    if test a.v then return { s, c, jump := some (← target pc), cost := 2 }
    else return { s, c }

/-- The target of BR and CALL: PC + OFF29 with A = 0, else S(a) + OFF29; a poisoned base raises POISON before the target is looked
at (R195). -/
def absTarget (c : Cell) (f : FmtB) : Except Stop (Nat × Cell) := do
  if f.a = 0 then return (← target (relTarget c f), c)
  else
    let (a, c) ← readSrc c f.a f.sa
    clean 1 a
    return (← target (sgn a.v + f.off.toInt), c)

/-- BR (R195). -/
def execBr (h : Hdr) (f : FmtB) (s : State) : Host.Outcome State Fault Refusal :=
  issue (.br h f) h s fun s c => do
    let (t, c) ← absTarget c f
    return { s, c, jump := some t, cost := 2 }

/-- BZ (R195). -/
def execBz (h : Hdr) (f : FmtB) (s : State) : Host.Outcome State Fault Refusal :=
  condBranch (.bz h f) h f (fun a => a = 0) s

/-- BNZ (R195). -/
def execBnz (h : Hdr) (f : FmtB) (s : State) : Host.Outcome State Fault Refusal :=
  condBranch (.bnz h f) h f (fun a => a ≠ 0) s

/-- BLZ (R195). -/
def execBlz (h : Hdr) (f : FmtB) (s : State) : Host.Outcome State Fault Refusal :=
  condBranch (.blz h f) h f (fun a => sgn a < 0) s

/-- BGEZ (R195). -/
def execBgez (h : Hdr) (f : FmtB) (s : State) : Host.Outcome State Fault Refusal :=
  condBranch (.bgez h f) h f (fun a => 0 ≤ sgn a) s

/-- CALL (R195): the link is PC + 1, clean. -/
def execCall (h : Hdr) (f : FmtB) (s : State) : Host.Outcome State Fault Refusal :=
  issue (.call h f) h s fun s c => do
    let link := ofNat (c.pc + 1)
    regsReady c [f.d]
    let (t, c) ← absTarget c f
    let c ← writeDst c f.d (.clean link)
    return { s, c, jump := some t, cost := 2 }

/-- LOOPN (R195): the counter is sys.loop with A = 0, else g[A]. -/
def execLoopn (h : Hdr) (f : FmtB) (s : State) : Host.Outcome State Fault Refusal :=
  issue (.loopn h f) h s fun s c => do
    let pc := relTarget c f
    let n ← if f.a = 0 then .ok (Val.clean c.sys.loop) else readG c f.a.toNat
    clean 1 n
    let m := n.v - 1
    let jump ← if m ≠ 0 then (target pc).map some else .ok none
    let c := if f.a = 0 then { c with sys := { c.sys with loop := m } } else c.setReg f.a.toNat (.clean m)
    return { s, c, jump }

/-- RET (R196). -/
def execRet (h : Hdr) (f : FmtR) (s : State) : Host.Outcome State Fault Refusal :=
  issue (.ret h f) h s fun s c => do
    let (a, c) ← readSrc c f.a f.sa
    raise [(decide (2047 < uns a.v), causeLbound, a.v), (a.p, causePoison, 1)]
    return { s, c, jump := some (uns a.v), cost := 2 }

end Sys2Proof.Machine
end

