-- ==== Sys2Proof/Machine/System.lean ====
section
/-! DEFINITION. System calls, traps, breaks, returns and the end of a task (R197 to R200), the fetch (R54), and the events
of the scheduler (R23, R24, R164, R178). -/

namespace Sys2Proof.Machine

open Sys2Proof

/-! ### Results that arrive later -/

/-- The result of an asynchronous instruction is written to its destination d (R149, R154): a g register is no longer
busy; a push on a port waits for room (none), and a push that cannot be made is a deferred fault of the instruction, ILLOP and
PRIV with its instruction word (R175, log entry 4). -/
def State.asyncWrite (s : State) (k : Nat) (d : BitVec 6) (v : Val) (t : Tok) : Option State :=
  let c := s.cell k
  let n := d.toNat
  if n ≤ 55 then some (s.setCell k (((c.setReg n v).unbusy n).fire t))
  else
    match push c (n - 56) v (c.defTag (n - 56)) 0 with
    | .ok c => some (s.setCell k (c.fire t))
    | .error (.wait _ _) => none
    | .error (.sink _) => some (s.fail k t causePoison 0)
    | .error .priv => some (s.fail k t 2 t.word)
    | .error _ => some (s.fail k t 1 t.word)

/-- The faulted asynchronous instruction writes nothing: its destination is no longer busy. -/
def State.asyncFail (s : State) (k : Nat) (d : BitVec 6) (t : Tok) (cause : BitVec 8) (tval : Word) : State :=
  (s.setCell k ((s.cell k).unbusy d.toNat)).fail k t cause tval

/-! ### Instructions -/

/-- The header word of a call (R197). -/
def svcHeader (imm : BitVec 29) (es : BitVec 3) (cell : Nat) (dom : BitVec 12) : Word :=
  at_ (field imm 24 5) 59 ||| at_ (field imm 16 8) 51 ||| at_ (field imm 0 16) 35 ||| at_ es.toNat 32 |||
  at_ cell 14 ||| at_ dom.toNat 2

/-- SVC (R197): two words go to the service; the reply writes D or faults the slot. -/
def execSvc (h : Hdr) (f : FmtI) (s : State) : Host.Outcome State Fault Refusal :=
  issue (.svc h f) h s fun s c => do
    let t := c.tok (.svc h f) h
    regsReady c [f.a, f.d]
    let (a, c) ← readSrc c f.a f.sa
    needDst c f.d
    clean 1 a
    if 4 ≤ c.calls.length then .error (.wait .pushFull .callRoom)
    let c ← claimDst c f.d
    let call : Call := { header := svcHeader f.imm h.es s.cur c.ident.dom, arg := a.v, d := f.d, tok := t }
    return { s, c := { c with calls := c.calls ++ [call], nonReplay := true }, async := true }

/-- The reply to call n of a cell reaches it (R197, R466). -/
def execSvcReply (cell n : Nat) (s : State) : Host.Outcome State Fault Refusal :=
  let c := s.cell cell
  match c.calls[n]? with
  | some q =>
    match q.reply with
    | some (status, value) =>
      let s' := s.setCell cell { c with calls := c.calls.eraseIdx n }
      if status = 0 then .next ((s'.asyncWrite cell q.d (.clean value) q.tok).getD s)
      else .next (s'.asyncFail cell q.d q.tok 14 status)
    | none => .next s
  | none => .next s

/-- TRAP (R198): entry 16 at itself, with SW. -/
def execTrap (h : Hdr) (f : FmtI) (s : State) : Host.Outcome State Fault Refusal :=
  issue (.trap h f) h s fun s c =>
    .error (.other (s.enter s.cur c 16
      { cause := 0, sw := true, tpc := c.pc, taken := c.pc, opb := 0x32, tval := simm f }))

/-- BRK (R180, R198): entry 18 at itself; no effect inside entry 16 or 18. -/
def execBrk (h : Hdr) (f : FmtI) (s : State) : Host.Outcome State Fault Refusal :=
  issue (.brk h f) h s fun s c =>
    let s := s.trace s.cur 3 (at_ (simm f).toNat 32 ||| at_ 31 16 ||| at_ (c.pc % 2048) 0)
    if c.inHandler then .ok { s, c }
    else .error (.other (s.enter s.cur c 18
      { cause := 0, brk := true, tpc := c.pc, taken := c.pc, opb := 0x35, tval := simm f }))

/-- The return from entry 16 or 18 (R199): ENTRY is PREV again, INTRAP clears, and the task goes on at the target; with
PREV = 31 it ends as DONE does. -/
def rett (i : Instr) (h : Hdr) (target : Cell → Nat) (s : State) : Host.Outcome State Fault Refusal :=
  issue i h s fun s c =>
    if c.inHandler = false then .error .illop
    else
      let prev := c.sys.trap.extractLsb' 27 5
      if prev = 31 then .error (.other (s.endTask s.cur { c with iseq := c.iseq + 1, readyAt := s.now + 3 }))
      else
        let t := target c
        if 2047 < t then .error (.cause causeLbound (ofNat t))
        else .ok { s
                   c := { c with sys := { c.sys with entry := prev, intrap := false } }
                   jump := some t, cost := 3 }

/-- sys.trap.TAKEN -/
def Cell.taken (c : Cell) : Nat := field c.sys.trap 16 11

/-- RETT.RETRY (R199): at TAKEN; after a return from entry 18 its breakpoint does not match that one issue. -/
def execRettRetry (h : Hdr) (f : FmtR) (s : State) : Host.Outcome State Fault Refusal :=
  issue (.rettRetry h f) h s fun s c =>
    if c.inHandler = false then .error .illop
    else
      let prev := c.sys.trap.extractLsb' 27 5
      if prev = 31 then .error (.other (s.endTask s.cur { c with iseq := c.iseq + 1, readyAt := s.now + 3 }))
      else
        let c' := { c with sys := { c.sys with entry := prev, intrap := false } }
        let c'' := if h.ee then c'.setSlot h.es.toNat .idle else c'
        .error (.other (s.setCell s.cur { c'' with
          st := .running, wait := none, step := 0, bpSkip := c.sys.entry = 18
          pc := c.taken, iseq := c.iseq + 1, readyAt := s.now + 3 }))

/-- RETT.NEXT (R199): at TAKEN + 1. -/
def execRettNext (h : Hdr) (f : FmtR) (s : State) : Host.Outcome State Fault Refusal :=
  rett (.rettNext h f) h (fun c => c.taken + 1) s

/-- RETT.REDO (R199): at sys.tpc as it holds now. -/
def execRettRedo (h : Hdr) (f : FmtR) (s : State) : Host.Outcome State Fault Refusal :=
  rett (.rettRedo h f) h (fun c => c.sys.tpc.toNat) s

/-- RETT.END (R199): ends the interrupted task as DONE would. -/
def execRettEnd (h : Hdr) (f : FmtR) (s : State) : Host.Outcome State Fault Refusal :=
  issue (.rettEnd h f) h s fun s c =>
    if c.inHandler = false then .error .illop
    else .error (.other (s.endTask s.cur { c with iseq := c.iseq + 1, readyAt := s.now + 3 }))

/-- DONE (R200): ends the running task, and in entry 16 or 18 the interrupted task as well. -/
def execDone (h : Hdr) (f : FmtR) (s : State) : Host.Outcome State Fault Refusal :=
  issue (.done h f) h s fun s c =>
    .error (.other (s.endTask s.cur { c with iseq := c.iseq + 1, readyAt := s.now + 1 }))

/-- An unassigned opcode raises ILLOP at its issue (R55, R73, R79). -/
def execUnassignedOpcode (w : Word) (s : State) : Host.Outcome State Fault Refusal :=
  issue (.unassignedOpcode w) (Hdr.ofWord w) s fun _ _ => .error .illop

/-! ### The fetch -/

/-- Fetch at word index 2,048 or above raises LBOUND, reported at that PC (R54), once the cost of the instruction before has passed
(R203). There is no instruction word, and OPB is 0 (log entry 39). -/
def State.fetchBound (s : State) (k : Nat) : State :=
  let c := s.cell k
  { s with now := max s.now c.readyAt }.trapHere k c 0 causeLbound (ofNat c.pc)

/-- The instruction word at the PC of cell k. -/
def State.fetchWord (s : State) (k : Nat) : Word := (s.cell k).code (s.cell k).pc

/-! ### Events of the scheduler -/

/-- The scheduler of an idle cell looks for the next task (R23, R168). -/
def execTaskDispatch (cell : Nat) (s : State) : Host.Outcome State Fault Refusal :=
  if (s.cell cell).st = .idle then .next (s.boundary cell) else .next s

/-- The times since which the entries of a cell have been runnable are brought up to date, from which R23 computes the
effective priorities. -/
def execPriorityAging (cell : Nat) (s : State) : Host.Outcome State Fault Refusal :=
  if (s.cell cell).started then .next (s.modCell cell (fun c => c.noteRunnable s.now)) else .next s

/-- A task that has slept for WLIM * 1,024 clk is reported once and WDE is set; it sleeps on (R178). -/
def execWatchdogSleepLimit (cell : Nat) (s : State) : Host.Outcome State Fault Refusal :=
  let c := s.cell cell
  let lim := c.sys.wd.toNat * 1024
  if c.st = .asleep ∧ lim ≠ 0 ∧ c.wdSent = false ∧ c.sleepAt + lim ≤ s.now then
    .next ((s.setCell cell { c with wdSent := true, sys := { c.sys with wde := true } }).record
      (yOf cell) 6 c.ident.dom cell 0 (ofNat c.pc))
  else .next s

/-- A fetch that meets an uncorrectable word parks the cell with PCAUSE ISTORE (R164). -/
def execIstoreFetchError (cell : Nat) (s : State) : Host.Outcome State Fault Refusal :=
  let c := s.cell cell
  if c.st = .running then .next (s.park cell c .istore 0 (ofNat c.pc)) else .next s

end Sys2Proof.Machine
end

