-- ==== Sys2Proof/Machine/QueueEngine.lean ====
section
/-! DEFINITION. The instructions of the queue engine (R230 to R242). -/

namespace Sys2Proof.Machine

open Sys2Proof

/-- EF20[2:0], the port (R230). -/
def FmtX.port (f : FmtX) : Nat := field f.ef 0 3

/-- The port is bound inbound, or ILLOP (R230). -/
def needIn (c : Cell) (i : Nat) : Except Stop Unit := legal (c.binding i = 1)
/-- The port is bound outbound, or ILLOP (R230). -/
def needOut (c : Cell) (i : Nat) : Except Stop Unit := legal (c.binding i = 2)
/-- More than n words are stored at the port, or the task sleeps with pop-empty (R230). -/
def needHead (c : Cell) (i n : Nat) : Except Stop Unit :=
  if n < (c.inEp i).occ then .ok () else .error (.wait .popEmpty (.head i n))

/-- POP and PEEK: the word at place n of the port, its data to D and its side word to B (R231). -/
def popPeek (i : Instr) (h : Hdr) (f : FmtX) (n : Nat) (pops : Bool) (s : State) : Host.Outcome State Fault Refusal :=
  issue i h s fun s c => do
    let p := FmtX.port f
    needIn c p
    regsReady c [f.d, f.b]
    needHead c p n
    let e := c.headAt p n
    let c := if pops then (c.popHead p).clearRes p else c
    let c ← writeDst c f.d e.v
    let c ← writeDst c f.b (.clean e.side)
    return { s, c }

/-- POP (R231): pops even when RES holds a count. -/
def execPop (h : Hdr) (f : FmtX) (s : State) : Host.Outcome State Fault Refusal :=
  popPeek (.pop h f) h f 0 true s

/-- PEEK (R231): changes neither the ring nor RES. -/
def execPeek (h : Hdr) (f : FmtX) (s : State) : Host.Outcome State Fault Refusal :=
  popPeek (.peek h f) h f (field f.ef 3 2) false s

/-- PUSH (R232). -/
def execPush (h : Hdr) (f : FmtX) (s : State) : Host.Outcome State Fault Refusal :=
  issue (.push h f) h s fun s c => do
    let (a, c) ← readSrc c f.a 0
    let c ← push c (FmtX.port f) a (f.ef.extractLsb' 3 3) 1
    return { s, c }

/-- The n words of the local store from address a. -/
def Cell.localWords (c : Cell) (a n : Nat) : List Val := (List.range n).map (fun j => c.ldWord (a + 8 * j))

/-- Each word of a message passes the checks of a push (R121, R441). -/
def checkWords (c : Cell) (p : Nat) (tag : BitVec 3) (fld : Nat) : List Val → Except Stop Unit
  | [] => .ok ()
  | v :: vs => do
    checkCtl c tag v.v
    if v.p && (c.outEp p).leaves c.ident.dom then .error (.sink fld)
    else checkWords c p tag fld vs

/-- PUSHL (R233): L words of the local store as one message. -/
def execPushl (h : Hdr) (f : FmtX) (s : State) : Host.Outcome State Fault Refusal :=
  issue (.pushl h f) h s fun s c => do
    let p := FmtX.port f
    let tag : BitVec 3 := f.ef.extractLsb' 3 3
    needOut c p
    let a ← readG c f.a.toNat
    let b ← readG c f.b.toNat
    let reg := bit f.ef 6
    let n := if reg then uns b.v else field f.ef 7 10 + 1
    if n = 0 then
      if reg then clean 2 b
      return { s, c }
    else
      legal (n ≤ (c.outEp p).win.toNat)
      let ea := uns a.v
      raise [(decide (ea % 8 ≠ 0), causeAlign, a.v), (decide (0x20000 < ea + 8 * n), causeLbound, a.v),
             (a.p, causePoison, 1), (reg && b.p, causePoison, 2)]
      if s.storeBusy s.cur ea (8 * n) then .error (.wait .token .rebuilds)
      let vs := c.localWords ea n
      checkWords c p tag 1 vs
      if (c.outEp p).room < n then .error (.wait .pushFull (.room p n))
      return { s, c := c.enterMessage p tag vs, cost := (n + 1) / 2 }

/-- Words stored at U(a), U(a) + 8 and onward. -/
def Cell.storeWords (c : Cell) (a : Nat) : List Val → Cell
  | [] => c
  | v :: vs => (c.stWord a v).storeWords (a + 8) vs

/-- POPL (R234): up to MAXM1 + 1 words of the head word's message to the local store. -/
def execPopl (h : Hdr) (f : FmtX) (s : State) : Host.Outcome State Fault Refusal :=
  issue (.popl h f) h s fun s c => do
    let p := FmtX.port f
    needIn c p
    let a ← readG c f.a.toNat
    regsReady c [f.d, f.b]
    needHead c p 0
    needDst c f.d
    needDst c f.b
    let n := min (field f.ef 3 10 + 1) (c.restOfMessage p)
    let ea := uns a.v
    raise [(decide (ea % 8 ≠ 0), causeAlign, a.v), (decide (0x20000 < ea + 8 * n), causeLbound, a.v),
           (a.p, causePoison, 1)]
    if s.storeBusy s.cur ea (8 * n) then .error (.wait .token .rebuilds)
    let (c, hs) := c.popWords p n
    let c := ((c.clearRes p).noteWrite ea (8 * n) false).storeWords ea (hs.map (fun x => x.v))
    let c ← writeDst c f.d (.clean (ofNat n))
    let c ← writeDst c f.b (.clean ((hs.head?.map (fun x => x.side)).getD 0))
    return { s, c, cost := (n + 1) / 2 }

/-- A value of the state of a port, written to D clean (R235). -/
def portValue (i : Instr) (h : Hdr) (f : FmtX) (val : Cell → Nat → BitVec 2 → Except Stop Nat) (s : State) :
    Host.Outcome State Fault Refusal :=
  issue i h s fun s c => do
    let p := FmtX.port f
    let v ← val c p (c.binding p)
    let c ← writeDst c f.d (.clean (ofNat v))
    return { s, c }

/-- QLEN (R235). -/
def execQlen (h : Hdr) (f : FmtX) (s : State) : Host.Outcome State Fault Refusal :=
  portValue (.qlen h f) h f (fun c p b =>
    if b = 1 then .ok (c.inEp p).occ else if b = 2 then .ok (c.outEp p).inw
    else if b = 3 then .ok c.phaseOut.length else .error .illop) s

/-- QROOM (R235). -/
def execQroom (h : Hdr) (f : FmtX) (s : State) : Host.Outcome State Fault Refusal :=
  portValue (.qroom h f) h f (fun c p b =>
    if b = 1 then .ok ((c.inEp p).slots - (c.inEp p).occ) else if b = 2 then .ok (c.outEp p).room
    else if b = 3 then .ok (16 - c.phaseOut.length) else .error .illop) s

/-- QSEQ (R235). -/
def execQseq (h : Hdr) (f : FmtX) (s : State) : Host.Outcome State Fault Refusal :=
  portValue (.qseq h f) h f (fun c p b => if b = 2 then .ok (c.outEp p).seq.toNat else .error .illop) s

/-- QBIND (R236). -/
def execQbind (h : Hdr) (f : FmtX) (s : State) : Host.Outcome State Fault Refusal :=
  issue (.qbind h f) h s fun s c => do
    let p := FmtX.port f
    let mode : BitVec 2 := f.ef.extractLsb' 3 2
    legal (mode ≠ 1 || (c.inEp p).en)
    legal (mode ≠ 2 || ((c.outEp p).en && !(c.inEp p).diven))
    legal (mode ≠ 3 || c.phaseq.getLsbD 31)
    return { s, c := { c.clearRes p with bind := SMap.put c.bind p mode } }

/-- QTAG.OUT (R236). -/
def execQtagOut (h : Hdr) (f : FmtX) (s : State) : Host.Outcome State Fault Refusal :=
  issue (.qtagOut h f) h s fun s c => do
    let p := FmtX.port f
    needOut c p
    return { s, c := c.setOut p { c.outEp p with deftag := f.ef.extractLsb' 3 3 } }

/-- QTAG.IN (R236). -/
def execQtagIn (h : Hdr) (f : FmtX) (s : State) : Host.Outcome State Fault Refusal :=
  issue (.qtagIn h f) h s fun s c => do
    let p := FmtX.port f
    needIn c p
    return { s, c := c.setIn p { c.inEp p with acc := f.ef.extractLsb' 3 8 } }

/-- QSTK (R236). -/
def execQstk (h : Hdr) (f : FmtX) (s : State) : Host.Outcome State Fault Refusal :=
  issue (.qstk h f) h s fun s c => do
    let p := FmtX.port f
    needIn c p
    return { s, c := c.setIn p { c.inEp p with stk := f.ef.extractLsb' 3 16 } }

/-- Pop n words of port i. -/
def Cell.popMany (c : Cell) (i : Nat) : Nat → Cell
  | 0 => c
  | n + 1 => (c.popHead i).popMany i n

/-- QSKIP (R237): pops each word as it comes; `step` counts the words already popped. -/
def execQskip (h : Hdr) (f : FmtX) (s : State) : Host.Outcome State Fault Refusal :=
  issue (.qskip h f) h s fun s c => do
    let p := FmtX.port f
    needIn c p
    let a ← readG c f.a.toNat
    clean 1 a
    let left := uns a.v - c.step
    let n := min left (c.inEp p).occ
    let c' := if n = 0 then c else (c.popMany p n).clearRes p
    if n < left then .error (.waitIn s { c' with step := c.step + n } .popEmpty (.head p 0))
    return { s, c := c', cost := max 1 n }

/-- QWAITN (R237). -/
def execQwaitn (h : Hdr) (f : FmtX) (s : State) : Host.Outcome State Fault Refusal :=
  issue (.qwaitn h f) h s fun s c => do
    let p := FmtX.port f
    needIn c p
    let a ← readG c f.a.toNat
    legal (uns a.v ≤ (c.inEp p).slots)
    regsReady c [f.d]
    needDst c f.d
    clean 1 a
    if (c.inEp p).occ < uns a.v then .error (.wait .popEmpty (.head p (uns a.v - 1)))
    let c ← writeDst c f.d (.clean (ofNat (c.inEp p).occ))
    return { s, c }

/-- QDIV (R238): the head word and the rest of its message go to the divert edge. -/
def execQdiv (h : Hdr) (f : FmtX) (s : State) : Host.Outcome State Fault Refusal :=
  issue (.qdiv h f) h s fun s c => do
    let p := FmtX.port f
    needIn c p
    legal (c.inEp p).diven
    needHead c p 0
    let n := c.restOfMessage p
    let tag := BitVec.ofNat 3 (field (c.headAt p 0).side 0 3)
    if (c.outEp p).room < n then .error (.wait .pushFull (.room p n))
    let (c', hs) := c.popWords p n
    let vs := hs.map (fun x => x.v)
    checkWords c p 0 0 vs
    return { s, c := ((c'.retireLast p n).clearRes p).enterMessage p tag vs, cost := n }

/-- The ports of a mask that have a head word. -/
def Cell.headMask (c : Cell) (m : BitVec 8) : BitVec 8 :=
  (bitsOf m 8).foldl (fun w i => if c.hasHead i then w ||| oneBit 8 i else w) 0

/-- QSLEEP (R239). -/
def execQsleep (h : Hdr) (f : FmtX) (s : State) : Host.Outcome State Fault Refusal :=
  issue (.qsleep h f) h s fun s c => do
    let m : BitVec 8 := f.ef.extractLsb' 3 8
    legal ((bitsOf m 8).all (fun i => c.binding i = 1))
    regsReady c [f.d]
    if c.headMask m = 0 then .error (.wait .popEmpty (.anyHead m))
    let c ← writeDst c f.d (.clean ((c.headMask m).zeroExtend 64))
    return { s, c }

/-- QMARK (R240): the words popped from the ports of the mask are retired, and a checkpoint is written (R442). -/
def execQmark (h : Hdr) (f : FmtX) (s : State) : Host.Outcome State Fault Refusal :=
  issue (.qmark h f) h s fun s c => do
    let m : BitVec 8 := f.ef.extractLsb' 3 8
    let ports := (upto 8).filter (fun i => if m = 0 then c.binding i = 1 else m.getLsbD i)
    let c := ports.foldl Cell.retirePort c
    return { s, c := c.checkpoint (c.pc + 1) }

/-- Every word that was in the window of a port when its SEQ was `upto_` is stored by, or retired by, every attached
consumer (R240). -/
def Cell.flushedTo (c : Cell) (p : Nat) (retired : Bool) (upto_ : Nat) : Bool :=
  let e := c.outEp p
  e.ents.all (fun x =>
    let d := (BitVec.ofNat 32 upto_ - x.w.seq).toNat
    decide (d = 0 ∨ 1024 < d) || (e.consumers &&& ~~~(if retired then x.acked else x.stored)) = 0)

/-- QFLUSH (R240). -/
def execQflush (h : Hdr) (f : FmtX) (s : State) : Host.Outcome State Fault Refusal :=
  issue (.qflush h f) h s fun s c => do
    let p := FmtX.port f
    needOut c p
    let ret := bit f.ef 3
    let n := (c.outEp p).seq.toNat
    if c.flushedTo p ret n then return { s, c }
    else if h.ee then
      let t := c.tok (.qflush h f) h
      return { s, c := { c with flushes := c.flushes ++ [⟨p, ret, n, t⟩] }, async := true }
    else .error (.wait .pushFull (.flushed p ret n))

/-! ### The counter chain (R225, R241) -/

def Chain.limOf (x : Chain) (l : Nat) : Nat := SMap.get 0 x.lim l
def Chain.indOf (x : Chain) (l : Nat) : Nat := SMap.get 0 x.ind l

/-- CCFG.LIM (R241). -/
def execCcfgLim (h : Hdr) (f : FmtX) (s : State) : Host.Outcome State Fault Refusal :=
  issue (.ccfgLim h f) h s fun s c => do
    legal (!c.chain.run)
    let a ← readG c f.a.toNat
    legal (uns a.v ≤ 65536)
    clean 1 a
    return { s, c := { c with chain := { c.chain with lim := SMap.put c.chain.lim (field f.ef 0 2) (uns a.v) } } }

/-- CCFG.MODE (R241). -/
def execCcfgMode (h : Hdr) (f : FmtX) (s : State) : Host.Outcome State Fault Refusal :=
  issue (.ccfgMode h f) h s fun s c => do
    legal (!c.chain.run)
    let a ← readG c f.a.toNat
    legal (uns a.v < 32 && (c.inEp (field a.v 0 3)).en)
    clean 1 a
    return { s, c := { c with chain := { c.chain with port := a.v.extractLsb' 0 3, idx := bit a.v 3, mark := bit a.v 4 } } }

/-- The levels in use run without a gap from level 0 (R225). -/
def Chain.noGap (x : Chain) : Bool :=
  x.limOf 0 ≠ 0 && [1, 2, 3].all (fun l => x.limOf l = 0 || x.limOf (l - 1) ≠ 0)

/-- CSTART (R241). -/
def execCstart (h : Hdr) (f : FmtX) (s : State) : Host.Outcome State Fault Refusal :=
  issue (.cstart h f) h s fun s c => do
    let x := c.chain
    legal (!x.run && x.noGap && (x.idx || x.mark))
    let x := if bit f.ef 0 then x else { x with ind := [], marks := [], ranOut := false, seq := 0 }
    return { s
             c := { c with chain := { x with run := true, done := false, stopping := false, toks := [c.tok (.cstart h f) h] } }
             async := true }

/-- The chain stops, and the tokens that wait for it fire (R241). -/
def Cell.chainStop (c : Cell) (done : Bool) : Cell :=
  let c' := c.chain.toks.foldl Cell.fire c
  { c' with chain := { c.chain with run := false, done, stopping := false, toks := [] } }

/-- CSTOP (R241): at once unless marks of completed levels are owed. -/
def execCstop (h : Hdr) (f : FmtX) (s : State) : Host.Outcome State Fault Refusal :=
  issue (.cstop h f) h s fun s c =>
    if c.chain.run = false then .ok { s, c }
    else if c.chain.marks.isEmpty then .ok { s, c := c.chainStop false }
    else .ok { s
               c := { c with chain := { c.chain with stopping := true, toks := c.chain.toks ++ [c.tok (.cstop h f) h] } }
               async := true }

/-- CREAD (R241). -/
def execCread (h : Hdr) (f : FmtX) (s : State) : Host.Outcome State Fault Refusal :=
  issue (.cread h f) h s fun s c => do
    let c ← writeDst c f.d (.clean (if bit f.ef 0 then c.chain.stat else c.chain.idxWord))
    return { s, c }

/-- RNGRD (R242): a slot as the local store holds it. -/
def execRngrd (h : Hdr) (f : FmtX) (s : State) : Host.Outcome State Fault Refusal :=
  issue (.rngrd h f) h s fun s c => do
    let p := FmtX.port f
    needIn c p
    let a ← readG c f.a.toNat
    needDst c f.d
    needDst c f.b
    clean 1 a
    let e := c.ringSlot p ((c.inEp p).nth (uns a.v))
    let c ← writeDst c f.d e.v
    let c ← writeDst c f.b (.clean e.side)
    return { s, c }

end Sys2Proof.Machine
end

