-- ==== Sys2Proof/Machine/QueueEvents.lean ====
section
/-! DEFINITION. What the queue engine does by itself: arrivals and their checks (R213, R214, R435, R440, R447, R53), the
counter chain (R225), acknowledgements and NACKs (R218, R435), resends and the laggard timeout (R221, R435). -/

namespace Sys2Proof.Machine

open Sys2Proof

/-! ### Sources of words -/

/-- Update the window entries of a source that satisfy p. -/
def modEnts (p : WinEnt → Bool) (g : WinEnt → WinEnt) (es : List WinEnt) : List WinEnt :=
  es.map (fun x => if p x then g x else x)

/-- The window of a source, as the consumer that the source names sees it: its entries and its consumer number. -/
def State.window (s : State) : Src → List WinEnt × Nat
  | .cell c p n => (((s.cell c).outEp p).ents, n)
  | .eag e => ((s.eag e).win, 0)
  | .host p q => ((SMap.get {} s.hostq (16 * p + q)).ents, 0)
  | _ => ([], 0)

/-- The window of a source, changed. -/
def State.modWindow (s : State) (src : Src) (g : List WinEnt → List WinEnt) : State :=
  match src with
  | .cell c p _ => s.modCell c (fun x => x.setOut p { x.outEp p with ents := g (x.outEp p).ents })
  | .eag e => s.setEag e { s.eag e with win := g (s.eag e).win }
  | .host p q =>
    let x := SMap.get {} s.hostq (16 * p + q)
    { s with hostq := SMap.put s.hostq (16 * p + q) { x with ents := g x.ents } }
  | _ => s

/-- The consumer's endpoint in the DST layout (R226). -/
def State.destOf (s : State) : Src → BitVec 32
  | .cell c p n => ((s.cell c).outEp p).dstOf n
  | .eag e => (SMap.get 0 (s.eag e).regs 11).extractLsb' 0 32
  | .host p q => (SMap.get {} s.hostq (16 * p + q)).dst
  | .net n =>
    match s.net[n]? with
    | some m => BitVec.ofNat 32 (s.modNo.toNat * 2 ^ 21 + m.cell * 8 + m.port.toNat)
    | none => 0
  | _ => 0
/-- The outbound host queue that a source's words go to (R477). -/
def State.toHost (s : State) : Src → Option (Nat × Nat)
  | .cell c p 0 => ((s.cell c).outEp p).hostQ
  | _ => none
def dstModule (d : BitVec 32) : BitVec 10 := d.extractLsb' 21 10
def dstCell (d : BitVec 32) : Nat := field d 3 18
def dstPort (d : BitVec 32) : Nat := field d 0 3

/-- Words from the front of a list up to the end of the first word's message (R209). -/
def firstMessage : List WinEnt → List WinEnt
  | [] => []
  | x :: xs => if x.w.pos = 0 ∨ x.w.pos = 3 then [x] else x :: firstMessage xs

/-- A SEQSYNC word of the same producer stands ahead of a word for the same endpoint (R431). -/
def State.syncAhead (s : State) (src : Src) (w : QWord) : Bool :=
  let d := s.destOf src
  s.net.any (fun m => m.w.isCtl 6 && m.w.punit = w.punit && m.w.dom = w.dom && m.cell = dstCell d && m.port.toNat = dstPort d)

/-- A cell that has not started sends nothing (R50, R476). -/
def State.silent (s : State) : Src → Bool
  | .cell c _ _ => !(s.cell c).started
  | _ => false

/-- The next message of a source that has not reached its consumer and is not held back for a SUSPENDED domain: its
words, in order (R223). -/
def State.nextMessage (s : State) (src : Src) : List QWord :=
  match src with
  | .net n => (s.net[n]?.map (fun m => [m.w])).getD []
  | _ =>
    let (es, n) := s.window src
    let rest := es.filter (fun x => !x.arrived.getLsbD n)
    let m := firstMessage rest
    if s.silent src || m.any (fun x => x.held.getLsbD n || s.syncAhead src x.w) then [] else m.map (fun x => x.w)

/-- An entry of the window belongs to a list of words. -/
def inWords (ws : List QWord) (x : WinEnt) : Bool := ws.any (fun w => w.seq = x.w.seq)

/-- The words have reached their consumer. -/
def State.markArrived (s : State) (src : Src) (ws : List QWord) : State :=
  match src with
  | .net n => { s with net := s.net.eraseIdx n }
  | _ =>
    let n := (s.window src).2
    s.modWindow src (modEnts (inWords ws) (fun x => { x with arrived := setBit x.arrived n true }))

/-- The tokens of flushes whose condition holds fire (R240). -/
def Cell.checkFlushes (c : Cell) : Cell :=
  let met := c.flushes.filter (fun x => c.flushedTo x.port x.retired x.upto)
  let c' := met.foldl (fun c x => c.fire x.tok) c
  { c' with flushes := c.flushes.filter (fun x => !c.flushedTo x.port x.retired x.upto) }

/-- The flushes of the producer that a source names are looked at again. -/
def State.checkFlush (s : State) : Src → State
  | .cell c _ _ => s.modCell c Cell.checkFlushes
  | _ => s

/-- The words are stored in their consumer's ring, or have been handled there (R240). -/
def State.markStored (s : State) (src : Src) (ws : List QWord) : State :=
  let n := (s.window src).2
  (s.modWindow src (modEnts (inWords ws) (fun x => { x with stored := setBit x.stored n true }))).checkFlush src

/-- What names the sender of a message once it has arrived: a SEQSYNC word is acknowledged to the endpoint that sent it (R222). -/
def State.backSrc (s : State) : Src → Src
  | .net n =>
    match s.net[n]?.bind NetMsg.from_ with
    | some (c, p) => .sync c p
    | none => .net n
  | src => src

/-- Discarded or diverted words are acknowledged, or NACKed, at once (R218, R435). -/
def State.ackWords (s : State) (k : Nat) (src : Src) (ws : List QWord) (nack : Bool) : State :=
  match src with
  | .net _ => s
  | .chain => s
  | _ => (s.modCell k (fun c => { c with acks := c.acks ++ ws.map (fun w => ⟨src, w.seq, nack⟩) })).markStored src ws

/-! ### Arrival (R213, R214) -/

/-- Arrive of R213 for the message whose turn has come: the accepted-tag check with diversion or a QTAG trap, the oversize
check, and the store. None where it must wait: for room in the ring, for room in the window of the divert edge (R217), or for
a rebuild of the ring's words (R273). -/
def State.accept (s : State) (k i : Nat) (m : Msg) : Option State :=
  let c := s.cell k
  let e := c.inEp i
  match m.words with
  | [] => some s
  | w :: _ =>
    if !e.acc.getLsbD w.tag.toNat && !w.isCtl 6 then
      if e.diven then
        if (c.outEp i).room < m.words.length then none
        else
          let c := c.enterMessage i w.tag (m.words.map (fun x => ⟨x.v, x.p⟩))
          some ((s.setCell k c).ackWords k m.src m.words false)
      else
        let s := (s.setCell k (c.setIn i { e with tagf := true })).ackWords k m.src m.words false
        some (s.arrivalTrap k 9 (ofNat (i + 8 * w.tag.toNat)))
    else if e.slots < m.words.length then
      let s := (s.setCell k (c.setIn i { e with ovr := true })).ackWords k m.src m.words false
      some (s.arrivalTrap k 10 (ofNat (i + m.words.length * 2 ^ 16)))
    else if e.slots - e.occ < m.words.length ∨ s.portBusy k i then none
    else
      let c := (m.words.foldl (fun c w => c.storeWord i m.src w) c).refill i
      some ((s.setCell k (c.noteRunnable s.now)).markStored m.src m.words)

/-- A message that has reached an endpoint is handled, unless it or an earlier one must wait: then it waits its turn behind the
earlier ones (R213, R214). -/
def State.arrive (s : State) (k i : Nat) (m : Msg) : State :=
  let c := s.cell k
  let e := c.inEp i
  match (if e.waiting.isEmpty then s.accept k i m else none) with
  | some s' => s'
  | none => s.setCell k (c.setIn i { e with waiting := e.waiting ++ [m] })

/-- The rewind table of a cell, for a message of a producer unit at a port (R440): whether the message is to be stored,
and the table after it. -/
def Cell.rewindTest (c : Cell) (i : Nat) (w : QWord) (n : Nat) : Bool × List Rewind :=
  let s16 : BitVec 16 := w.seq.extractLsb' 0 16
  match c.rewinds.find? (fun r => r.port.toNat = i && r.punit = w.punit) with
  | none => (true, c.rewinds)
  | some r =>
    if s16 = r.expected then
      let r' := { r with expected := r.expected + BitVec.ofNat 16 n }
      let rest := c.rewinds.filter (fun x => x ≠ r)
      (true, if r'.expected = r'.stop then rest else r' :: rest)
    else (false, c.rewinds)

/-! ### Containment at arrival (R435, R436) -/

/-- The Quince entry of domain d in a row: after reset FREE, and RUNNING for domain 0 (R434). -/
def Row.quinceOf (r : Row) (d : Nat) : Word := SMap.get (if d = 0 then 1 else 0) r.quince d
def Row.domState (r : Row) (d : Nat) : Nat := field (r.quinceOf d) 0 3

/-- Cell k as a unit of a graph of domain d, which a swapped graph's record still names: the graph's ID, the graph, the node and the
unit. -/
def State.unitAt (s : State) (d : BitVec 12) (k : Nat) : Option (Nat × Graph × Nat × Nat) :=
  let gs := (s.carrier.svc.graphs ++ s.carrier.svc.waiting).filter (fun x => x.2.dom = d && !x.2.torn)
  (gs.filter (fun x => x.2.swapped) ++ gs).findSome? (fun x =>
    (x.2.units.find? (fun u => u.2.2 = k)).map (fun u => (x.1, x.2, u.1, u.2.1)))

/-- The edge of a word that reaches port i of a node: the producer knows it on this module; of another module's producer it is the
first edge that ends there (log entry 36). -/
def State.edgeOf (s : State) (edges : List EdgeDesc) (node i : Nat) : Src → Nat
  | .cell a p _ => ((s.cell a).outEp p).edge.toNat
  | .eag e => (s.eag e).edge.toNat
  | .host a b => (SMap.get ({} : HostQueue) s.hostq (16 * a + b)).edge.toNat
  | _ => (edges.findIdx? (fun e => e.dests.contains (node, i))).getD 0

/-- A word for a SWAPPED domain is appended to its spill queue: 32 bytes that name its edge, its graph, and the unit and the cell that
consume it (R436). -/
def State.spill (s : State) (row d k i : Nat) (src : Src) (w : QWord) : State :=
  let r := s.row row
  let n := SMap.get 0 r.spills d
  let base := field (r.quinceOf d) 16 44 * 2 ^ 16 % 2 ^ 50 + 32 * n
  let (graph, unit, edge) := match s.unitAt w.ddom k with
    | some (g, x, node, u) => (g, u, s.edgeOf x.img.edges node i src)
    | none => (field (s.cell k).ident.load 32 32, (s.cell k).ident.unit.toNat, s.edgeOf [] 0 i src)
  let m := s.mem.write base 8 w.v.toNat
  let m := m.write (base + 8) 8 w.side.toNat
  let m := m.write (base + 16) 8 (edge * 2 ^ 48 + graph)
  let m := m.write (base + 24) 8 (unit * 2 ^ 18 + k)
  { s with mem := m }.setRow row { r with spills := SMap.put r.spills d (n + 1) }

/-- The spill queue of a domain is full or absent. -/
def Row.spillFull (r : Row) (d : Nat) : Bool :=
  field (r.quinceOf d) 16 44 = 0 || decide (Config.spillCapacity ≤ SMap.get 0 r.spills d)

/-- Words that come to a disabled endpoint are discarded, and the row manager records kind 16 (R53): one record for a message,
with the number of its first word (log entry 42). -/
def State.disabled (s : State) (k i : Nat) (src : Src) (ws : List QWord) : State :=
  (s.ackWords k src ws true).record (yOf k) 16 (s.cell k).ident.dom k i (((ws.head?.map (fun (w : QWord) => w.seq)).getD 0).zeroExtend 64)

/-- The spill queue of a SWAPPED domain has no room, which sets SOV (R436). -/
def State.overflow (s : State) (row d : Nat) : State :=
  let r := s.row row
  s.setRow row { r with quince := SMap.put r.quince d (r.quinceOf d ||| 8) }

/-- A QUIESCE marker is absorbed at an enabled endpoint (R447): it sets QREQ and QCUT, counts unless it came from the cell itself, and
one with another CUT is discarded and records kind 12. -/
def State.absorb (s : State) (src : Src) (k i : Nat) (w : QWord) : State :=
  let c := s.cell k
  let cut : BitVec 32 := w.v.extractLsb' 0 32
  if c.qreq ∧ c.qcut ≠ cut then s.record (yOf k) 12 c.ident.dom k i w.v
  else
    let own := match src with
      | .cell a _ _ => decide (a = k)
      | _ => false
    let e := c.inEp i
    let c := c.setIn i { e with qc := if own then e.qc else e.qc + 1 }
    (s.setCell k { c with qreq := true, qcut := cut }).trace k 11 (cut.zeroExtend 64)

/-- A message reaches inbound endpoint i of cell k (R435, R53, R440, R447, R213). -/
def State.reach (s : State) (src : Src) (k i : Nat) (ws : List QWord) : State :=
  match ws with
  | [] => s
  | w :: _ =>
    let c := s.cell k
    let row := yOf k
    let d := w.ddom.toNat
    let st := (s.row row).domState d
    let back := s.backSrc src
    let hold : State :=
      let n := (s.window src).2
      s.modWindow src (modEnts (inWords ws) (fun x => { x with held := setBit x.held n true }))
    if st = 2 then hold
    else if st = 3 then
      if (s.row row).spillFull d then hold.overflow row d
      else ((ws.foldl (fun s x => s.spill row d k i src x) s).markArrived src ws).ackWords k back ws false
    else if st ≠ 1 ∨ c.ident.dom ≠ w.ddom then (s.markArrived src ws).ackWords k back ws true
    else if (c.inEp i).en = false then (s.markArrived src ws).disabled k i back ws
    else
      let (keep, tbl) := c.rewindTest i w ws.length
      let s := s.markArrived src ws
      if keep = false then s.ackWords k back ws false
      else
        let s := s.modCell k (fun x => { x with rewinds := tbl })
        if w.isCtl 2 then (s.ackWords k back ws false).absorb src k i w else s.arrive k i ⟨back, ws⟩

/-- The virtual channel of a source's words: the priority of its edge (R205). -/
def State.edgeVc (s : State) : Src → BitVec 2
  | .cell c p _ => ((s.cell c).outEp p).prio
  | .eag e => (SMap.get 0 (s.eag e).regs 10).extractLsb' 4 2
  | .host p q => (SMap.get ({} : HostQueue) s.hostq (16 * p + q)).prio
  | _ => 0

/-- The circuit of a source's edge (R405). -/
def State.onCircuit (s : State) : Src → Option CircuitEnd
  | .cell c p _ => s.circuit c p
  | _ => none

/-- A message that comes along a circuit to an end of it (R405): an inbound port, or a channel that leaves the module. -/
def State.alongCircuit (s : State) (src : Src) (e : CircuitEnd) (ws : List QWord) : State :=
  match e with
  | .port k i => s.reach src k i ws
  | .channel p c =>
    let x := s.linkPort p
    if x.up = false ∨ ws.isEmpty then s
    else (s.markArrived src ws).setLinkPort p { x with
      circ := SMap.put x.circ c (SMap.get [] x.circ c ++ ws.map (fun w => (src, w.seq))) }
  | .nowhere => s

/-- The next message of a source reaches its endpoint on this module (R213, R435), goes along its circuit (R405), or leaves for another
module as a packet (R211, R397). A QUIESCE marker reaches a port of this module by its own operation. An error on a circuit that its code
cannot correct poisons the words. -/
def State.moveMessage (s : State) (src : Src) (bad : Bool) : State :=
  let ws := s.nextMessage src
  let d := s.destOf src
  if (s.toHost src).isSome then s
  else
    match s.onCircuit src with
    | some (.channel p c) => s.alongCircuit src (.channel p c) (if bad then ws.map (fun w => { w with p := true }) else ws)
    | some e =>
      if ws.any (fun w => w.isCtl 2) then s else s.alongCircuit src e (if bad then ws.map (fun w => { w with p := true }) else ws)
    | none =>
      if bad ∨ ws.isEmpty then s
      else if dstModule d ≠ s.modNo then
        (s.markArrived src ws).sendPacket (dstModule d).toNat (s.edgeVc src) (.words (dstCell d) (dstPort d) src ws)
      else if ws.any (fun w => w.isCtl 2) then s
      else s.reach src (dstCell d) (dstPort d) ws

def execQueueMessageArrival (src : Src) (s : State) : Host.Outcome State Fault Refusal := .next (s.moveMessage src false)

/-- A message on a circuit suffers an error that its code cannot correct (R405). -/
def State.circuitError (s : State) (src : Src) : State := if (s.onCircuit src).isSome then s.moveMessage src true else s

/-- A message comes in on a circuit channel and follows its chain (R405); it waits on the lanes while its domain is SUSPENDED, or
SWAPPED with no room to spill. -/
def State.circuitWords (s : State) (p c : Nat) (ws : List QWord) : State :=
  match s.channelEnd p c with
  | .port k i =>
    let d := ((ws.head?).map (fun w => w.ddom.toNat)).getD 0
    let r := s.row (yOf k)
    if (s.linkPort p).up = false ∨ r.domState d = 2 ∨ (r.domState d = 3 ∧ r.spillFull d) then s
    else s.reach (.channel p c) k i ws
  | .channel q e =>
    let y := s.linkPort q
    if (s.linkPort p).up = false ∨ y.up = false then s
    else s.setLinkPort q { y with circ := SMap.put y.circ e (SMap.get [] y.circ e ++ ws.map (fun w => (.channel p c, w.seq))) }
  | .nowhere => s

/-- The oldest message that waits at an endpoint is handled as R213 says, once there is room for it (R214). -/
def execQueueMessageStoreDeferred (cell port : Nat) (s : State) : Host.Outcome State Fault Refusal :=
  let c := s.cell cell
  let e := c.inEp port
  match e.waiting with
  | [] => .next s
  | m :: rest => .next (((s.setCell cell (c.setIn port { e with waiting := rest })).accept cell port m).getD s)

/-- A QUIESCE marker reaches its endpoint on this module (R447). -/
def execQuiesceArrival (src : Src) (s : State) : Host.Outcome State Fault Refusal :=
  let ws := s.nextMessage src
  let d := s.destOf src
  if ws.all (fun w => !w.isCtl 2) ∨ dstModule d ≠ s.modNo ∨ (s.toHost src).isSome then .next s
  else .next (s.reach src (dstCell d) (dstPort d) ws)

/-! ### Acknowledgements (R217, R218, R435) -/

/-- Entries that every consumer has acknowledged leave the window from its head (R217, R218). -/
def retireFront (cons : BitVec 8) : List WinEnt → List WinEnt
  | [] => []
  | x :: xs => if (cons &&& ~~~x.acked) = 0 then retireFront cons xs else x :: xs

/-- The root has consumed the oldest word of the phase endpoint (R29). -/
def Cell.phaseTaken (c : Cell) : Cell := { c with phaseOut := c.phaseOut.drop 1, phaseSent := c.phaseSent - 1 }

/-- An acknowledgement, or a NACK, reaches the producer (port 8 stands for its phase endpoint): the word's entry is acknowledged by the consumer, and the head of
the window is freed. A NACK also sets OST.NACK (R435). -/
def State.applyAck (s : State) (a : Ack) : State :=
  let n := (s.window a.src).2
  let mark (es : List WinEnt) : List WinEnt :=
    modEnts (fun x => x.w.seq = a.seq) (fun x => { x with acked := setBit x.acked n true, stored := setBit x.stored n true }) es
  match a.src with
  | .cell c 8 _ => s.modCell c Cell.phaseTaken
  | .cell c p _ =>
    s.modCell c (fun x =>
      let e := x.outEp p
      (x.setOut p { e with ents := retireFront e.consumers (mark e.ents), nack := e.nack || a.nack }).checkFlushes)
  | .eag e =>
    let x := s.eag e
    s.setEag e { x with win := retireFront 1 (mark x.win), nack := x.nack || a.nack }
  | .host p q =>
    let x := SMap.get {} s.hostq (16 * p + q)
    { s with hostq := SMap.put s.hostq (16 * p + q) { x with ents := retireFront 1 (mark x.ents) } }
  | .sync c p => if a.nack then s.modCell c (fun x => x.setOut p { x.outEp p with nack := true }) else s
  | .far m src => s.sendPacket m (Config.packetVc 3) (.retire src a.seq a.nack)
  | _ => s

/-- An acknowledgement comes back on a circuit channel for the oldest word that left on it (R404). -/
def State.circuitAck (s : State) (p c : Nat) (nack : Bool) : State :=
  let x := s.linkPort p
  match SMap.get [] x.circ c with
  | (src, q) :: rest => (s.setLinkPort p { x with circ := SMap.put x.circ c rest }).applyAck ⟨src, q, nack⟩
  | [] => s

/-- The oldest acknowledgement of a consumer reaches its producer, if it is of the kind asked for. -/
def State.takeAck (s : State) (cell : Nat) (nack : Bool) : State :=
  let c := s.cell cell
  match c.acks with
  | a :: rest => if a.nack = nack then (s.setCell cell { c with acks := rest }).applyAck a else s
  | [] => s

/-- The oldest retirement acknowledgement of a consumer reaches the producer (R218). -/
def execWordAck (cell : Nat) (s : State) : Host.Outcome State Fault Refusal := .next (s.takeAck cell false)

/-- The oldest NACK of a consumer reaches the producer (R435). -/
def execWordNack (cell : Nat) (s : State) : Host.Outcome State Fault Refusal := .next (s.takeAck cell true)

/-- The producer resends the words it holds for a SUSPENDED domain (R435). -/
def execSuspendedResend (src : Src) (s : State) : Host.Outcome State Fault Refusal :=
  let n := (s.window src).2
  .next (s.modWindow src (fun es => es.map (fun x => { x with held := setBit x.held n false })))

/-- The laggard timeout of an endpoint (R221): every consumer that has not acknowledged the oldest word is detached, unless
every consumer lags. A consumer detached before counts as having acknowledged every word (log entry 57). The timeout runs from the
clk at which the task came to sleep on this window. -/
def execLaggardTimeout (cell port : Nat) (s : State) : Host.Outcome State Fault Refusal :=
  let c := s.cell cell
  let e := c.outEp port
  let due := decide (e.lagt ≠ 3) && decide (c.waitAt + 2 ^ (16 + 4 * e.lagt.toNat) ≤ s.now)
  if c.blocked port && due then
    match e.ents with
    | [] => .next s
    | x :: _ =>
      let lag := e.consumers &&& ~~~x.acked
      if lag = e.consumers then .next s
      else
        let es := e.ents.map (fun y =>
          { y with arrived := y.arrived ||| lag, stored := y.stored ||| lag, acked := y.acked ||| lag })
        let c := c.setOut port { e with det := e.det ||| lag, ents := retireFront e.consumers es }
        .next ((s.setCell cell c.checkFlushes).record (yOf cell) 7 c.ident.dom cell (port * 256 + lag.toNat)
          (x.w.seq.zeroExtend 64))
  else .next s

/-! ### The counter chain (R225) -/

/-- The highest level in use. -/
def Chain.topLevel (x : Chain) : Nat :=
  if x.limOf 3 ≠ 0 then 3 else if x.limOf 2 ≠ 0 then 2 else if x.limOf 1 ≠ 0 then 1 else 0

/-- Level l is at its last value. -/
def Chain.atLast (x : Chain) (l : Nat) : Bool := decide (max (x.limOf l) 1 ≤ x.indOf l + 1)

/-- The levels completed by a step of the innermost loop (R225). -/
def Chain.completed (x : Chain) : List Nat :=
  (List.range (x.topLevel + 1)).filter (fun l => (List.range l).all (fun j => x.atLast (j + 1)))

/-- The outer indices after the innermost loop completes. -/
def Chain.carry (x : Chain) : Chain :=
  let z := { x with ind := SMap.put x.ind 0 0 }
  if x.atLast 1 = false then { z with ind := SMap.put z.ind 1 (x.indOf 1 + 1) }
  else
    let z := { z with ind := SMap.put z.ind 1 0 }
    if x.atLast 2 = false then { z with ind := SMap.put z.ind 2 (x.indOf 2 + 1) }
    else
      let z := { z with ind := SMap.put z.ind 2 0 }
      if x.atLast 3 = false then { z with ind := SMap.put z.ind 3 (x.indOf 3 + 1) }
      else { z with ind := SMap.put z.ind 3 0, ranOut := true }

/-- The innermost loop has completed: the marks it owes, and the next indices. -/
def Chain.finishInner (x : Chain) : Chain :=
  { x.carry with marks := if x.mark then x.completed else [] }

/-- The next word of the chain, and the unit after it (R225). -/
def Chain.next (x : Chain) : (BitVec 3 × Word) × Chain :=
  match x.marks with
  | l :: rest => ((7, ofNat (2 ^ 56 + l * 2 ^ 48 + x.limOf l)), { x with marks := rest })
  | [] =>
    if x.idx then
      let w := x.idxWord
      if x.indOf 0 + 1 < x.limOf 0 then ((0, w), { x with ind := SMap.put x.ind 0 (x.indOf 0 + 1) })
      else ((0, w), x.finishInner)
    else
      let y := x.finishInner
      match y.marks with
      | l :: rest => ((7, ofNat (2 ^ 56 + l * 2 ^ 48 + y.limOf l)), { y with marks := rest })
      | [] => ((0, 0), y)

/-- The counter chain writes its next word, unless an earlier message waits at the endpoint or this one would have to; it stops
after the last word of the run, which sets DONE, or after the owed marks when a CSTOP waits (R225, R241). A word for an endpoint
that has been disabled since is discarded (R53). -/
def execCounterChainEmit (cell : Nat) (s : State) : Host.Outcome State Fault Refusal :=
  let c := s.cell cell
  let x := c.chain
  let i := x.port.toNat
  let e := c.inEp i
  if x.run = false then .next s
  else if x.marks.isEmpty && x.ranOut then .next (s.setCell cell (c.chainStop true))
  else
    let ((tag, v), y) := x.next
    let w : QWord := ⟨v, false, tag, c.ident.unit, x.seq.zeroExtend 32, 0, 0, c.ident.dom, c.ident.dom⟩
    let t := s.setCell cell { c with chain := { y with seq := x.seq + 1 } }
    match (if e.en = false then some (t.disabled cell i .chain [w])
           else if e.waiting.isEmpty then t.accept cell i ⟨.chain, [w]⟩ else none) with
    | none => .next s
    | some t =>
      if y.marks.isEmpty && (y.ranOut || y.stopping) then .next (t.modCell cell (fun c => c.chainStop y.ranOut)) else .next t

end Sys2Proof.Machine
end

