-- ==== Sys2Proof/Machine/Translate.lean ====
section
/-! DEFINITION. The physical map (R37, R38), home tiles (R268, R269), translation entries and caches (R136 to R138), the
page-kind table (R130), and the words of global memory with their poison, presence and dirty bits. -/

namespace Sys2Proof.Machine

open Sys2Proof

/-! ### The physical map -/

def hbmBase : Nat := 0x10000000000
def hbmTop : Nat := 0x28000000000

/-- An address within a module lies in a vault or in HBM (R37). -/
def populated (a : Nat) : Bool :=
  (decide (a < 0x2000000000) && decide (a % 0x2000000 < 0x1800000)) || (decide (hbmBase ≤ a) && decide (a < hbmTop))

/-- A 60-bit physical address names this module. -/
def State.own (s : State) (pa : Nat) : Bool := decide (pa / 2 ^ 50 = s.modNo.toNat)

/-- A 60-bit physical address exists: it names a module of the system and a populated place (R38). -/
def State.exists_ (s : State) (pa : Nat) : Bool :=
  (s.own pa || decide (pa / 2 ^ 50 < Config.systemModules)) && populated (pa % 2 ^ 50)

/-- The home tile of an address within the module: the block for a vault, 4,096 and up for an HBM tile (R268, R269). -/
def homeTile (a : Nat) : Nat :=
  if a < hbmBase then a / 0x2000000 else 4096 + 4 * ((a - hbmBase) / 2 ^ 36) + a / 4096 % 4

/-- The 2 MiB region of an address (R142). -/
def regionOf (a : Nat) : Nat := a / 0x200000

/-! ### Entries (R136, R137) -/

def pKind (e : Word) : Nat := field e 62 2
def pSizeCode (e : Word) : Nat := field e 60 2
def pAddr (e : Word) : Nat := field e 16 44 * 2 ^ 16
def pDom (e : Word) : BitVec 12 := e.extractLsb' 4 12
def pWrite (e : Word) : Bool := bit e 3
def pHostShared (e : Word) : Bool := bit e 2
def pGlobal (e : Word) : Bool := bit e 1
def pValid (e : Word) : Bool := bit e 0
/-- The page size of a size code; the reserved code is given the smallest. -/
def pageSize (code : Nat) : Nat := if code = 1 then 0x200000 else if code = 2 then 0x100000000 else 0x10000
def pSize (e : Word) : Nat := pageSize (pSizeCode e)

/-- An entry that an access may use (R137): the checks on the entry, the write permission and the domain. -/
def entryOk (e : Word) (dom : BitVec 12) (write : Bool) : Bool :=
  pValid e && pKind e ≠ 3 && pSizeCode e ≠ 3 && decide (pAddr e % pSize e = 0) &&
  (!pHostShared e || (pKind e = 0 && decide (hbmBase ≤ pAddr e % 2 ^ 50) && decide (pAddr e % 2 ^ 50 < hbmTop))) &&
  (!write || pWrite e) && (pGlobal e || dom = pDom e || dom = 0)

/-- A page contains a virtual address. -/
def Page.holds (p : Page) (va : Nat) : Bool := decide (p.va ≤ va) && decide (va < p.va + pSize p.entry)
/-- The physical address of va in a page. -/
def Page.addr (p : Page) (va : Nat) : Nat := pAddr p.entry + (va - p.va)

/-! ### The page kinds (R130) -/

/-- The accesses that the table of R130 tells apart. -/
inductive KindUse where
  | plainOnly | fillOnly | clrf | atomic | source | dest
  deriving DecidableEq, Repr

/-- The access is allowed on the kind: 0 plain, 1 fill-once, 2 accumulate (R130). -/
def kindOk (u : KindUse) (kind : Nat) : Bool :=
  match u with
  | .plainOnly => kind = 0
  | .fillOnly => kind = 1
  | .clrf => kind = 1
  | .atomic => kind = 0 || kind = 2
  | .source => kind ≠ 2
  | .dest => kind ≠ 2

/-! ### The caches (R138) -/

/-- A page moved, or put, to the front of a least-recently-used list of n pages. -/
def lruPut (n : Nat) (ps : List Page) (p : Page) : List Page := (p :: ps.filter (fun x => x ≠ p)).take n

/-- A translation change of a range that holds va is in progress (R139). -/
def State.changing (s : State) (va : Nat) : Bool := s.changes.any (fun x => decide (x.va ≤ va) && decide (va < x.va + x.len))

/-- The answer of the caches of cell k to a translation, or the need to ask the pager. A miss of the cell's own cache in a range that
is changing is answered after the change (R139). -/
def State.lookup (s : State) (k : Nat) (c : Cell) (va : Nat) : Option Page :=
  match c.tlb.find? (fun p => p.holds va) with
  | some p => some p
  | none =>
    if s.changing va then none else (s.block (blockOf k)).tlb.find? (fun p => p.tag = c.ident.dom && p.holds va)

/-- A page put in a block's cache of 128 sets of 8 ways (R138); which set, and which way of a full one it replaces, the spec does not
say (log entry 54). -/
def tlbPut (fresh : Nat) (ps : List Page) (p : Page) : List Page :=
  let ps := ps.filter (fun x => x ≠ p)
  let set := ps.filter (fun x => Config.tlbSet x.va % 128 = Config.tlbSet p.va % 128)
  if set.length < 8 then p :: ps else p :: ps.filter (fun x => set[Config.tlbWay fresh % 8]? ≠ some x)

/-- What a block's cache answers a copy engine or an EAG for a domain (R138): a page, the pager's refusal, or that the pager must be
asked. -/
inductive Looked where
  | page (p : Page)
  | refused
  | miss

def State.engineLookup (s : State) (b : Nat) (dom : BitVec 12) (va : Nat) : Looked :=
  if (s.block b).refused.contains (dom, va) then .refused
  else
    match (s.block b).tlb.find? (fun p => p.tag = dom && p.holds va) with
    | some p => .page p
    | none => .miss

/-- The request word of a miss: DOM, VA[56:16] and WR (R473). -/
def missWord (dom : BitVec 12) (va : Nat) (write : Bool) : Word :=
  at_ dom.toNat 52 ||| at_ (va / 2 ^ 16 % 2 ^ 41) 11 ||| at_ (b2n write) 10

/-- A miss of block b reaches pager unit b mod 256 as a request word, unless the same one waits there (R473). -/
def State.queueMiss (s : State) (b : Nat) (who : MissBy) (dom : BitVec 12) (va : Nat) (write : Bool) : State :=
  let q := SMap.get [] s.misses (b % 256)
  if q.any (fun x => x.1 = who && x.2.1 = va) then s
  else { s with misses := SMap.put s.misses (b % 256) (q ++ [(who, va, missWord dom va write)]) }

/-- The engines of block b ask the pager for a translation (R138). -/
def State.askPager (s : State) (b : Nat) (dom : BitVec 12) (va : Nat) (write : Bool) : State := s.queueMiss b (.block b dom) dom va write

/-- The engines of block b have taken notice of a refusal. -/
def State.dropRefused (s : State) (b : Nat) (dom : BitVec 12) (va : Nat) : State :=
  let x := s.block b
  s.setBlock b { x with refused := x.refused.filter (fun y => y ≠ (dom, va)) }

/-! ### Words of global memory -/

/-- The 64-bit word that holds address a of the module, with its poison bit. -/
def State.gword (s : State) (a : Nat) : Val := ⟨ofNat (s.mem.read (a / 8 * 8) 8), s.memPoison.has (a / 8)⟩

/-- n bytes at address a, with the poison bit of the word (R122, R282). -/
def State.gread (s : State) (a n : Nat) : Nat × Bool := (s.mem.read a n, s.memPoison.any (a / 8) ((a + n - 1) / 8 - a / 8 + 1))

/-- Store n bytes at address a: a whole word takes poison bit p, a part of a poisoned word leaves the bit set (R284, R166). The
page is dirty (R451). -/
def State.gwrite (s : State) (a n v : Nat) (p : Bool) : State :=
  { s with
    mem := s.mem.write a n v
    memPoison := if n = 8 ∧ a % 8 = 0 then s.memPoison.put (a / 8) p else s.memPoison
    upsets := SMap.erase s.upsets (a / 8)
    dirty := s.dirty.put (a / 0x10000) true }

/-- The presence bit of the word at address a (R275). -/
def State.isPresent (s : State) (a : Nat) : Bool := s.present.has (a / 8)
def State.setPresent (s : State) (a : Nat) (b : Bool) : State := { s with present := s.present.put (a / 8) b }

/-! ### What makes an access wait at its home tile -/

def State.region (s : State) (r : Nat) : Region := SMap.get {} s.regions r
def State.setRegion (s : State) (r : Nat) (x : Region) : State := { s with regions := SMap.put s.regions r x }

/-- A device access to the word is held: its region's owner is the host, or a transfer to the host is in progress (R143,
R145, R251). -/
def State.hostHeld (s : State) (a : Nat) : Bool :=
  let r := s.region (regionOf a)
  r.host || (!r.reqs.isEmpty && r.since.isNone)

/-- The word at address a is not to be accessed before its parity group is rebuilt (R273). -/
def State.vaultBusy (s : State) (a : Nat) : Bool := s.groupBusy (groupOf (a / 8))

/-! ### The tile's watchpoint (R489) and its deferred reads (R276) -/

/-- A WATCH record of the tile of the home block of an access of n bytes at address a by source `src`, of domain dom. -/
def State.tileWatch (s : State) (a n : Nat) (rd wr : Bool) (src : Nat) (dom : BitVec 12) : State :=
  if hbmBase ≤ a then s
  else
    let o := a % 0x2000000
    let f := (s.block (a / 0x2000000)).tw
    let ctl := SMap.get 0 f 56
    let lo := (SMap.get 0 f 57).toNat
    if ctl.getLsbD 11 && ((ctl.getLsbD 10 && rd) || (ctl.getLsbD 9 && wr)) &&
        (!ctl.getLsbD 8 || (SMap.get 0 f 58).extractLsb' 0 12 = dom) &&
        decide (lo < o + n) && decide (o < lo + 2 ^ field ctl 0 5) then
      s.pushTrace (rowOfBlock (a / 0x2000000)) 4 src dom
        (at_ (b2n wr) 63 ||| at_ (Nat.log2 n) 61 ||| at_ o 0)
    else s

/-- The deferred-read table of a tile. -/
def State.deferTable (s : State) (tile : Nat) : List (Nat × Deferred) := SMap.get [] s.deferred tile

/-- A read of the empty word at address a takes an entry of its tile's table of 128, of which 8 are kept for reads that
have been NACKed 16 times (R276, R277); none if the table is full for it. MTSTAT.DEFMAX follows the occupancy (R274). -/
def State.defer (s : State) (a : Nat) (d : Deferred) (nacks : Nat) : Option State :=
  let tile := homeTile a
  let q := s.deferTable tile
  if q.length < (if 16 ≤ nacks then 128 else 120) then
    let s := { s with deferred := SMap.put s.deferred tile (q ++ [(a / 8, d)]) }
    if tile < 4096 then
      let b := s.block tile
      let m := max (field b.mtstat 0 8) (q.length + 1)
      some (s.setBlock tile { b with mtstat := b.mtstat &&& ~~~0xFF#64 ||| ofNat m })
    else some s
  else none

/-- An access joins those that its region holds (R143). -/
def State.holdAt (s : State) (a : Nat) (d : Deferred) : State :=
  let r := s.region (regionOf a)
  if r.held.contains (a, d) then s else s.setRegion (regionOf a) { r with held := r.held ++ [(a, d)] }

/-- The entry of an access is performed, or returned, with a new status. -/
def State.setAccess (s : State) (cell seq : Nat) (st : AccStatus) : State :=
  s.modCell cell (fun c => { c with accs := c.accs.map (fun x => if x.tok.seq = seq then { x with status := st } else x) })

/-- The reply to an access of another module (R399). -/
def State.farReply (s : State) (m : Nat) (who : Asker) (cause : BitVec 8) (v : Val) (flags : BitVec 5) : State :=
  s.sendPacket m (Config.packetVc 3) (.reply who cause v.v v.p flags)

/-- The size bytes of the word at address a, with its poison bit. -/
def State.part (s : State) (a size : Nat) : Val :=
  let (n, p) := s.gread a size
  ⟨ofNat n, p⟩

/-! ### Exchange groups (R406) -/

def State.xgroup (s : State) (g : Nat) : XGroup := SMap.get {} s.carrier.xgroups g
def State.setXgroup (s : State) (g : Nat) (x : XGroup) : State :=
  { s with carrier := { s.carrier with xgroups := SMap.put s.carrier.xgroups g x } }
def XGroup.en (g : XGroup) : Bool := bit g.cfg 31
def XGroup.sys (g : XGroup) : Bool := bit g.cfg 30
def XGroup.np (g : XGroup) : Nat := field g.cfg 20 10 + 1
def XGroup.dl (g : XGroup) : Nat := field g.cfg 0 20
/-- The slot size Q. -/
def XGroup.q (g : XGroup) : Nat := if g.sys then 0x100000 else 0x10000
/-- The module of the agent of a participant. -/
def XGroup.moduleOf (g : XGroup) (p : Nat) : Nat := field (SMap.get 0 g.agents p) 21 10
/-- The agent cell of a participant, if it lies on this module. -/
def State.agentCell (s : State) (g : XGroup) (p : Nat) : Option Nat :=
  let a := SMap.get 0 g.agents p
  if p < g.np ∧ field a 21 10 = s.modNo.toNat then some (field a 3 18) else none

def Cell.agent (c : Cell) (g : Nat) : Agent := SMap.get {} c.agents g
def Cell.setAgent (c : Cell) (g : Nat) (a : Agent) : Cell := { c with agents := SMap.put c.agents g a }

/-! ### The words of the engines -/

/-- The running copy commands of block b that the place in program order of a cell names, changed. -/
def State.modCopy (s : State) (b cell seq : Nat) (f : CopyCmd → CopyCmd) : State :=
  let x := s.block b
  s.setBlock b { x with running := x.running.map (fun m => if m.cell = cell ∧ m.tok.seq = seq then f m else m) }

/-- How far an engine is with a word. -/
def State.wordSt (s : State) : Asker → Option WordSt
  | .copy b k n w => ((s.block b).running.find? (fun m => m.cell = k && m.tok.seq = n)).bind (fun m => SMap.find m.words w)
  | .eag e w => SMap.find (s.eag e).words w
  | .pair g p w => (s.agentCell (s.xgroup g) p).bind (fun k => SMap.find ((s.cell k).agent g).words w)
  | _ => none

/-- An engine's word is so far. -/
def State.setWord (s : State) (who : Asker) (st : WordSt) : State :=
  match who with
  | .copy b k n w => s.modCopy b k n (fun m => { m with words := SMap.put m.words w st })
  | .eag e w => s.setEag e { s.eag e with words := SMap.put (s.eag e).words w st }
  | .pair g p w =>
    match s.agentCell (s.xgroup g) p with
    | some k => s.modCell k (fun c => c.setAgent g { c.agent g with words := SMap.put (c.agent g).words w st })
    | none => s
  | _ => s

/-- An exchange agent's engine is through with a word. -/
def State.dropWord (s : State) (k g w : Nat) : State :=
  s.modCell k (fun c => c.setAgent g { c.agent g with words := SMap.erase (c.agent g).words w })

/-- The attachment cell of an edge engine, numbered as in space 2: EAGs, host ports and the exchange arbiter (R44, R499); none for an
engine that the grid's edge does not carry. -/
def attachCell (e : Nat) : Option Nat :=
  let k := e % 64
  match e / 64 with
  | 0 => some (8 * k)
  | 1 => some (512 * (8 * k) + 511)
  | 2 => some (512 * 511 + 8 * k)
  | 3 => some (512 * (8 * k))
  | _ =>
    match e with
    | 312 => some 256
    | 313 => some (512 * 256 + 511)
    | 314 => some (512 * 511 + 256)
    | 315 => some (512 * 256)
    | 316 => some 0
    | _ => none

/-- The hop count between two cells: their Manhattan distance (R499). -/
def hops (a b : Nat) : Nat := ((xOf a : Int) - xOf b).natAbs + ((yOf a : Int) - yOf b).natAbs

/-- The hop count between a cell and an edge engine, with the step onto the carrier ring (R499). -/
def engineHops (k e : Nat) : Option Nat := (attachCell e).map (fun a => hops k a + 1)

/-- The EAG's block: the block of its attachment cell (R138, R499). -/
def eagBlock (e : Nat) : Nat := blockOf ((attachCell e).getD 0)

/-- The block and the domain under which an engine works. -/
def State.askedBy (s : State) : Asker → Nat × BitVec 12
  | .copy b k n _ => (b, (((s.block b).running.find? (fun m => m.cell = k && m.tok.seq = n)).map CopyCmd.dom).getD 0)
  | .eag e _ => (eagBlock e, (s.eag e).dom)
  | .pair g p _ =>
    match s.agentCell (s.xgroup g) p with
    | some k => (blockOf k, (s.cell k).ident.dom)
    | none => (0, 0)
  | .comb b _ => (b, 0)
  | .cell k _ => (blockOf k, (s.cell k).ident.dom)

/-- A fill of the word at address a completes its deferred reads in the order in which they were deferred (R276). -/
def State.serveDeferred (s : State) (a : Nat) : State :=
  let tile := homeTile a
  let q := s.deferTable tile
  let mine := q.filter (fun x => x.1 = a / 8)
  let s := { s with deferred := SMap.put s.deferred tile (q.filter (fun x => x.1 ≠ a / 8)) }
  mine.foldl (fun s x =>
    match x.2 with
    | .ask (.cell k n) =>
      match (s.cell k).accs.find? (fun y => y.tok.seq = n) with
      | some y =>
        (s.setAccess k n (.done (s.part (y.pa % 2 ^ 50) y.size) 0)).tileWatch (y.pa % 2 ^ 50) y.size true false k
          (s.cell k).ident.dom
      | none => s
    | .ask who =>
      let (b, dom) := s.askedBy who
      (s.setWord who (.got (s.gword a))).tileWatch (a / 8 * 8) 8 true false (originCell b) dom
    | .far m (.read b size _ who _) => s.farReply m who 0 (s.part b size) 0
    | _ => s) s

/-- A fill of a word, by the table of R278: the state, and whether it is accepted. -/
def State.fillWord (s : State) (a : Nat) (v : Word) (rpl : Bool) : State × Bool :=
  if s.isPresent a = false then (((s.gwrite a 8 v.toNat false).setPresent a true).serveDeferred a, true)
  else
    let w := s.gword a
    if w.p then (if rpl then (s.gwrite a 8 v.toNat false, true) else (s, false))
    else if rpl ∧ w.v = v then (s, true)
    else (s, false)

/-! ### The combining buffer (R141) -/

/-- The entry of block b for the line of physical address pa. -/
def State.combEntry (s : State) (b pa : Nat) : Option CombEnt := (s.block b).comb.find? (fun e => e.line = pa / 64)

/-- The entry holds some byte, or every byte, of the n bytes at a. -/
def CombEnt.holdsAny (e : CombEnt) (a n : Nat) : Bool := (upto n).any (fun j => (SMap.find e.bytes (a % 64 + j)).isSome)
def CombEnt.holdsAll (e : CombEnt) (a n : Nat) : Bool := (upto n).all (fun j => (SMap.find e.bytes (a % 64 + j)).isSome)

/-- The buffer of block b holds some byte of the word at physical address pa. -/
def State.combHolds (s : State) (b pa : Nat) : Bool :=
  match s.combEntry b pa with
  | some e => e.holdsAny (pa / 8 * 8) 8
  | none => false

/-- The entry of the line of pa is forced out. -/
def State.forceOut (s : State) (b pa : Nat) : State :=
  let x := s.block b
  s.setBlock b { x with comb := x.comb.map (fun e => if e.line = pa / 64 then { e with sent := true } else e) }

/-! ### Engines: copies, generators and exchange transfers -/

/-- A page as an engine sees it for a use: the physical address, or the cause it meets (R137, R130, R38); no cause where the pager
must be asked first. -/
def State.enginePage (s : State) (b : Nat) (dom : BitVec 12) (va : Nat) (write : Bool) (u : KindUse) :
    Except (Option (BitVec 8)) (Nat × Page) :=
  if 2 ^ 57 ≤ va then .error (some 5)
  else
    match s.engineLookup b dom va with
    | .miss => .error none
    | .refused => .error (some 5)
    | .page p =>
      if entryOk p.entry dom write = false ∨ s.exists_ (p.addr va) = false then .error (some 5)
      else if kindOk u (pKind p.entry) = false then .error (some 6)
      else .ok (p.addr va, p)

/-- What stops an engine at a word whose page it has found: a rebuild, or bytes of the word in its block's combining buffer, whose entry
goes first (R155; log entry 27). -/
inductive EngineStop where
  | no
  | hold
  | force

def State.engineStop (s : State) (b pa : Nat) : EngineStop :=
  if s.combHolds b pa then .force
  else if s.own pa && s.vaultBusy (pa % 2 ^ 50) then .hold
  else .no

/-- An engine of block b goes on with the read of the n bytes of a word at va: a word present or plain is read; an empty fill-once word
takes an entry of its tile's table, or is refused by a full one (R276, R277); one whose region the host holds waits there (R143); one of
another module is asked for by a packet (R397). The answer is how far the word is. -/
def State.fetch (s : State) (b : Nat) (dom : BitVec 12) (va n : Nat) (who : Asker) (w : Option WordSt) : State × Option WordSt :=
  let nacks : Option Nat := match w with
    | none => some 0
    | some (.nacked m) => some m
    | _ => none
  match nacks with
  | none => (s, w)
  | some m =>
    match s.enginePage b dom va false .source with
    | .error none => (s.askPager b dom va false, w)
    | .error (some c) => (s.dropRefused b dom va, some (.failed c true))
    | .ok (pa, p) =>
      let a := pa % 2 ^ 50
      let once := decide (pKind p.entry = 1)
      match s.engineStop b pa with
      | .hold => (s, w)
      | .force => (s.forceOut b pa, w)
      | .no =>
        if s.own pa = false then
          (s.sendPacket (pa / 2 ^ 50) (Config.packetVc 0) (.read a n once who m), some (.asked m))
        else if s.hostHeld a then (s.holdAt a (.ask who), some (.asked m))
        else if once && !s.isPresent a then
          match s.defer a (.ask who) m with
          | some s' => (s', some (.asked m))
          | none => (s, some (.nacked (m + 1)))
        else (s.tileWatch a n true false (originCell b) dom, some (.got (s.gword a)))

/-- An engine writes the low n bytes of v at address a; a word written in part takes the poison bit of the value (R252, R166). -/
def State.engineWrite (s : State) (a n : Nat) (v : Word) : State :=
  { s.gwrite a n (v.toNat % 2 ^ (8 * n)) false with memPoison := s.memPoison.put (a / 8) false }

/-- An engine of block b writes the low n bytes of v, at va: a plain word is written, a fill-once one filled (R131); a word whose region
the host holds waits there, and one of another module leaves as a packet. The answer is how far the word is. -/
def State.putWord (s : State) (b : Nat) (dom : BitVec 12) (va n : Nat) (v : Val) (who : Asker) (rpl : Bool) : State × WordSt :=
  match s.enginePage b dom va true .dest with
  | .error none => (s.askPager b dom va true, .got v)
  | .error (some c) => (s.dropRefused b dom va, .failed c false)
  | .ok (pa, p) =>
    let a := pa % 2 ^ 50
    let once := decide (pKind p.entry = 1)
    match s.engineStop b pa with
    | .hold => (s, .got v)
    | .force => (s.forceOut b pa, .got v)
    | .no =>
      if s.own pa = false then
        (s.sendPacket (pa / 2 ^ 50) (Config.packetVc 1) (if once then .fill a v.v rpl who else .write a n v.v who), .putting v n)
      else if s.hostHeld a then (s.holdAt a (.ask who), .putting v n)
      else if once then
        let (s', ok) := s.fillWord a v.v rpl
        (s'.tileWatch a 8 false true (originCell b) dom, if ok then .done else .failed 7 false)
      else ((s.engineWrite a n v.v).tileWatch a n false true (originCell b) dom, .done)

/-- A word that an engine was waiting for at address a, whose region has come back from the host, is read or written (R143): its page
is plain (R142). -/
def State.engineHeld (s : State) (who : Asker) (a : Nat) : State :=
  let (b, dom) := s.askedBy who
  match s.wordSt who with
  | some (.asked _) => (s.setWord who (.got (s.gword a))).tileWatch (a / 8 * 8) 8 true false (originCell b) dom
  | some (.putting v n) =>
    ((s.engineWrite a n v.v).tileWatch a n false true (originCell b) dom).setWord who .done
  | _ => s

/-- The reply to an engine's packet arrives. -/
def State.engineReply (s : State) (who : Asker) (cause : BitVec 8) (v : Val) : State :=
  match s.wordSt who with
  | some (.asked _) => s.setWord who (if cause = 0 then .got v else .failed cause true)
  | some (.putting _ _) => s.setWord who (if cause = 0 then .done else .failed cause false)
  | _ => s

end Sys2Proof.Machine
end

