-- ==== Sys2Proof/Machine/Global.lean ====
section
/-! DEFINITION. The instructions 0x70 to 0x7E at their issue (R282 to R289): addresses, translation and kind checks in the
cell, the access that leaves, and FENCE. The tiles perform the accesses (Tiles.lean). -/

namespace Sys2Proof.Machine

open Sys2Proof

/-- The page of va for the cell, or a sleep until the caches hold it; a refusal of the pager raises TRANS (R135, R137). The
hit moves to the front of the cell's cache (R138). -/
def translate (s : State) (c : Cell) (va : Nat) (write : Bool) : Except Stop (Page × Cell) :=
  match s.lookup s.cur c va with
  | some p => .ok (p, { c with tlb := lruPut 32 c.tlb { p with tag := 0 }, refused := none })
  | none =>
    if c.refused = some va then .error (.cause causeTrans (ofNat va))
    else
      let c0 := s.cell s.cur
      .error (.waitIn s { c0 with missing := some (va, write) } .translation (.page va))

/-- The checks of a global access at its issue (R282): POISON of the address, ALIGN, TRANS and KIND; the one of lowest code
is raised (R76). The answer is the physical address and the page. -/
def checkAccess (s : State) (c : Cell) (ea : Word) (size : Nat) (write : Bool) (u : KindUse) (poisoned : Bool)
    (fld : Nat) : Except Stop (Nat × Page × Cell) := do
  let va := uns ea
  raise [(decide (va % size ≠ 0), causeAlign, ea)]
  if 2 ^ 57 ≤ va then .error (.cause causeTrans ea)
  let (p, c') ← translate s c va write
  let own := !(u = .clrf) || c.priv || c.ident.dom = pDom p.entry
  raise [(!entryOk p.entry c.ident.dom write || !s.exists_ (p.addr va), causeTrans, ea),
         (!kindOk u (pKind p.entry) || !own, causeKind, ea), (poisoned, causePoison, ofNat fld)]
  return (p.addr va, p, { c' with refused := if c.refused = some va then none else c.refused })

/-- The global access that watchpoints look at: its address, once its translation is in the caches and raises no TRANS
(R488). -/
def globalWatch (ea : Word) (size : Nat) (rd wr : Bool) (s : State) (c : Cell) : Option Watched :=
  if 2 ^ 57 ≤ ea.toNat then none
  else
    match s.lookup s.cur c ea.toNat with
    | some p =>
      if entryOk p.entry c.ident.dom wr && s.exists_ (p.addr ea.toNat) then
        some { glob := true, a := ea.toNat, size, rd, wr, dom := pDom p.entry }
      else none
    | none => none

/-- The access of a format-M instruction that watchpoints look at. -/
def watchM (f : FmtM) (size : Nat) (store : Bool) (s : State) (c : Cell) : Option Watched :=
  match readAB c f.a f.b f.sa f.sb with
  | .ok (a, b, _) => if a.p || b.p then none else globalWatch (effAddr a b f.disp) size (!store) store s c
  | .error _ => none

/-- The access of an atomic that watchpoints look at. -/
def watchX (f : FmtX) (s : State) (c : Cell) : Option Watched :=
  match readSrc c f.a 0 with
  | .ok (a, _) => if a.p then none else globalWatch a.v (2 ^ field f.ef 2 2) true true s c
  | .error _ => none

/-- The trace of a trace-only watchpoint at a global access. -/
def State.globalTrace (s : State) (c : Cell) (w : Option Watched) : State :=
  match w with
  | some w => s.watchTrace s.cur c w
  | none => s

/-- There is room for one more access (R289). -/
def accRoom (c : Cell) : Except Stop Unit :=
  if 32 ≤ c.accs.length then .error (.wait .token .accRoom) else .ok ()

/-- A load (R283): size bytes at base + index + disp, delivered to D by the reply. -/
def gload (i : Instr) (h : Hdr) (f : FmtM) (kind : AccKind) (u : KindUse) (s : State) :
    Host.Outcome State Fault Refusal :=
  issue i h s (watch := watchM f (2 ^ f.sz.toNat) false) fun s c => do
    let t := c.tok i h
    let w := watchM f (2 ^ f.sz.toNat) false s c
    regsReady c [f.a, f.b, f.d]
    let (a, b, c) ← readAB c f.a f.b f.sa f.sb
    needDst c f.d
    let ea := effAddr a b f.disp
    let size := 2 ^ f.sz.toNat
    accRoom c
    let (pa, pg, c) ← checkAccess s c ea size false u (a.p || b.p) (poisonField a)
    let c ← claimDst c f.d
    let s := s.globalTrace c w
    let x : Access := ⟨kind, uns ea, pa, size, f.sx, false, 0, 0, f.d, Val.zero, Val.zero, t, .sent, pKind pg.entry, pDom pg.entry⟩
    return { s, c := { c with accs := c.accs ++ [x] }, async := true }

/-- LDG (R283): plain pages. -/
def execLdg (h : Hdr) (f : FmtM) (s : State) : Host.Outcome State Fault Refusal :=
  gload (.ldg h f) h f .ldg .plainOnly s

/-- LDF (R283): fill-once pages. -/
def execLdf (h : Hdr) (f : FmtM) (s : State) : Host.Outcome State Fault Refusal :=
  gload (.ldf h f) h f .ldf .fillOnly s

/-- ALD (R283): plain and accumulate pages, in the word's total order. -/
def execAld (h : Hdr) (f : FmtM) (s : State) : Host.Outcome State Fault Refusal :=
  gload (.ald h f) h f .ald .atomic s

/-- A store or a fill (R284): data is read after base and index; poisoned data is a sink. -/
def gstore (i : Instr) (h : Hdr) (f : FmtM) (kind : AccKind) (u : KindUse) (s : State) :
    Host.Outcome State Fault Refusal :=
  issue i h s (watch := watchM f (2 ^ f.sz.toNat) true) fun s c => do
    let t := c.tok i h
    let s := s.globalTrace c (watchM f (2 ^ f.sz.toNat) true s c)
    regsReady c [f.a, f.b, f.d]
    let (a, b, c) ← readAB c f.a f.b f.sa f.sb
    let (d, c) ← readSrc c f.d 0
    let ea := effAddr a b f.disp
    let size := 2 ^ f.sz.toNat
    accRoom c
    let (pa, pg, c) ← checkAccess s c ea size true u (a.p || b.p) (poisonField a)
    if d.p then .error (.sink 0)
    let x : Access := ⟨kind, uns ea, pa, size, false, false, 0, 0, 0, d, Val.zero, t, .sent, pKind pg.entry, pDom pg.entry⟩
    return { s, c := { c with accs := c.accs ++ [x] }, async := true }

/-- STG (R284). -/
def execStg (h : Hdr) (f : FmtM) (s : State) : Host.Outcome State Fault Refusal :=
  gstore (.stg h f) h f .stg .plainOnly s

/-- STF (R284). -/
def execStf (h : Hdr) (f : FmtM) (s : State) : Host.Outcome State Fault Refusal :=
  gstore (.stf h f) h f .stf .fillOnly s

/-- CLRF (R285). -/
def execClrf (h : Hdr) (f : FmtM) (s : State) : Host.Outcome State Fault Refusal :=
  issue (.clrf h f) h s (watch := watchM f 8 true) fun s c => do
    let t := c.tok (.clrf h f) h
    let s := s.globalTrace c (watchM f 8 true s c)
    regsReady c [f.a, f.b]
    let (a, b, c) ← readAB c f.a f.b f.sa f.sb
    let ea := effAddr a b f.disp
    accRoom c
    let (pa, pg, c) ← checkAccess s c ea 8 true .clrf (a.p || b.p) (poisonField a)
    let x : Access := ⟨.clrf, uns ea, pa, 8, false, false, 0, 0, 0, Val.zero, Val.zero, t, .sent, pKind pg.entry, pDom pg.entry⟩
    return { s, c := { c with accs := c.accs ++ [x] }, async := true }

/-- An atomic (R286): A is the address, B the operand, C the expected value of ACAS, D the destination of the old value. A
poisoned operand is a sink. An AFADD under STO draws one state at issue (R287). The firing becomes non-replayable
(R443). -/
def atomic (i : Instr) (h : Hdr) (f : FmtX) (kind : AccKind) (s : State) : Host.Outcome State Fault Refusal :=
  issue i h s (watch := watchX f) fun s c => do
    let t := c.tok i h
    let s := s.globalTrace c (watchX f s c)
    regsReady c [f.a, f.b, f.c, f.d]
    let (a, c) ← readSrc c f.a 0
    let (b, c) ← readSrc c f.b 0
    let (x, c) ← if kind = .acas then readSrc c f.c 0 else .ok (Val.zero, c)
    needDst c f.d
    let size := 2 ^ field f.ef 2 2
    accRoom c
    let (pa, pg, c) ← checkAccess s c a.v size true .atomic a.p 1
    if b.p then .error (.sink 2)
    if x.p then .error (.sink 3)
    let mode := c.mode (f.ef.extractLsb' 5 3)
    let draw := kind = .afadd && mode = 5
    let rnd := lfsrStep c.sys.lfsr
    let c := if draw then c.advanceLfsr 1 else c
    let c ← claimDst c f.d
    let x : Access := ⟨kind, uns a.v, pa, size, false, bit f.ef 4, mode, rnd, f.d, b, x, t, .sent, pKind pg.entry, pDom pg.entry⟩
    return { s, c := { c with accs := c.accs ++ [x], nonReplay := true }, async := true }

/-- AADD (R286). -/
def execAadd (h : Hdr) (f : FmtX) (s : State) : Host.Outcome State Fault Refusal := atomic (.aadd h f) h f .aadd s
/-- AFADD (R286, R287). -/
def execAfadd (h : Hdr) (f : FmtX) (s : State) : Host.Outcome State Fault Refusal := atomic (.afadd h f) h f .afadd s
/-- AMIN (R286). -/
def execAmin (h : Hdr) (f : FmtX) (s : State) : Host.Outcome State Fault Refusal := atomic (.amin h f) h f .amin s
/-- AMAX (R286). -/
def execAmax (h : Hdr) (f : FmtX) (s : State) : Host.Outcome State Fault Refusal := atomic (.amax h f) h f .amax s
/-- AXCHG (R286). -/
def execAxchg (h : Hdr) (f : FmtX) (s : State) : Host.Outcome State Fault Refusal := atomic (.axchg h f) h f .axchg s
/-- ACAS (R286). -/
def execAcas (h : Hdr) (f : FmtX) (s : State) : Host.Outcome State Fault Refusal := atomic (.acas h f) h f .acas s
/-- AOR (R286). -/
def execAor (h : Hdr) (f : FmtX) (s : State) : Host.Outcome State Fault Refusal := atomic (.aor h f) h f .aor s
/-- AAND (R286). -/
def execAand (h : Hdr) (f : FmtX) (s : State) : Host.Outcome State Fault Refusal := atomic (.aand h f) h f .aand s

/-! ### FENCE (R155, R288) -/

/-- An access whose value returns to the cell. -/
def AccKind.returns (x : AccKind) : Bool := x ≠ .stg && x ≠ .stf && x ≠ .clrf

/-- The condition of R155 for one older access of the cell at a scope. A read must have returned. A write: CELL asks only that the
memory port has accepted it; STRIP, BLOCK and MODULE that it is performed if its home is on this module, where a plain store homed
outside the block has left the list for the combining buffer; SYSTEM that it is performed wherever it lies. -/
def State.accessMet (s : State) (scope : Nat) (x : Access) : Bool :=
  !x.kind.returns && (scope = 0 || (decide (scope < 4) && !s.own x.pa))

/-- The conditions of R155 for a scope hold for every access that cell k issued before the place n in program order. A MODULE or SYSTEM
fence also waits for every entry of the block's combining buffer that it flushed, those numbered below `mark`, and for those that hold
its own stores (R288); entries homed on other modules count at SYSTEM alone. -/
def State.fenceMet (s : State) (k : Nat) (c : Cell) (scope n mark : Nat) : Bool :=
  let accs := c.accs.all (fun x => decide (n ≤ x.tok.seq) || s.accessMet scope x)
  let copies := c.copies.all (fun x => decide (n ≤ x))
  let vq := (c.vec.queue ++ c.vec.preds).all (fun x => decide (n ≤ x.tok.seq))
  let comb := decide (scope < 3) || (s.block (blockOf k)).comb.all (fun e =>
    (decide (scope = 3) && !s.own (64 * e.line)) ||
      (decide (mark ≤ e.no) && e.by_.all (fun x => x.cell ≠ k || decide (n ≤ x.tok.seq))))
  accs && copies && vq && comb

/-- The entries numbered below `mark`, and those that hold an older store of the cell, are sent home (R141). -/
def Block.flushFor (b : Block) (k n mark : Nat) : Block :=
  { b with comb := b.comb.map (fun e =>
      if e.no < mark ∨ e.by_.any (fun x => x.cell = k && decide (x.tok.seq < n)) then { e with sent := true } else e) }

/-- FENCE (R288): a MODULE or SYSTEM fence sends every entry of the block's combining buffer home; `step` keeps the number of the entry
that followed them. -/
def execFence (h : Hdr) (f : FmtM) (s : State) : Host.Outcome State Fault Refusal :=
  issue (.fence h f) h s fun s c => do
    let sc := f.scope.toNat
    let b := s.block (blockOf s.cur)
    let mark := if c.step = 0 then b.combNo else c.step - 1
    let s' := if sc < 3 then s else s.setBlock (blockOf s.cur) (b.flushFor s.cur c.iseq mark)
    if s.fenceMet s.cur c sc c.iseq mark then return { s := s', c }
    else .error (.waitIn s' { c with step := mark + 1 } .token (.fence f.scope c.iseq))

end Sys2Proof.Machine
end

