-- ==== Sys2Proof/Machine/Sem.lean ====
section
/-! DEFINITION. Semaphores and the instructions on them (R244 to R246, R266, R267). -/

namespace Sys2Proof.Machine

open Sys2Proof

/-- A change of a semaphore: the exact result is clamped to 0 through 2^40 - 1, and OVF is set if it was clamped (R245). -/
def Sem.add (x : Sem) (d : Int) : Sem :=
  let r := (x.value.toNat : Int) + d
  if r < 0 then { value := 0, ovf := true }
  else if 2 ^ 40 ≤ r then { value := BitVec.allOnes 40, ovf := true }
  else { x with value := BitVec.ofInt 40 r }

/-- EF20[3:0], the semaphore. -/
def FmtX.sem (f : FmtX) : Nat := field f.ef 0 4

/-- SINC (R266): adds S(a). -/
def execSinc (h : Hdr) (f : FmtX) (s : State) : Host.Outcome State Fault Refusal :=
  issue (.sinc h f) h s fun s c => do
    let a ← readG c f.a.toNat
    clean 1 a
    let n := FmtX.sem f
    return { s, c := c.setSem n ((c.sem n).add (sgn a.v)) }

/-- SSET (R266): VALUE := min(U(a), 2^40 - 1), OVF := U(a) ≥ 2^40. -/
def execSset (h : Hdr) (f : FmtX) (s : State) : Host.Outcome State Fault Refusal :=
  issue (.sset h f) h s fun s c => do
    let a ← readG c f.a.toNat
    clean 1 a
    let big := decide (2 ^ 40 ≤ uns a.v)
    let x : Sem := { value := if big then BitVec.allOnes 40 else BitVec.ofNat 40 (uns a.v), ovf := big }
    return { s, c := c.setSem (FmtX.sem f) x }

/-- SRD (R266): OVF * 2^40 + VALUE. -/
def execSrd (h : Hdr) (f : FmtX) (s : State) : Host.Outcome State Fault Refusal :=
  issue (.srd h f) h s fun s c => do
    let c ← writeDst c f.d (.clean (c.sem (FmtX.sem f)).word)
    return { s, c }

/-- The threshold of a wait, or a sleep until VALUE reaches it (R267). -/
def semWait (c : Cell) (f : FmtX) : Except Stop Nat := do
  let a ← readG c f.a.toNat
  clean 1 a
  let n := FmtX.sem f
  if (c.sem n).value.toNat < uns a.v then .error (.wait .semaphore (.sem n (uns a.v)))
  return uns a.v

/-- The SEMTHR record of a wait on the semaphore that this issue ends (R267, R492); a task that was woken before has made its own. -/
def semTrace (s : State) (c : Cell) (f : FmtX) (t : Nat) : State :=
  if c.st = .asleep ∧ c.wait = some (.semaphore, .sem (FmtX.sem f) t) then
    s.trace s.cur 7 (at_ (FmtX.sem f) 40 ||| at_ (t % 2 ^ 40) 0)
  else s

/-- SWAIT (R267). -/
def execSwait (h : Hdr) (f : FmtX) (s : State) : Host.Outcome State Fault Refusal :=
  issue (.swait h f) h s fun s c => do
    let t ← semWait c f
    return { s := semTrace s c f t, c }

/-- SWAITD (R267): VALUE := VALUE - t, and the new VALUE to D. -/
def execSwaitd (h : Hdr) (f : FmtX) (s : State) : Host.Outcome State Fault Refusal :=
  issue (.swaitd h f) h s fun s c => do
    let t ← semWait c f
    let n := FmtX.sem f
    let x := c.sem n
    let v := x.value - BitVec.ofNat 40 t
    let c := c.setSem n { x with value := v }
    let s := semTrace s c f t
    let c ← writeDst c f.d (.clean (v.zeroExtend 64))
    return { s, c }

end Sys2Proof.Machine
end

