-- ==== Sys2Proof/Machine/Copy.lean ====
section
/-! DEFINITION. Copy commands (R248 to R254, R262, R263): their issue, their start under the block's leave, and their
completion. -/

namespace Sys2Proof.Machine

open Sys2Proof

/-! ### Issue -/

/-- The COPYS record of a command that starts, or issues with total 0 (R492). -/
def State.copyTrace (s : State) (k : Nat) (slot : BitVec 3) (sem total : Nat) : State :=
  s.trace k 5 (at_ slot.toNat 48 ||| at_ sem 44 ||| at_ (total % 2 ^ 40) 0)

/-- The COPYF record of a command that has ended (R492). -/
def State.copyEndTrace (s : State) (k code bytes : Nat) : State := s.trace k 6 (at_ code 40 ||| at_ (bytes % 2 ^ 40) 0)

/-- The operands of a copy: destination, source, length, and the register C. -/
def copyRegs (c : Cell) (f : FmtX) (useC : Bool) : Except Stop (Val × Val × Val × Val) := do
  let d ← readG c f.d.toNat
  let a ← readG c f.a.toNat
  let b ← readG c f.b.toNat
  let x ← if useC then readG c f.c.toNat else .ok Val.zero
  return (d, a, b, x)

/-- Start of row r. -/
def rowStart (base : Nat) (str : Int) (r : Nat) : Int := (base : Int) + str * r

/-- Some local byte of some row lies outside the local store, given the start of the rows (R263); the start of the offending row (log
entry 58). -/
def localOut (base len rows : Nat) (str : Int) : Option Int :=
  let bad (x : Int) : Bool := decide (x < 0) || decide (0x20000 < x + len)
  if bad (rowStart base str 0) then some (rowStart base str 0)
  else if bad (rowStart base str (rows - 1)) then some (rowStart base str (rows - 1))
  else none

/-- A global start or end address lies at or above 2^57 (R263); the start of the offending row. The end address is the last byte's: a
range that ends with the address space is inside (log entry 58). -/
def globalOut (base len rows : Nat) (str : Int) : Option Int :=
  let bad (x : Int) : Bool := decide (x < 0) || decide (2 ^ 57 ≤ x) || decide (2 ^ 57 < x + len)
  if bad (rowStart base str 0) then some (rowStart base str 0)
  else if bad (rowStart base str (rows - 1)) then some (rowStart base str (rows - 1))
  else none

/-- The issue of a copy command (R263). `form`: 0 G2L, 1 L2G, 2 global to global, 3 to another cell. sys.tval is a misaligned start
address or stride, and for LBOUND and TRANS the start of the offending row, the destination's before the source's (log entry 58). -/
def copyIssue (i : Instr) (h : Hdr) (f : FmtX) (form : Nat) (shape useC : Bool) (s : State) :
    Host.Outcome State Fault Refusal :=
  issue i h s fun s c => do
    let t := c.tok i h
    let (d, a, b, x) ← copyRegs c f useC
    let rows := if shape then field x.v 48 16 else 1
    let sstr : Int := if shape then (x.v.extractLsb' 24 24).toInt else 0
    let dstr : Int := if shape then (x.v.extractLsb' 0 24).toInt else 0
    let len := uns b.v
    let total := rows * len
    let target := uns x.v
    legal (total < 2 ^ 40 && (form ≠ 3 || target ≤ 262143))
    let mis := if uns d.v % 8 ≠ 0 then some d.v else if uns a.v % 8 ≠ 0 then some a.v
      else if sstr % 8 ≠ 0 then some (ofInt sstr) else if dstr % 8 ≠ 0 then some (ofInt dstr) else none
    let dLocal := form = 0 || form = 3
    let sLocal := form = 1 || form = 3
    let none_ : Option Int := none
    let dOut := if total = 0 then none_ else if dLocal then localOut (uns d.v) len rows dstr else none_
    let sOut := if total = 0 then none_ else if sLocal then localOut (uns a.v) len rows sstr else none_
    let dG := if dLocal then none_ else globalOut (uns d.v) len (max 1 rows) dstr
    let sG := if sLocal then none_ else globalOut (uns a.v) len (max 1 rows) sstr
    let pf := if d.p then 0 else if a.p then 1 else if b.p then 2 else 3
    raise [(mis.isSome, causeAlign, mis.getD 0),
           ((dOut.or sOut).isSome, causeLbound, ofInt ((dOut.or sOut).getD 0)),
           ((dG.or sG).isSome, causeTrans, ofInt ((dG.or sG).getD 0)),
           (d.p || a.p || b.p || x.p, causePoison, ofNat pf)]
    let c := if form = 3 then { c with nonReplay := true } else c
    if total = 0 then
      let n := FmtX.sem f
      let s := (s.copyTrace s.cur h.es n 0).copyEndTrace s.cur 0 0
      return { s, c := if form ≠ 3 && bit f.ef 4 then c.setSem n ((c.sem n).add 0) else c }
    else
      if 4 ≤ c.copies.length then .error (.wait .pushFull .copyRoom)
      let cmd : CopyCmd := {
        cell := s.cur, tok := t, form, dst := uns d.v, src := uns a.v, len, rows, sstr, dstr, target
        se := bit f.ef 4, sem := FmtX.sem f, dom := c.ident.dom, rpl := c.rpl }
      let bn := blockOf s.cur
      let bl := s.block bn
      return { s := s.setBlock bn { bl with copyq := bl.copyq ++ [cmd] }
               c := { c with copies := c.copies ++ [t.seq] }, async := true }

/-- CPY (R262, R263). -/
def execCpy (h : Hdr) (f : FmtX) (s : State) : Host.Outcome State Fault Refusal :=
  copyIssue (.cpy h f) h f (b2n (bit f.ef 5)) false false s

/-- CPYS (R262, R263): the shape register C gives the rows and the two strides. -/
def execCpys (h : Hdr) (f : FmtX) (s : State) : Host.Outcome State Fault Refusal :=
  copyIssue (.cpys h f) h f (b2n (bit f.ef 5)) true true s

/-- CPYG (R262, R263): between global addresses. -/
def execCpyg (h : Hdr) (f : FmtX) (s : State) : Host.Outcome State Fault Refusal :=
  copyIssue (.cpyg h f) h f 2 false false s

/-- CPYD (R262, R263): into the local store of another cell of the load. -/
def execCpyd (h : Hdr) (f : FmtX) (s : State) : Host.Outcome State Fault Refusal :=
  copyIssue (.cpyd h f) h f 3 false true s

/-! ### The engine (R248 to R254) -/

def CopyCmd.total (m : CopyCmd) : Nat := m.rows * m.len
def CopyCmd.srcLocal (m : CopyCmd) : Bool := m.form = 1 || m.form = 3
def CopyCmd.dstLocal (m : CopyCmd) : Bool := m.form = 0 || m.form = 3

/-- The next command of a block starts, when fewer than 8 run (R248); one of more than 1 MiB asks for leave first and
holds back the commands behind it (R249). -/
def execCopyStart (block : Nat) (s : State) : Host.Outcome State Fault Refusal :=
  let b := s.block block
  match b.copyq with
  | [] => .next s
  | m :: rest =>
    if m.total ≤ 1048576 ∨ m.leave = 2 then
      if b.running.length < 8 then
        .next ((s.setBlock block { b with copyq := rest, running := b.running ++ [m] }).copyTrace m.cell
          (m.tok.slot.getD 0) m.sem m.total)
      else .next s
    else if m.leave = 0 then
      .next ((s.setBlock block { b with copyq := { m with leave := 1 } :: rest }).askLeave block ⟨.copy, 4, 0⟩)
    else .next s

/-- The words of a row, and of a command. -/
def CopyCmd.rowWords (m : CopyCmd) : Nat := (m.len + 7) / 8
def CopyCmd.size (m : CopyCmd) : Nat := m.rows * m.rowWords
/-- Source and destination address of word w, and the bytes of it that the command moves. -/
def CopyCmd.srcAt (m : CopyCmd) (w : Nat) : Int := rowStart m.src m.sstr (w / m.rowWords) + 8 * ((w % m.rowWords : Nat) : Int)
def CopyCmd.dstAt (m : CopyCmd) (w : Nat) : Int := rowStart m.dst m.dstr (w / m.rowWords) + 8 * ((w % m.rowWords : Nat) : Int)
def CopyCmd.bytesAt (m : CopyCmd) (w : Nat) : Nat := min 8 (m.len - 8 * (w % m.rowWords))
def CopyCmd.who (m : CopyCmd) (b w : Nat) : Asker := .copy b m.cell m.tok.seq w
/-- The cell whose local store is the destination. -/
def CopyCmd.into (m : CopyCmd) : Nat := if m.form = 3 then m.target else m.cell
/-- The word before which the command stops. -/
def CopyCmd.limit (m : CopyCmd) : Nat := m.stop.getD m.size

/-- A cause recorded at word w. -/
def CopyCmd.note (m : CopyCmd) (w : Nat) (cause : BitVec 8) (tval : Word) : CopyCmd :=
  { m with causes := m.causes ++ [(w, cause, tval)], fin := m.fin.put w true, words := SMap.erase m.words w }
/-- Word w has been delivered. -/
def CopyCmd.deliver (m : CopyCmd) (w : Nat) : CopyCmd :=
  { m with bytes := m.bytes + m.bytesAt w, fin := m.fin.put w true, words := SMap.erase m.words w }

/-- The cause of lowest offset (R253). -/
def CopyCmd.cause (m : CopyCmd) : Option (Nat × BitVec 8 × Word) :=
  m.causes.foldl (fun x y => match x with
    | none => some y
    | some z => if y.1 < z.1 then some y else x) none

/-- The target of a CPYD belongs to the issuer's load (R250). -/
def State.sameLoad (s : State) (a b : Nat) : Bool :=
  (s.cell a).ident.load = (s.cell b).ident.load && (s.cell b).ident.units ≠ 0

/-- What the checks of R250 find at word w: the cause with its sys.tval, a translation that is still to come, or nothing. The source
is looked at before the destination (log entry 58). -/
inductive PageCheck where
  | ok
  | miss (va : Nat) (write : Bool)
  | cause (va : Nat) (c : BitVec 8) (tval : Word)

def State.checkPage (s : State) (b : Nat) (m : CopyCmd) (va : Nat) (write : Bool) (u : KindUse) : PageCheck :=
  match s.enginePage b m.dom va write u with
  | .error none => .miss va write
  | .error (some c) => .cause va c (ofNat va)
  | .ok (_, p) => if write ∧ pKind p.entry = 1 ∧ m.len % 8 ≠ 0 then .cause va 6 (ofNat va) else .ok

def State.checkWord (s : State) (b : Nat) (m : CopyCmd) (w : Nat) : PageCheck :=
  if m.form = 3 then
    if s.sameLoad m.cell m.target then .ok else .cause 0 5 (ofNat (m.target * 2 ^ 20 + (m.dstAt w).toNat))
  else
    match (if m.srcLocal then PageCheck.ok else s.checkPage b m (m.srcAt w).toNat false .source) with
    | .ok => if m.dstLocal then .ok else s.checkPage b m (m.dstAt w).toNat true .dest
    | x => x

/-- The checks go on, in ascending order of offset, up to word w at most, of which n are still to check: they stop at a translation
that the pager is asked for, and at a cause, where the command stops. -/
def State.checkUpTo (s : State) (b cell seq w : Nat) : Nat → State
  | 0 => s
  | n + 1 =>
    match (s.block b).running.find? (fun m => m.cell = cell && m.tok.seq = seq) with
    | none => s
    | some m =>
      if w < m.checked ∨ m.stop.isSome then s
      else
        match s.checkWord b m m.checked with
        | .ok => (s.modCopy b cell seq (fun m => { m with checked := m.checked + 1 })).checkUpTo b cell seq w n
        | .miss va write => s.askPager b m.dom va write
        | .cause va c tval =>
          (s.dropRefused b m.dom va).modCopy b cell seq (fun m =>
            { m.note m.checked c tval with stop := some m.checked })

/-- The word is read: from the issuer's local store at a time of the engine's choosing (R129), or from global memory. -/
def State.readCopyWord (s : State) (b w : Nat) (m : CopyCmd) : State :=
  let n := m.bytesAt w
  if m.srcLocal then
    let a := (m.srcAt w).toNat
    if s.storeBusy m.cell a n then s
    else { s.setWord (m.who b w) (.got ((s.cell m.cell).engineWord s.fresh m.tok.at_ false a)) with fresh := s.fresh + 1 }
  else
    let (s', st) := s.fetch b m.dom (m.srcAt w).toNat n (m.who b w) (SMap.find m.words w)
    match st with
    | some x => s'.setWord (m.who b w) x
    | none => s'

/-- A word that has been read is written, by the table of R251. -/
def State.writeCopyWord (s : State) (b w : Nat) (m : CopyCmd) (v : Val) : State :=
  let n := m.bytesAt w
  if m.dstLocal then
    let a := (m.dstAt w).toNat
    if s.storeBusy m.into a n then s
    else (s.modCell m.into (fun c => c.stStore a n (v.v.toNat % 2 ^ (8 * n)) v.p)).modCopy b m.cell m.tok.seq (fun m => m.deliver w)
  else if v.p then s.modCopy b m.cell m.tok.seq (fun m => m.note w 8 1)
  else
    let (s', st) := s.putWord b m.dom (m.dstAt w).toNat n v (m.who b w) m.rpl
    s'.setWord (m.who b w) st

/-- Word w of a running command goes on as far as it can: read, written, and taken into account (R250, R251). A word that a cause ends
does not stop the others. -/
def State.moveWord (s : State) (b cell seq w : Nat) : State :=
  let find (s : State) : Option CopyCmd := (s.block b).running.find? (fun m => m.cell = cell && m.tok.seq = seq)
  let s := match find s with
    | some m => s.checkUpTo b cell seq w (w + 1 - m.checked)
    | none => s
  let ready (m : CopyCmd) : Bool := decide (w < m.checked) && decide (w < m.limit) && !m.fin.has w
  let s := match find s with
    | some m => if ready m then s.readCopyWord b w m else s
    | none => s
  let s := match find s with
    | some m =>
      match SMap.find m.words w with
      | some (.got v) => if ready m then s.writeCopyWord b w m v else s
      | _ => s
    | none => s
  match find s with
  | some m =>
    match SMap.find m.words w with
    | some .done => s.modCopy b cell seq (fun m => m.deliver w)
    | some (.failed c src) => s.modCopy b cell seq (fun m => m.note w c (ofInt (if src then m.srcAt w else m.dstAt w)))
    | _ => s
  | none => s

/-- Every word below the limit has ended, and the limit is known. -/
def CopyCmd.ended (m : CopyCmd) : Bool := (decide (m.size ≤ m.checked) || m.stop.isSome) && (upto m.limit).all m.fin.has

/-- The engine of block b moves one word of running command n (R129, R250). -/
def State.copyWord (s : State) (b n w : Nat) : State :=
  match (s.block b).running[n]? with
  | some m => if w < m.size then s.moveWord b m.cell m.tok.seq w else s
  | none => s

/-- The semaphore of a completed copy takes the bytes delivered (R253). -/
def State.copySem (s : State) (m : CopyCmd) (n : Nat) : State :=
  if m.se then
    let k := if m.form = 3 then m.target else m.cell
    s.modCell k (fun c => c.setSem m.sem ((c.sem m.sem).add n))
  else s

/-- A command that has stopped moving leaves the engine (R253): its semaphore takes the bytes delivered, then its leave is released,
then its token fires or takes the deferred fault of lowest offset. -/
def State.endCopy (s : State) (b : Nat) (m : CopyCmd) : State :=
  let s := s.copySem m m.bytes
  let x := s.block b
  let s := s.setBlock b { x with running := x.running.filter (fun y => y.cell ≠ m.cell || y.tok.seq ≠ m.tok.seq) }
  let s := if m.leave = 2 then s.giveLeave b .copy else s
  let c := s.cell m.cell
  let s := s.setCell m.cell { c with copies := c.copies.erase m.tok.seq }
  let s := s.copyEndTrace m.cell ((m.cause.map (fun x => x.2.1.toNat)).getD 0) m.bytes
  match m.cause with
  | none => s.modCell m.cell (fun c => c.fire m.tok)
  | some (_, cause, tval) => s.fail m.cell m.tok cause tval

/-- Running command n of a block goes on with every word that has not ended, and completes when all have (R250 to R253). A word that it
must wait for, an empty fill-once word, one whose region the host holds, or one of another module, keeps the command running (R251,
R276). -/
def execCopyCompletion (block n : Nat) (s : State) : Host.Outcome State Fault Refusal :=
  match (s.block block).running[n]? with
  | none => .next s
  | some m =>
    let s := (upto m.size).foldl (fun s w => s.moveWord block m.cell m.tok.seq w) s
    match (s.block block).running.find? (fun y => y.cell = m.cell && y.tok.seq = m.tok.seq) with
    | some y => .next (if y.ended then s.endCopy block y else s)
    | none => .next s

end Sys2Proof.Machine
end

