-- ==== Sys2Proof/Machine/Eag.lean ====
section
/-! DEFINITION. Edge address generators (R255 to R261) and the instructions EAGCFG and EAGGO (R264, R265). -/

namespace Sys2Proof.Machine

open Sys2Proof

def Eag.reg (e : Eag) (r : Nat) : Word := SMap.get 0 e.regs r
def Eag.setReg (e : Eag) (r : Nat) (v : Word) : Eag := { e with regs := SMap.put e.regs r v }
def Eag.cnt (e : Eag) (d : Nat) : Nat := field (e.reg (1 + d)) 0 32
def Eag.str (e : Eag) (d : Nat) : Int := ((e.reg (5 + d)).extractLsb' 0 48).toInt
def Eag.elw (e : Eag) : Nat := field (e.reg 9) 0 6 + 1
def Eag.dist (e : Eag) : Bool := bit (e.reg 10) 0
def Eag.tag (e : Eag) : BitVec 3 := (e.reg 10).extractLsb' 1 3
def Eag.qwin (e : Eag) : Nat := field (e.reg 12) 0 11
def Eag.blkw (e : Eag) : Nat := field (e.reg 14) 0 6 + 1
def Eag.nc (e : Eag) : Nat := field (e.reg 14) 6 6 + 1
def Eag.cell0 (e : Eag) : Nat := field (e.reg 14) 12 18
def Eag.cstep (e : Eag) : Nat := field (e.reg 14) 30 18
def Eag.lbase (e : Eag) : Nat := field (e.reg 15) 0 17
def Eag.semN (e : Eag) : Nat := field (e.reg 15) 17 4
def Eag.se (e : Eag) : Bool := bit (e.reg 15) 21
def Eag.span (e : Eag) : Nat := 2 ^ field (e.reg 15) 22 5
def Eag.next (e : Eag) : Nat := field (e.reg 16) 0 48

/-- The element count N: the product of the counts of the levels in use (R256). -/
def Eag.count (e : Eag) : Nat := (upto 4).foldl (fun n d => if e.cnt d = 0 then n else n * e.cnt d) 1

/-- The address of element n (R256). -/
def Eag.addr (e : Eag) (n : Nat) : Int :=
  let c (d : Nat) : Nat := max 1 (e.cnt d)
  let i0 := n % c 0
  let i1 := n / c 0 % c 1
  let i2 := n / (c 0 * c 1) % c 2
  let i3 := n / (c 0 * c 1 * c 2) % c 3
  ((field (e.reg 0) 0 57 : Nat) : Int) + e.str 0 * i0 + e.str 1 * i1 + e.str 2 * i2 + e.str 3 * i3

/-- The bits that R255 gives each register. -/
def eagWidth (r : Nat) : Nat :=
  match r with
  | 0 => 57 | 9 => 6 | 10 => 6 | 11 => 31 | 12 => 11 | 13 => 32 | 14 => 48 | 15 => 27 | 16 => 48 | 17 => 11
  | _ => if r ≤ 4 then 32 else 64

/-- The check at START and RESUME (R259): the cause and the number of the offending register, for the cell that holds the
generator. The order of the checks, and the register named for a count of elements beyond 2^48 (CNT0) or a BLKW that does not divide
ELW (DPAT), are the model's (log entry 59). -/
def eagCheck (s : State) (k : Nat) (e : Eag) : Option (BitVec 8 × Nat) :=
  let wide := (upto 17).find? (fun r => decide (2 ^ eagWidth r ≤ (e.reg r).toNat) && !(decide (5 ≤ r) && decide (r ≤ 8)))
  let strides := [5, 6, 7, 8].find? (fun r => e.reg r ≠ ((e.reg r).extractLsb' 0 48).signExtend 64 || e.str (r - 5) % 8 ≠ 0)
  let gap := [2, 3, 4].find? (fun r => e.cnt (r - 1) ≠ 0 && e.cnt (r - 2) = 0)
  if wide.isSome then wide.map (fun r => (1, r))
  else if e.cnt 0 = 0 then some (1, 1)
  else if gap.isSome then gap.map (fun r => (1, r))
  else if 2 ^ 48 ≤ e.count then some (1, 1)
  else if strides.isSome then strides.map (fun r => (1, r))
  else if e.dist then
    if e.elw % e.blkw ≠ 0 then some (1, 14)
    else if field (e.reg 15) 22 5 < 3 ∨ 17 < field (e.reg 15) 22 5 ∨ e.lbase % 8 ≠ 0 ∨ 0x20000 < e.lbase + e.span then
      some (1, 15)
    else if (List.range e.nc).any (fun j =>
        let t := e.cell0 + j * e.cstep
        decide (262143 < t) || !s.sameLoad k t) then some (5, 14)
    else none
  else if e.qwin = 0 ∨ 1024 < e.qwin then some (1, 12)
  else none

/-- EAGH[H]: the handle is granted, and its EAG (R247). -/
def Cell.eagOf (c : Cell) (h : Nat) : Option Nat :=
  let x := SMap.get 0 c.eagh h
  if bit x 8 then some (field x 0 8) else none

/-- The RUN bit of a handle (R264). -/
def Cell.eagRuns (c : Cell) (h : Nat) : Bool := SMap.get false c.eagRun h

/-- The EAG of the handle of an instruction, or ILLOP. -/
def needEag (c : Cell) (f : FmtX) : Except Stop Nat :=
  match c.eagOf (field f.ef 0 1) with
  | some e => .ok e
  | none => .error .illop

/-- EAGCFG.W (R264): a write while the handle's stream runs raises ILLOP. -/
def execEagcfgW (h : Hdr) (f : FmtX) (s : State) : Host.Outcome State Fault Refusal :=
  issue (.eagcfgW h f) h s fun s c => do
    let e ← needEag c f
    legal (!c.eagRuns (field f.ef 0 1))
    let a ← readG c f.a.toNat
    clean 1 a
    return { s := s.setEag e ((s.eag e).setReg (field f.ef 1 5) a.v), c }

/-- EAGCFG.R (R264): the value that the register holds when the request reaches it comes back to D. -/
def execEagcfgR (h : Hdr) (f : FmtX) (s : State) : Host.Outcome State Fault Refusal :=
  issue (.eagcfgR h f) h s fun s c => do
    let e ← needEag c f
    let t := c.tok (.eagcfgR h f) h
    let c ← claimDst c f.d
    return { s, c := { c with eagReads := c.eagReads ++ [(f.d, t, (s.eag e).reg (field f.ef 1 5))] }, async := true }

/-- The value of the oldest EAGCFG.R of a cell arrives (R264). -/
def execEagcfgReadReply (cell : Nat) (s : State) : Host.Outcome State Fault Refusal :=
  let c := s.cell cell
  match c.eagReads with
  | [] => .next s
  | (d, t, v) :: rest => .next (((s.setCell cell { c with eagReads := rest }).asyncWrite cell d (.clean v) t).getD s)

/-- STAT with a cause, FAULT, DONE and RUN (R255). -/
def eagStat (cause : BitVec 8) (fault done run : Bool) : Word :=
  at_ cause.toNat 3 ||| at_ (b2n fault) 2 ||| at_ (b2n done) 1 ||| at_ (b2n run) 0

/-- START and RESUME (R259, R265). A RESUME that runs clears FAULT and the cause as a START does: the run that they speak of is over (log
entry 59). -/
def eagGo (i : Instr) (h : Hdr) (f : FmtX) (resume : Bool) (s : State) : Host.Outcome State Fault Refusal :=
  issue i h s fun s c => do
    let e ← needEag c f
    let n := field f.ef 0 1
    legal (!c.eagRuns n)
    let t := c.tok i h
    let g := s.eag e
    let g := if resume then g else (g.setReg 16 0).setReg 17 0
    match eagCheck s s.cur g with
    | some (cause, reg) =>
      let s' := (s.setEag e (g.setReg 17 (eagStat cause true false false))).setCell s.cur c
      let s' := s'.fail s.cur t cause (ofNat reg)
      return { s := s', c := s'.cell s.cur, failed := true }
    | none =>
      if g.count ≤ g.next then
        return { s := s.setEag e (g.setReg 17 (eagStat 0 false true false)), c }
      else
        let g := { g.setReg 17 (eagStat 0 false false true) with
          run := some { cell := s.cur, handle := n, tok := t }, part := 0, words := [] }
        return { s := s.setEag e g, c := { c with eagRun := SMap.put c.eagRun n true }, async := true }

/-- EAGGO.START (R265). -/
def execEaggoStart (h : Hdr) (f : FmtX) (s : State) : Host.Outcome State Fault Refusal :=
  eagGo (.eaggoStart h f) h f false s

/-- EAGGO.RESUME (R265). -/
def execEaggoResume (h : Hdr) (f : FmtX) (s : State) : Host.Outcome State Fault Refusal :=
  eagGo (.eaggoResume h f) h f true s

/-- EAGGO.STOP (R265): after the next commit; no effect on a stream that is not running. -/
def execEaggoStop (h : Hdr) (f : FmtX) (s : State) : Host.Outcome State Fault Refusal :=
  issue (.eaggoStop h f) h s fun s c =>
    match c.eagOf (field f.ef 0 1) with
    | none => .ok { s, c }
    | some e =>
      let g := s.eag e
      match g.run with
      | none => .ok { s, c }
      | some r =>
        let r := { r with stopping := true, stopToks := r.stopToks ++ [c.tok (.eaggoStop h f) h] }
        .ok { s := s.setEag e { g with run := some r }, c, async := true }

/-! ### The stream -/

/-- The stream ends: RUN clears, the handle is free, the tokens of the stops fire, and the run's own token fires or is
FAULTED (R260, R265). One that a cut stops is to be resumed (R448, R453). -/
def State.eagEnd (s : State) (e : Nat) (r : EagRun) (done : Bool) (fault : Option (BitVec 8 × Word)) : State :=
  let g := s.eag e
  let st := match fault with
    | some (c, _) => eagStat c true false false
    | none => eagStat 0 false done false
  let again := if g.cut.isSome && !done && fault.isNone then some (r.cell, r.handle) else none
  let s := s.setEag e { g.setReg 17 st with run := none, again, part := 0, words := [] }
  let s := s.modCell r.cell (fun c => { r.stopToks.foldl Cell.fire c with eagRun := SMap.put c.eagRun r.handle false })
  match fault with
  | some (c, v) => s.fail r.cell r.tok c v
  | none => s.modCell r.cell (fun c => c.fire r.tok)

/-- The virtual address of word w of element n. -/
def Eag.wordAt (g : Eag) (n w : Nat) : Int := g.addr n + 8 * (w : Int)
/-- The key under which the generator keeps a word that it reads. -/
def eagKey (n w : Nat) : Nat := 64 * n + w

/-- What the pages of an element say, words in ascending order (R260): the cause at the first word that has one, a translation to ask the
pager for, or nothing. -/
def State.checkElement (s : State) (e n : Nat) : List Nat → PageCheck
  | [] => .ok
  | w :: ws =>
    let g := s.eag e
    let va := g.wordAt n w
    if va < 0 then .cause 0 5 (ofInt va)
    else
      match s.enginePage (eagBlock e) g.dom va.toNat false .source with
      | .error none => .miss va.toNat false
      | .error (some c) => .cause va.toNat c (ofInt va)
      | .ok _ => s.checkElement e n ws

/-- The words of element n are fetched as far as they can be. -/
def State.fetchElement (s : State) (e n : Nat) : State :=
  (upto (s.eag e).elw).foldl (fun s w =>
    let g := s.eag e
    let k := eagKey n w
    let va := g.wordAt n w
    if va < 0 then s
    else
      let (s', st) := s.fetch (eagBlock e) g.dom va.toNat 8 (.eag e k) (SMap.find g.words k)
      match st with
      | some (.failed _ _) => s'
      | some x => s'.setWord (.eag e k) x
      | none => s') s

/-- The words of element n, if each has been read. -/
def Eag.element (g : Eag) (n : Nat) : Option (List Val) :=
  (upto g.elw).mapM (fun w => match SMap.find g.words (eagKey n w) with
    | some (.got v) => some v
    | _ => none)

/-- A word of element n that another module has refused: its address and cause. -/
def Eag.lost (g : Eag) (n : Nat) : Option (Int × BitVec 8) :=
  (upto g.elw).findSome? (fun w => match SMap.find g.words (eagKey n w) with
    | some (.failed c _) => some (g.wordAt n w, c)
    | _ => none)

/-- Words pushed into the EAG's window as single words (R257). -/
def Eag.pushWord (g : Eag) (v : Val) : Eag :=
  let q := (g.reg 13).extractLsb' 0 32
  let w : QWord := ⟨v.v, v.p, g.tag, 0, q, 0, 0, g.dom, g.dom⟩
  { g.setReg 13 (ofNat (q + 1).toNat) with win := g.win ++ [{ w, slot := 0 }] }

/-- One block of a distributor element (R258). -/
def eagBlockWrite (g : Eag) (n : Nat) (vs : List Val) (s : State) (j : Nat) : State :=
  let b := n * g.elw / g.blkw + j
  let k := g.cell0 + b % g.nc * g.cstep
  let off := b / g.nc * (8 * g.blkw)
  let ws := (vs.drop (j * g.blkw)).take g.blkw
  s.modCell k (fun c =>
    let c := (ws.zip (List.range ws.length)).foldl (fun c x => c.stWord (g.lbase + (off + 8 * x.2) % g.span) x.1) c
    if g.se then c.setSem g.semN ((c.sem g.semN).add (8 * g.blkw)) else c)

/-- NEXT advances past the element; the stream ends at N or when a stop waits. -/
def State.eagCommit (s : State) (e : Nat) (r : EagRun) : State :=
  let g := s.eag e
  let n := g.next + 1
  let s := s.setEag e { g.setReg 16 (ofNat n) with part := 0, words := g.words.filter (fun x => decide (eagKey n 0 ≤ x.1)) }
  if g.count ≤ n then s.eagEnd e r true none
  else if r.stopping then s.eagEnd e r false none
  else s

/-- The element whose words are vs takes effect: the blocks of a distributor, once their local stores can be written, or as many words as
the window has room for; it commits with its last word (R257, R258). -/
def State.eagTake (s : State) (e : Nat) (r : EagRun) (vs : List Val) : State :=
  let g := s.eag e
  if g.dist then
    if (List.range g.nc).any (fun j => s.storeBusy (g.cell0 + j * g.cstep) g.lbase g.span) then s
    else ((List.range (g.elw / g.blkw)).foldl (eagBlockWrite g g.next vs) s).eagCommit e r
  else
    let m := min (g.qwin - g.win.length) (g.elw - g.part)
    let g := { ((vs.drop g.part).take m).foldl Eag.pushWord g with part := g.part + m }
    let s := s.setEag e g
    if g.part = g.elw then s.eagCommit e r else s

/-- An EAG commits its next element, or meets a fault or a wait (R256 to R260): no word of an element takes effect before every one has
been read, and a cause of any of its words stops the stream first. -/
def execEagElementCommit (e : Nat) (s : State) : Host.Outcome State Fault Refusal :=
  let g := s.eag e
  match g.run with
  | none => .next s
  | some r =>
    let n := g.next
    if g.part ≠ 0 then
      match g.element n with
      | some vs => .next (s.eagTake e r vs)
      | none => .next s
    else
      match s.checkElement e n (upto g.elw) with
      | .cause va c tval => .next ((s.dropRefused (eagBlock e) g.dom va).eagEnd e r false (some (c, tval)))
      | .miss va write => .next (s.askPager (eagBlock e) g.dom va write)
      | .ok =>
        let s := s.fetchElement e n
        match (s.eag e).lost n, (s.eag e).element n with
        | some (va, c), _ => .next (s.eagEnd e r false (some (c, ofInt va)))
        | none, some vs => .next (s.eagTake e r vs)
        | none, none => .next s

/-- A running generator fetches an element up to 64 ahead of NEXT (R256). -/
def State.eagFetch (s : State) (e ahead : Nat) : State :=
  let g := s.eag e
  let n := g.next + ahead
  if g.run.isSome ∧ ahead ≤ 64 ∧ n < g.count ∧ g.part = 0 then s.fetchElement e n else s

end Sys2Proof.Machine
end

