-- ==== Sys2Proof/Machine/EventUnit.lean ====
section
/-! DEFINITION. The strip event unit (R290 to R304): the instructions 0x80 to 0x85 and the unit's own operations. An arrival,
signal, request or release issues into the unit's queue; `execEventApply` applies those of one clk in the order of
R294. -/

namespace Sys2Proof.Machine

open Sys2Proof

/-! ### The combine path (R295) -/

/-- Comb(f, x, y). -/
def comb (f : BitVec 3) (x y : BitVec 32) : BitVec 32 :=
  match f.toNat with
  | 0 => if y.toNat < x.toNat then y else x
  | 1 => if x.toNat < y.toNat then y else x
  | 2 => x + y
  | 3 => x ||| y
  | 4 => if y.toInt < x.toInt then y else x
  | _ => if x.toInt < y.toInt then y else x

/-- ACCV after one more contribution, by that one's function (R295). -/
def combine : Option Comb → Option Comb → Option Comb
  | none, y => y
  | x, none => x
  | some a, some b => some ⟨comb b.fn a.v b.v, a.p || b.p, a.fn, a.mix || b.mix || decide (a.fn ≠ b.fn)⟩

/-- RES from ACCV: its value and poison, 0 and clean when no EVCMB arrived (R291, R295). -/
def resultOf : Option Comb → BitVec 32 × Bool
  | none => (0, false)
  | some a => (a.v, a.p || a.mix)

/-- The result as a g register receives it: zero-extended for FN 0 to 3, sign-extended for 4 and 5 (R295). -/
def extResult (f : BitVec 3) (v : BitVec 32) : Word := if f.toNat ≤ 3 then v.zeroExtend 64 else v.signExtend 64

/-! ### Arrivals, signals and requests in flight -/

/-- An arrival of slot j on line n has issued and is not yet applied (R291). -/
def Strip.arriving (t : Strip) (n j : Nat) : Bool :=
  t.evq.any (fun x => x.slot = j && (match x.op with
    | .arrive l _ => decide (l = n)
    | _ => false))

/-- A signal of slot j on line n has issued and is not yet applied. -/
def Strip.signalling (t : Strip) (n j : Nat) : Bool :=
  t.evq.any (fun x => x.slot = j && (match x.op with
    | .signal l => decide (l = n)
    | _ => false))

/-- A request of slot j for mutex m has issued and is not yet applied. -/
def Strip.locking (t : Strip) (m j : Nat) : Bool :=
  t.evq.any (fun x => x.slot = j && (match x.op with
    | .lock l => decide (l = m)
    | _ => false))

/-- A release of mutex m by slot j has issued and is not yet applied. -/
def Strip.unlocking (t : Strip) (m j : Nat) : Bool :=
  t.evq.any (fun x => x.slot = j && (match x.op with
    | .unlock l => decide (l = m)
    | _ => false))

/-- One more item for the unit, issued at clk `now`. -/
def Strip.send (t : Strip) (now slot : Nat) (op : EvOp) (tok : Tok) : Strip :=
  { t with evq := t.evq ++ [⟨now, slot, op, tok⟩] }

/-- EF20's line or mutex number, n bits wide. -/
def FmtX.line (f : FmtX) (n : Nat) : Nat := field f.ef 0 n

/-! ### Instructions (R301, R302) -/

/-- An arrival by EVARR or EVCMB (R291, R302). -/
def evArrive (s : State) (c : Cell) (n : Nat) (w : Option Comb) (tok : Tok) (d : BitVec 6) (fn : Option (BitVec 3)) :
    Except Stop Fin :=
  let st := stripOf s.cur
  let j := slotOf s.cur
  let t := s.strip st
  let b := t.bar n
  if b.arr.getLsbD j || t.arriving n j then .error (.wait .event (.evEpisode n))
  else
    let b := { b with arrived := SMap.put b.arrived j b.gen.toNat, waiters := b.waiters ++ [⟨j, tok, d, fn⟩] }
    let t := (t.setBar n b).send s.now j (.arrive n w) tok
    .ok { s := s.setStrip st t, c := { c with nonReplay := true }, async := true }

/-- The barrier line is enabled and admits the slot of the current cell (R301). -/
def needBar (s : State) (n : Nat) : Except Stop Unit :=
  let b := (s.strip (stripOf s.cur)).bar n
  legal (b.en && b.part.getLsbD (slotOf s.cur))

/-- EVARR (R302). -/
def execEvarr (h : Hdr) (f : FmtX) (s : State) : Host.Outcome State Fault Refusal :=
  issue (.evarr h f) h s fun s c => do
    let n := FmtX.line f 2
    needBar s n
    evArrive s c n none (c.tok (.evarr h f) h) 0 none

/-- EVCMB (R295, R302): the contribution is A's low 32 bits, with its poison; D is written after the episode completes. -/
def execEvcmb (h : Hdr) (f : FmtX) (s : State) : Host.Outcome State Fault Refusal :=
  issue (.evcmb h f) h s fun s c => do
    let n := FmtX.line f 2
    let fn := f.ef.extractLsb' 2 3
    needBar s n
    let tok := c.tok (.evcmb h f) h
    regsReady c [f.a, f.d]
    let (a, c) ← readSrc c f.a 0
    let c ← claimDst c f.d
    evArrive s c n (some ⟨a.v.extractLsb' 0 32, a.p, fn, false⟩) tok f.d (some fn)

/-- EVWAIT.B (R302). -/
def execEvwaitB (h : Hdr) (f : FmtX) (s : State) : Host.Outcome State Fault Refusal :=
  issue (.evwaitB h f) h s fun s c => do
    let n := FmtX.line f 2
    needBar s n
    let v ← evWaitB (s.strip (stripOf s.cur)) n (slotOf s.cur)
    let c ← writeDst c f.d v
    return { s, c }

/-- EVWAIT.E (R302). -/
def execEvwaitE (h : Hdr) (f : FmtX) (s : State) : Host.Outcome State Fault Refusal :=
  issue (.evwaitE h f) h s fun s c => do
    let n := FmtX.line f 3
    let st := stripOf s.cur
    let e := (s.strip st).ev n
    legal (e.en && e.mask.getLsbD (slotOf s.cur))
    let (v, t) ← evWaitE (s.strip st) n (slotOf s.cur)
    let c ← writeDst c f.d v
    return { s := s.setStrip st t, c }

/-- EVSIG (R302): on an AND line it sleeps while its signal is recorded, one in flight counting as recorded (log entry 7).
-/
def execEvsig (h : Hdr) (f : FmtX) (s : State) : Host.Outcome State Fault Refusal :=
  issue (.evsig h f) h s fun s c => do
    let n := FmtX.line f 3
    let st := stripOf s.cur
    let j := slotOf s.cur
    let t := s.strip st
    let e := t.ev n
    legal (e.en && (!e.andLine || e.mask.getLsbD j))
    if e.andLine && (e.sigd.getLsbD j || t.signalling n j) then .error (.wait .event (.evSig n))
    let t := t.send s.now j (.signal n) (c.tok (.evsig h f) h)
    return { s := s.setStrip st t, c := { c with nonReplay := true }, async := true }

/-- EVLOCK (R302): the request enters the unit at the issue, and the instruction sleeps until its slot holds the mutex. A
request in flight counts as one in WQ, and a release in flight as done. -/
def execEvlock (h : Hdr) (f : FmtX) (s : State) : Host.Outcome State Fault Refusal :=
  issue (.evlock h f) h s fun s c =>
    let m := FmtX.line f 2
    let st := stripOf s.cur
    let j := slotOf s.cur
    let t := s.strip st
    let x := t.mut m
    if c.step = 0 then
      if (x.hold = some j && !t.unlocking m j) || x.wq.contains j || t.locking m j then .error .illop
      else
        let t := t.send s.now j (.lock m) (c.tok (.evlock h f) h)
        .error (.waitIn (s.setStrip st t) { c with step := 1, nonReplay := true } .event (.evMutex m))
    else if x.hold = some j && !t.locking m j then .ok { s, c }
    else .error (.wait .event (.evMutex m))

/-- EVUNLK (R301, R302). -/
def execEvunlk (h : Hdr) (f : FmtX) (s : State) : Host.Outcome State Fault Refusal :=
  issue (.evunlk h f) h s fun s c => do
    let m := FmtX.line f 2
    let st := stripOf s.cur
    let j := slotOf s.cur
    let t := s.strip st
    legal (decide ((t.mut m).hold = some j) && !t.unlocking m j)
    let t := t.send s.now j (.unlock m) (c.tok (.evunlk h f) h)
    return { s := s.setStrip st t, c := { c with nonReplay := true }, async := true }

/-! ### Firing and completion (R291, R292, R297) -/

/-- EVCHc names a child strip (R299). -/
def Strip.kid (t : Strip) (i : Nat) : Option Nat :=
  let x := SMap.get 0 t.kids i
  if x.getLsbD 15 then some (field x 0 15) else none

/-- The children of a strip. -/
def Strip.children (t : Strip) : List Nat := (upto 8).filterMap t.kid

/-- The parent of a strip (R299). -/
def Strip.parent (t : Strip) : Option Nat := if t.par.getLsbD 15 then some (field t.par 0 15) else none

/-- Event line n of strip st fires: FCNT counts, PEND is set for every slot of MASK, SIGD clears, and a DOWN line forwards
the fire to every child (R292, R297). -/
def State.evFire (s : State) (st n : Nat) : State :=
  let t := s.strip st
  let e := t.ev n
  let t := t.setEv n { e with fcnt := e.fcnt + 1, pend := e.pend ||| e.mask, sigd := 0 }
  let s := (s.setStrip st t).trace (cellOfStrip st 0) 10 (at_ 1 19 ||| at_ n 16 ||| at_ (e.fcnt + 1).toNat 0)
  if e.down then
    t.children.foldl (fun s k => s.setStrip k { s.strip k with fires := (s.strip k).fires ++ [n] }) s
  else s

/-- The token or the result of one arrival, once its episode is complete with result v. -/
def State.evRelease (s : State) (st : Nat) (v : BitVec 32) (p : Bool) (w : EvWaiter) : State :=
  let k := cellOfStrip st w.slot
  match w.fn with
  | none => s.modCell k (fun c => c.fire w.tok)
  | some f =>
    let x : Val := ⟨extResult f v, p⟩
    (s.asyncWrite k w.d x w.tok).getD
      (s.setStrip st { s.strip st with due := (s.strip st).due ++ [⟨w.slot, w.tok, w.d, x⟩] })

/-- Barrier line n of strip st completes its episode with a result: RES, GEN, ARR and ACCV, the slots that arrived, and
DOWN to every child of a tree (R291, R297). -/
def State.evComplete (s : State) (st n : Nat) (r : BitVec 32 × Bool) : State :=
  let t := s.strip st
  let b := t.bar n
  let gone := b.waiters.filter (fun w => b.arr.getLsbD w.slot && !t.arriving n w.slot)
  let b' := { b with gen := b.gen + 1, arr := 0, accv := none, res := r.1, resP := r.2, reports := 0, reported := false,
                     waiters := b.waiters.filter (fun w => !gone.contains w) }
  let s := (s.setStrip st (t.setBar n b')).trace (cellOfStrip st 0) 10 (at_ n 16 ||| at_ (b.gen + 1).toNat 0)
  let s := gone.foldl (fun s w => s.evRelease st r.1 r.2 w) s
  if b.tree then
    t.children.foldl (fun s k => s.setStrip k { s.strip k with downs := (s.strip k).downs ++ [(n, r)] }) s
  else s

/-- Every slot of PART has arrived and, on a tree line, every child has reported (R291). -/
def Strip.evReady (t : Strip) (n : Nat) : Bool :=
  let b := t.bar n
  b.en && (b.part &&& ~~~b.arr) = 0 &&
  (!b.tree || (upto 8).all (fun i => (t.kid i).isNone || b.reports.getLsbD i)) &&
  (b.tree || b.part ≠ 0)

/-- Barrier line n of strip st is looked at: a root or an untreed line completes; another strip of a tree reports to its
parent once (R291, R297). -/
def State.evBar (s : State) (st n : Nat) : State :=
  let t := s.strip st
  let b := t.bar n
  if t.evReady n = false then s
  else
    match (if b.tree then t.parent else none) with
    | none => s.evComplete st n (resultOf b.accv)
    | some p =>
      if b.reported then s
      else
        let s := s.setStrip st (t.setBar n { b with reported := true })
        s.setStrip p { s.strip p with ups := (s.strip p).ups ++ [⟨st, n, b.accv⟩] }

/-- An AND line whose every slot of MASK has signalled fires (R292). -/
def State.evAnd (s : State) (st n : Nat) : State :=
  let e := (s.strip st).ev n
  if e.en && e.andLine && e.mask ≠ 0 && (e.mask &&& ~~~e.sigd) = 0 then s.evFire st n else s

/-- A free mutex is granted to its oldest request, whose EVLOCK's token fires (R293, R303). -/
def State.evGrant (s : State) (st m : Nat) : State :=
  let t := s.strip st
  let x := t.mut m
  match x.hold, x.wq with
  | none, j :: rest =>
    let toks := x.toks.filter (fun y => y.1 = j)
    let s := s.setStrip st (t.setMut m { hold := some j, wq := rest, toks := x.toks.filter (fun y => y.1 ≠ j) })
    toks.foldl (fun s y => s.modCell (cellOfStrip st j) (fun c => c.fire y.2)) s
  | _, _ => s

/-- Step 4 of R294: the completions, firings and grants that the changes make true. -/
def State.evSettle (s : State) (st : Nat) : State :=
  let s := (upto 4).foldl (fun s n => s.evBar st n) s
  let s := (upto 8).foldl (fun s n => s.evAnd st n) s
  (upto 4).foldl (fun s m => s.evGrant st m) s

/-- One change of an issuing slot is applied (R292, R293, R295). An arrival on a pulse line's signal fires at once. -/
def State.evChange (s : State) (st : Nat) (x : EvItem) : State :=
  let t := s.strip st
  let k := cellOfStrip st x.slot
  match x.op with
  | .arrive n w =>
    let b := t.bar n
    s.setStrip st (t.setBar n { b with arr := setBit b.arr x.slot true, accv := combine b.accv w })
  | .signal n =>
    let e := t.ev n
    let s := if e.andLine then s.setStrip st (t.setEv n { e with sigd := setBit e.sigd x.slot true }) else s.evFire st n
    s.modCell k (fun c => c.fire x.tok)
  | .lock m =>
    let y := t.mut m
    s.setStrip st (t.setMut m { y with wq := y.wq ++ [x.slot], toks := y.toks ++ [(x.slot, x.tok)] })
  | .unlock m =>
    let y := t.mut m
    (s.setStrip st (t.setMut m { y with hold := none })).modCell k (fun c => c.fire x.tok)

/-- The item is a release. -/
def EvItem.isUnlock (x : EvItem) : Bool :=
  match x.op with
  | .unlock _ => true
  | _ => false

/-- The items of slot j, in their order. -/
def ofSlot (xs : List EvItem) (j : Nat) : List EvItem := xs.filter (fun x => x.slot = j)

/-- Results whose destination had no room are written. -/
def State.evDue (s : State) (st : Nat) : State :=
  let t := s.strip st
  t.due.foldl (fun s x =>
    match s.asyncWrite (cellOfStrip st x.slot) x.d x.v x.tok with
    | some s' => s'.setStrip st { s'.strip st with due := (s'.strip st).due.erase x }
    | none => s) s

/-- The unit applies the changes that issued in the oldest clk, releases first and the others in ascending slot order, then
what they make true (R294). -/
def execEventApply (st : Nat) (s : State) : Host.Outcome State Fault Refusal :=
  let s := s.evDue st
  let t := s.strip st
  let at0 := (t.evq.head?.map (fun x => x.issuedAt)).getD 0
  let now := t.evq.filter (fun x => x.issuedAt = at0)
  let s := s.setStrip st { t with evq := t.evq.filter (fun x => x.issuedAt ≠ at0) }
  let first := now.filter EvItem.isUnlock
  let rest := now.filter (fun x => !x.isUnlock)
  let s := (first ++ (upto 8).flatMap (ofSlot rest)).foldl (fun s x => s.evChange st x) s
  .next (s.evSettle st)

/-- The oldest UP message of a strip is combined and counted as its child's report (R297). -/
def execEventUpMessage (st : Nat) (s : State) : Host.Outcome State Fault Refusal :=
  let t := s.strip st
  match t.ups with
  | [] => .next s
  | m :: rest =>
    let b := t.bar m.line
    let bits := (upto 8).foldl (fun (w : BitVec 8) i => if t.kid i = some m.fromStrip then setBit w i true else w) b.reports
    let t := { t with ups := rest }
    let t := t.setBar m.line { b with reports := bits, accv := combine b.accv m.accv }
    .next ((s.setStrip st t).evSettle st)

/-- The oldest DOWN message of a strip completes its episode (R297). -/
def execEventDownMessage (st : Nat) (s : State) : Host.Outcome State Fault Refusal :=
  let t := s.strip st
  match t.downs with
  | [] => .next s
  | (n, r) :: rest => .next (((s.setStrip st { t with downs := rest }).evComplete st n r).evSettle st)

/-- The oldest fire from the parent strip fires the line (R292). -/
def execEventParentFire (st : Nat) (s : State) : Host.Outcome State Fault Refusal :=
  let t := s.strip st
  match t.fires with
  | [] => .next s
  | n :: rest =>
    let s := s.setStrip st { t with fires := rest }
    .next (if (t.ev n).en then (s.evFire st n).evSettle st else s)

/-- The event unit of a strip at its reset values, its configuration kept (R290). -/
def Strip.clearEvents (t : Strip) : Strip :=
  { t with
    bars := t.bars.map (fun x => (x.1, ({ cfg := x.2.cfg } : Barrier)))
    evs := t.evs.map (fun x => (x.1, ({ cfg := x.2.cfg } : EventLine)))
    muts := [], evq := [], due := [], ups := [], downs := [], fires := [] }

end Sys2Proof.Machine
end

