-- ==== Sys2Proof/Machine/VecOps.lean ====
section
/-! DEFINITION. Vector elements (R305 to R308, R317), the types of R67, and the element operations of the vector unit
(R319 to R325). -/

namespace Sys2Proof.Machine

open Sys2Proof

/-! ### Types (R67, R96, R99) -/

/-- The width of a type. -/
def tyWidth (t : BitVec 4) : Nat :=
  match t.toNat with
  | 0 => 8 | 4 => 8 | 12 => 8 | 13 => 8
  | 1 => 16 | 5 => 16 | 8 => 16 | 9 => 16
  | 2 => 32 | 6 => 32 | 10 => 32 | 14 => 32
  | _ => 64

/-- The integer type of a code 0 to 7. -/
def tyInt (t : BitVec 4) : ITy := ⟨tyWidth t, decide (t.toNat < 4)⟩

/-- The floating-point format of a code 8 to 13. -/
def tyFmt (t : BitVec 4) : Fmt :=
  match t.toNat with
  | 8 => .f16 | 9 => .bf16 | 10 => .f32 | 11 => .f64 | 12 => .fE4m3
  | _ => .fE5m2

/-- The type is an integer type. -/
def isInt (t : BitVec 4) : Bool := decide (t.toNat ≤ 7)

/-- Extension of an element of type t to 64 bits: sign-extended for I types, zero-extended otherwise (R332). -/
def extElem (t : BitVec 4) (v : Nat) : Word := extend (decide (t.toNat < 4)) (tyWidth t / 8) v

/-! ### Registers -/

def VecState.reg (x : VecState) (n : Nat) : VReg := SMap.get {} x.v n
def VecState.setReg (x : VecState) (n : Nat) (r : VReg) : VecState := { x with v := SMap.put x.v n r }
def VecState.mask (x : VecState) (n : Nat) : MReg := SMap.get {} x.m n
def VecState.setMask (x : VecState) (n : Nat) (r : MReg) : VecState := { x with m := SMap.put x.m n r }

/-- The governing position of element e of width w (R306). -/
def posOf (w e : Nat) : Nat := e * w / 32

/-- The number of elements in range, n(w) (R306). -/
def elemCount (vl w : Nat) : Nat := vl * 32 / w

/-- Element e of width w and its poison (R306, R317). -/
def VReg.elem (r : VReg) (w e : Nat) : Nat × Bool :=
  let q := posOf w e
  ((r.d.toNat >>> (w * e)) % 2 ^ w, r.p.getLsbD q || (w = 64 && r.p.getLsbD (q + 1)))

/-- Position q of a register: its 32 bits and its poison. -/
def VReg.pos (r : VReg) (q : Nat) : Nat × Bool := r.elem 32 q

/-- Bits [32k + 31 : 32k] replaced, for the data of one element of width w. -/
def putElem (d : BitVec 16384) (w e v : Nat) : BitVec 16384 :=
  let m : BitVec 16384 := BitVec.ofNat 16384 ((2 ^ w - 1) <<< (w * e))
  (d &&& ~~~m) ||| BitVec.ofNat 16384 ((v % 2 ^ w) <<< (w * e))

/-- A result for one element: its index, its value and its poison. -/
structure ElemOut where
  e : Nat
  v : Nat
  p : Bool

/-- The register with results of width w written, in ascending order of element. A position takes the OR of the results'
poison, and keeps its old poison bit while one of its sub-elements is left unchanged (R317). -/
def VReg.write (r : VReg) (w : Nat) (xs : List ElemOut) : VReg :=
  let k := 32 / w
  let d := xs.foldl (fun d x => putElem d w x.e x.v) r.d
  if w = 64 then
    let p := xs.foldl (fun p x => setBit (setBit p (2 * x.e) x.p) (2 * x.e + 1) x.p) r.p
    { d, p }
  else
    let done := xs.foldl (fun (m : BitVec 2048) x => m ||| oneBit 2048 x.e) 0
    let whole (x : ElemOut) : Bool :=
      decide (x.e % k = k - 1) && decide ((done.toNat >>> (x.e / k * k)) % 2 ^ k = 2 ^ k - 1)
    let p := xs.foldl (fun p x => if whole x then setBit p (x.e / k) false else p) r.p
    let p := xs.foldl (fun p x => if x.p then setBit p (x.e / k) true else p) p
    { d, p }

/-- The mask register with bit pos(e), and for w = 64 also bit pos(e) + 1, written for each result (R307). -/
def MReg.write (r : MReg) (w : Nat) (xs : List ElemOut) : MReg :=
  xs.foldl (fun r x =>
    let q := posOf w x.e
    let b := x.v % 2 = 1
    let r : MReg := { b := setBit r.b q b, p := setBit r.p q x.p }
    if w = 64 then { b := setBit r.b (q + 1) b, p := setBit r.p (q + 1) x.p } else r) r

/-- Element e of width w is active under mask P, and the poison that the mask gives its results (R307). -/
def VecState.active (x : VecState) (p : BitVec 3) (w e : Nat) : Bool × Bool :=
  if p = 0 then (true, false)
  else
    let m := x.mask p.toNat
    let q := posOf w e
    (m.b.getLsbD q || m.p.getLsbD q, m.p.getLsbD q)

/-- An operand of role V: an element of a register, or a g register broadcast (R308). -/
def VecState.opnd (x : VecState) (fld : BitVec 6) (g : Val) (w e : Nat) : Nat × Bool :=
  if fld.toNat < 16 then (x.reg fld.toNat).elem w e else (g.v.toNat % 2 ^ w, g.p)

/-! ### Element operations -/

/-- A result with the flags that it sets. -/
structure Rounded where
  v : Nat
  fl : Flags := 0

/-- RoundTo as a result (R104). -/
def rnd (f : Fmt) (mode : BitVec 3) (sat : Bool) (st : BitVec 32) (x : Num) (fl : Flags) : Rounded :=
  let (v, g) := roundTo f mode sat st x
  ⟨v, fl ||| g⟩

/-- The invalid flag. -/
def nvIf (b : Bool) : Flags := if b then Flags.nv else Flags.none

/-- The integer quotient of R98 as a pattern of the type. -/
def intDiv (t : ITy) (a b : Int) : Nat := if b = 0 then 2 ^ t.w - 1 else t.wrap (a.tdiv b)

/-- Minimum or maximum of two integers. -/
def intPick (mx : Bool) (a b : Int) : Int := if mx then max a b else min a b

/-- minimumNumber and maximumNumber of two patterns (R102): -0 orders below +0. A signalling NaN sets NV. -/
def fltPick (f : Fmt) (mx : Bool) (a b : Nat) : Rounded :=
  let x := f.decode a
  let y := f.decode b
  let fl := f.snanFlag [a, b]
  let less (x y : Num) : Bool := x.lt y || (x.isZero && y.isZero && x.neg && !y.neg)
  match x.isNaN, y.isNaN with
  | true, true => ⟨f.nan, fl⟩
  | true, false => ⟨b, fl⟩
  | false, true => ⟨a, fl⟩
  | false, false => ⟨if less x y != mx then a else b, fl⟩

/-- The operations of R319. -/
inductive VOp where
  | add | sub | mul | fma | fms | div | sqrt | min | max
  deriving DecidableEq, Repr

/-- The exact value on integer operands, narrowed (R97, R98, R319). -/
def VOp.int (o : VOp) (t : ITy) (sat : Bool) (a b c : Int) : Nat :=
  match o with
  | .add => t.narrow sat (a + b)
  | .sub => t.narrow sat (a - b)
  | .mul => t.narrow sat (a * b)
  | .fma => t.narrow sat (a * b + c)
  | .fms => t.narrow sat (a * b - c)
  | .div => intDiv t a b
  | .sqrt => 0
  | .min => t.wrap (intPick false a b)
  | .max => t.wrap (intPick true a b)

/-- The exact value on floating-point operands, rounded once (R102, R104, R319). -/
def VOp.flt (o : VOp) (f : Fmt) (mode : BitVec 3) (sat : Bool) (st : BitVec 32) (a b c : Nat) : Rounded :=
  let x := f.decode a
  let y := f.decode b
  let z := f.decode c
  let s2 := f.snanFlag [a, b]
  let fused (z : Num) : Rounded :=
    let (p, i) := x.mul y
    let (r, j) := Num.add mode p z
    rnd f mode sat st r (f.snanFlag [a, b, c] ||| nvIf (i || j))
  match o with
  | .add =>
    let (r, i) := Num.add mode x y
    rnd f mode sat st r (s2 ||| nvIf i)
  | .sub =>
    let (r, i) := Num.add mode x y.negate
    rnd f mode sat st r (s2 ||| nvIf i)
  | .mul =>
    let (r, i) := x.mul y
    rnd f mode sat st r (s2 ||| nvIf i)
  | .fma => fused z
  | .fms => fused z.negate
  | .div =>
    let (r, fl) := x.div y
    rnd f mode sat st r (s2 ||| fl)
  | .sqrt =>
    let (r, fl) := x.sqrt
    rnd f mode sat st r (f.snanFlag [a] ||| fl)
  | .min => fltPick f false a b
  | .max => fltPick f true a b

/-- Exact operation and narrowing on patterns of a type. -/
def VOp.run (o : VOp) (t : BitVec 4) (mode : BitVec 3) (sat : Bool) (st : BitVec 32) (a b c : Nat) : Rounded :=
  if isInt t then
    let i := tyInt t
    ⟨o.int i sat (i.val a) (i.val b) (i.val c), 0⟩
  else o.flt (tyFmt t) mode sat st a b c

/-- VRCP (R320). -/
def vrcp (a : Nat) : Rounded :=
  let f := Fmt.f32
  match f.decode a with
  | .nan => ⟨f.nan, f.snanFlag [a]⟩
  | .zero s => ⟨f.inf s, Flags.dz⟩
  | .inf s => ⟨f.signBit s, 0⟩
  | .fin s n d =>
    let e := floorLog2 d n - 11
    let (k, r, q) := scaled d n e
    let k := if roundUp 0 s k r q 0 then k + 1 else k
    let (m, b) := ratio k e
    rnd f 0 false 0 (.fin s m b) (if r = 0 then 0 else Flags.nx)

/-- VABS and VNEG (R322). -/
def vabsNeg (t : BitVec 4) (neg sat : Bool) (a : Nat) : Rounded :=
  if isInt t then
    let i := tyInt t
    let x := i.val a
    ⟨i.narrow sat (if neg then -x else x.natAbs), 0⟩
  else
    let f := tyFmt t
    if (f.decode a).isNaN then ⟨f.nan, f.snanFlag [a]⟩
    else
      let m := a % 2 ^ (f.eb + f.fb)
      ⟨if neg && a < 2 ^ (f.eb + f.fb) then m + f.signBit true else m, 0⟩

/-- VCMP (R323): the relation and its flags. -/
def vcmp (t : BitVec 4) (fn : BitVec 3) (a b : Nat) : Rounded :=
  let rel (lt eq un : Bool) : Bool :=
    match fn.toNat with
    | 0 => eq && !un
    | 1 => !eq || un
    | 2 => lt && !un
    | 3 => (lt || eq) && !un
    | 4 => !lt && !eq && !un
    | 5 => !lt && !un
    | _ => un
  if isInt t then
    let i := tyInt t
    ⟨b2n (rel (decide (i.val a < i.val b)) (decide (i.val a = i.val b)) false), 0⟩
  else
    let f := tyFmt t
    let x := f.decode a
    let y := f.decode b
    let un := x.isNaN || y.isNaN
    let ord := decide (2 ≤ fn.toNat) && decide (fn.toNat ≤ 5)
    ⟨b2n (rel (!un && x.lt y) (x.eqv y) un), f.snanFlag [a, b] ||| nvIf (un && ord)⟩

/-- VAND, VOR, VXOR, VSHL, VSHR and VSRA on an element of width w (R325). -/
def vlogic (op : BitVec 8) (w a b : Nat) : Nat :=
  let k := b % w
  match op.toNat with
  | 0x98 => a &&& b
  | 0x99 => a ||| b
  | 0x9A => a ^^^ b
  | 0x9B => (a <<< k) % 2 ^ w
  | 0x9C => a >>> k
  | _ => if 2 ^ (w - 1) ≤ a then (a >>> k) ||| (2 ^ w - 2 ^ (w - k)) else a >>> k

/-- Conversion of a pattern (R108, R109, R326). -/
def convert (src dst : BitVec 4) (mode : BitVec 3) (sat : Bool) (st : BitVec 32) (a : Nat) : Rounded :=
  match isInt src, isInt dst with
  | true, true => ⟨(tyInt dst).narrow sat ((tyInt src).val a), 0⟩
  | true, false => rnd (tyFmt dst) mode sat st (Num.ofInt ((tyInt src).val a)) 0
  | false, true =>
    let (v, fl) := toIntTy (tyInt dst) mode sat st ((tyFmt src).decode a)
    ⟨v, fl⟩
  | false, false => rnd (tyFmt dst) mode sat st ((tyFmt src).decode a) ((tyFmt src).snanFlag [a])

/-! ### Vector registers of matrix transfers (R384) -/

/-- The entry writes, or reads, its vector register. -/
def MatEntry.writes (e : MatEntry) : Bool := e.tok.opb = 0xC9 || e.tok.opb = 0xCF
def MatEntry.reads (e : MatEntry) : Bool := e.tok.opb = 0xCD || e.tok.opb = 0xCF

/-- The vector registers that pending transfers will write, and those that they will read. -/
def MatState.writesV (m : MatState) : List Nat := (m.entries.filter MatEntry.writes).map (fun e => e.v)
def MatState.readsV (m : MatState) : List Nat := (m.entries.filter MatEntry.reads).map (fun e => e.v)

end Sys2Proof.Machine
end

