-- ==== Sys2Proof/Machine/Transcend.lean ====
section
/-! DEFINITION. VEXP2 and VSIG (R321): 2^x and 1 / (1 + e^-x) from the exact real value. The value is enclosed in an
interval of rationals about 2^-300 wide, and RoundTo is monotone, so that when both ends round to one result that is the
result. If they ever differed the result would be a free value (log entry 8). -/

namespace Sys2Proof.Machine

open Sys2Proof

/-- The fixed-point scale: a number v stands for v / 2^320. -/
def fx : Nat := 2 ^ 320

/-- A lower bound of ln 2 in fixed point, from 2 * sum of 1 / ((2k + 1) * 3^(2k + 1)); ln 2 is less than this plus 113. -/
def ln2Low : Nat := (List.range 110).foldl (fun a k => a + 2 * fx / ((2 * k + 1) * 3 ^ (2 * k + 1))) 0
def ln2High : Nat := ln2Low + 113

/-- The sum of n terms of the exponential series, each rounded down: term is the last term, k its index. -/
def expTerms (y : Nat) : Nat → Nat → Nat → Nat → Nat
  | 0, _, _, acc => acc
  | n + 1, k, term, acc =>
    let t := term * y / (fx * k)
    expTerms y n (k + 1) t (acc + t)

/-- A lower bound of e^y for 0 ≤ y < 1 in fixed point; e^y is less than this plus 1000. -/
def expLow (y : Nat) : Nat := expTerms y 90 1 fx fx
def expHigh (y : Nat) : Nat := expLow y + 1000

/-- An enclosure of a positive real: two fractions over one denominator. -/
structure Encl where
  lo : Nat
  hi : Nat
  den : Nat

/-- The common rounding of an enclosure, if its ends agree; an irrational value is never representable, so NX is set. -/
def Encl.round (x : Encl) (mode : BitVec 3) (sat : Bool) (st : BitVec 32) (free : Nat) : Rounded :=
  let (a, fa) := roundTo .f32 mode sat st (.fin false x.lo x.den)
  let (b, fb) := roundTo .f32 mode sat st (.fin false x.hi x.den)
  if a = b ∧ fa = fb then ⟨a, fa ||| Flags.nx⟩ else ⟨free % 2 ^ 32, Flags.nx⟩

/-- 2^x for a rational x of magnitude below 1,000 that is no integer: x = i + r / fx with r of fixed point. -/
def exp2Encl (i : Int) (rn rd : Nat) : Encl :=
  let lo := expLow (ln2Low * rn / rd)
  let hi := expHigh (ln2High * rn / rd + 1)
  if 0 ≤ i then ⟨lo * 2 ^ i.toNat, hi * 2 ^ i.toNat, fx⟩ else ⟨lo, hi, fx * 2 ^ (-i).toNat⟩

/-- VEXP2 (R321). -/
def vexp2 (mode : BitVec 3) (sat : Bool) (st : BitVec 32) (free a : Nat) : Rounded :=
  let f := Fmt.f32
  match f.decode a with
  | .nan => ⟨f.nan, f.snanFlag [a]⟩
  | .inf false => rnd f mode sat st (.inf false) 0
  | .inf true => ⟨0, 0⟩
  | .zero _ => rnd f mode sat st (.fin false 1 1) 0
  | .fin s n d =>
    let x : Int := if s then -(n : Int) else n
    -- beyond 1,000 every value rounds alike
    let i : Int := if 1000 * d ≤ n then (if s then -1000 else 1000) else x.fdiv d
    let r : Nat := if 1000 * d ≤ n then 0 else (x.fmod d).toNat
    if r = 0 then
      let (m, b) := ratio 1 i
      rnd f mode sat st (.fin false m b) 0
    else (exp2Encl i r d).round mode sat st free

/-- An enclosure of e^x for a rational 0 < x < 256, as fixed point times 2^i. -/
def expEncl (n d : Nat) : Nat × Nat × Nat :=
  let x := fx * n / d
  let i := x / ln2High
  let rlo := x - i * ln2High
  let rhi := x + 1 - i * ln2Low
  (i, expLow rlo, expHigh rhi)

/-- VSIG (R321). -/
def vsig (mode : BitVec 3) (st : BitVec 32) (free a : Nat) : Rounded :=
  let f := Fmt.f32
  match f.decode a with
  | .nan => ⟨f.nan, f.snanFlag [a]⟩
  | .inf false => rnd f mode false st (.fin false 1 1) 0
  | .inf true => ⟨0, 0⟩
  | .zero _ => rnd f mode false st (.fin false 1 2) 0
  | .fin s n d =>
    -- beyond 200 every value rounds alike
    let (n, d) := if 200 * d ≤ n then (200, 1) else (n, d)
    let (i, lo, hi) := expEncl n d
    let lo := lo * 2 ^ i
    let hi := hi * 2 ^ i
    let lower : Nat × Nat := if s then (fx, fx + hi) else (lo, fx + lo)
    let upper : Nat × Nat := if s then (fx, fx + lo) else (hi, fx + hi)
    let (a, fa) := roundTo f mode false st (.fin false lower.1 lower.2)
    let (b, fb) := roundTo f mode false st (.fin false upper.1 upper.2)
    if a = b ∧ fa = fb then ⟨a, fa ||| Flags.nx⟩ else ⟨free % 2 ^ 32, Flags.nx⟩

end Sys2Proof.Machine
end

