-- ==== Sys2Proof/Machine/Sds.lean ====
section
/-! DEFINITION. The signed-digit stream (R110 to R118): block headers and planes, ToSDS, EncodeUnder, and decoding. -/

namespace Sys2Proof.Machine

open Sys2Proof

/-- A header word: N and E (R111). -/
def sdsHeader (n e : Nat) : Word := ofNat (n * 256 + e)
def hdrN (w : Word) : Nat := field w 8 5
def hdrE (w : Word) : Nat := field w 0 8
/-- A malformed header (R111). -/
def hdrBad (w : Word) : Bool := hdrN w = 0 || decide (24 < hdrN w) || decide (w.toNat ≠ w.toNat % 2 ^ 13)

/-- The 2-bit code of element j in a plane (R112). -/
def planeCode (w : Word) (j : Nat) : Nat := field w (2 * j) 2

/-- The sum of d_i * 2^(m - i) over the first m planes for element j, with everything from the first terminator on equal
to 0 (R112, R113). -/
def digitSum (j : Nat) : List Word → Int → Int
  | [], acc => acc
  | w :: ws, acc =>
    match planeCode w j with
    | 0 => digitSum j ws (2 * acc)
    | 1 => digitSum j ws (2 * acc + 1)
    | 3 => digitSum j ws (2 * acc - 1)
    | _ => 2 ^ (ws.length + 1) * acc

/-- x_j of the given planes of a block with scale E (R113, R114): the sum times 2^(E - 127 - m). A zero block gives +0 and a
NaN block NaN (R110). -/
def sdsValue (e : Nat) (planes : List Word) (j : Nat) : Num :=
  if e = 0 then .zero false
  else if e = 255 then .nan
  else
    let k := digitSum j planes 0
    let x : Int := (e : Int) - 127 - planes.length
    let (n, d) := ratio k.natAbs x
    if k = 0 then .zero false else .fin (decide (k < 0)) n d

/-! ### Encoding (R116, R117) -/

/-- Sign and magnitude min(|x|, 2^127) of an element as a ratio. -/
def sdsMag (x : Num) : Nat × Nat :=
  match x with
  | .inf _ => (2 ^ 127, 1)
  | .fin _ n d => if 2 ^ 127 * d ≤ n then (2 ^ 127, 1) else (n, d)
  | _ => (0, 1)

/-- k[j] and whether f is not zero, under scale e and digit count n. -/
def sdsDigit (mode : BitVec 3) (n e : Nat) (x : Num) (st : BitVec 32) : Nat × Bool :=
  let (a, d) := sdsMag x
  let (k, r, q) := scaled a d ((e : Int) - 127 - n)
  (if roundUp mode x.neg k r q st then k + 1 else k, decide (r ≠ 0))

/-- The digit of plane i (from 1) of an element with magnitude k: bit n - i with the element's sign, and the terminator after
the last 1. -/
def sdsCode (n k i : Nat) (neg : Bool) : Nat :=
  let low := k % 2 ^ (n - i + 1)
  if low = 0 then 2 else if 2 ^ (n - i) ≤ low then (if neg then 3 else 1) else 0

/-- A block: its header and planes. -/
structure SdsBlock where
  hdr : Word
  planes : List Word
  fl : Flags

/-- A NaN block: planes 0 (R115). -/
def nanBlock (n : Nat) (fl : Flags) : SdsBlock := ⟨sdsHeader n 255, List.replicate n 0, fl⟩

/-- The planes of 32 signed magnitudes. -/
def sdsPlanes (n : Nat) (ks : List (Nat × Bool)) : List Word :=
  (List.range n).map (fun i =>
    ofNat ((ks.zip (List.range ks.length)).foldl (fun a x => a + sdsCode n x.1.1 (i + 1) x.1.2 * 4 ^ x.2) 0))

/-- NX if some f was not zero, UF if a nonzero element gave 0 (R116). -/
def sdsFlags (xs : List Num) (ks : List (Nat × Bool)) : Flags :=
  let nx := ks.any (fun k => k.2)
  let uf := (xs.zip ks).any (fun y => !y.1.isZero && y.2.1 = 0)
  (if nx then Flags.nx else 0) ||| (if uf then Flags.uf else 0)

/-- The block under scale e, whose magnitudes are below 2^n or are clamped when `sat`. -/
def sdsEmit (n e : Nat) (xs : List Num) (ks : List (Nat × Bool)) (clamp : Bool) : SdsBlock :=
  let top := 2 ^ n - 1
  let mags := (xs.zip ks).map (fun y => (if clamp then min y.2.1 top else y.2.1, y.1.neg))
  ⟨sdsHeader n e, sdsPlanes n mags, sdsFlags xs ks ||| (if clamp then Flags.of else 0)⟩

/-- The loop of R116 from scale e, at most `fuel` times. -/
def sdsLoop (xs : List Num) (n : Nat) (mode : BitVec 3) (sat : Bool) (rs : List (BitVec 32)) : Nat → Nat → SdsBlock
  | 0, _ => nanBlock n Flags.of
  | fuel + 1, e =>
    if 254 < e ∧ sat = false then nanBlock n Flags.of
    else
      let e := min e 254
      let ks := (xs.zip rs).map (fun y => sdsDigit mode n e y.1 y.2)
      let big := ks.any (fun k => decide (2 ^ n ≤ k.1))
      if big = false then sdsEmit n e xs ks false
      else if e = 254 ∧ sat then sdsEmit n e xs ks true
      else sdsLoop xs n mode sat rs fuel (e + 1)

/-- ToSDS (R116). -/
def toSds (xs : List Num) (n : Nat) (mode : BitVec 3) (sat : Bool) (rs : List (BitVec 32)) : SdsBlock :=
  if xs.any Num.isNaN then nanBlock n Flags.nv
  else if xs.all Num.isZero then ⟨sdsHeader n 0, List.replicate n 0xAAAAAAAAAAAAAAAA, 0⟩
  else if xs.any Num.isInf then sdsLoop xs n mode sat rs 3 255
  else
    let big := xs.foldl (fun m x => if m.abs.lt x.abs then x else m) (.zero false)
    match big with
    | .fin _ a d => sdsLoop xs n mode sat rs 3 (max 1 (floorLog2 a d + 128)).toNat
    | _ => nanBlock n 0

/-- EncodeUnder (R117). -/
def encodeUnder (xs : List Num) (e n : Nat) (mode : BitVec 3) (sat : Bool) (rs : List (BitVec 32)) : SdsBlock :=
  if xs.any Num.isNaN then nanBlock n Flags.nv
  else
    let ks := (xs.zip rs).map (fun y => sdsDigit mode n e y.1 y.2)
    if ks.any (fun k => decide (2 ^ n ≤ k.1)) then
      if sat then sdsEmit n e xs ks true else nanBlock n Flags.of
    else sdsEmit n e xs ks false

end Sys2Proof.Machine
end

