-- ==== Sys2Proof/Machine/Vec.lean ====
section
/-! DEFINITION. The issue of the vector instructions 0x88 to 0xAF into the cell's vector queue (R308 to R310, R316, R318),
and VSETL, which the pipeline executes (R337). -/

namespace Sys2Proof.Machine

open Sys2Proof

/-! ### Registers that engines will write (R316, R360, R384) -/

/-- Mask register n among the names of vector and mask registers: v0 to v15 are 0 to 15, p0 to p7 are 16 to 23. -/
def maskName (n : Nat) : Nat := 16 + n

/-- The registers that a predicate instruction writes: vd, C and with TB = 1 the DUP register. -/
def predWrites (x : FmtX) : List Nat :=
  [x.d.toNat, maskName x.c.toNat] ++ (if field x.ef 10 2 = 1 then [maskName (field x.ef 4 3)] else [])

/-- An entry of the vector queue is a predicate. -/
def VEntry.isPred (e : VEntry) : Bool := decide (0xC0 ≤ e.op.toNat)

/-- The registers that predicates of the cell, in the queue or past hand-off, will write. -/
def VecState.predWrites (x : VecState) : List Nat :=
  (x.queue.filter VEntry.isPred ++ x.preds).flatMap (fun e => Machine.predWrites e.x)

/-- A vector or predicate instruction that reads `rd` and writes `wr` waits for the predicate and matrix instructions of
the cell that will write one of these registers, and one that writes waits for matrix instructions that will read it. -/
def Cell.vregClear (c : Cell) (rd wr : List Nat) : Bool :=
  !(rd ++ wr).any (fun n => c.vec.predWrites.contains n || c.mat.writesV.contains n) &&
  !wr.any (fun n => c.mat.readsV.contains n)

/-! ### Roles (R308) -/

/-- The role of an operand field; `.any` is role V. -/
inductive VRole where
  | none | v | any | g | p
  deriving DecidableEq, Repr

/-- The registers that a field names. -/
def VRole.names (r : VRole) (x : BitVec 6) : List Nat :=
  match r with
  | .v => [x.toNat]
  | .any => if x.toNat < 16 then [x.toNat] else []
  | .p => [maskName x.toNat]
  | _ => []

/-- The g operand of a field, read at issue. -/
def VRole.read (r : VRole) (c : Cell) (x : BitVec 6) : Except Stop Val :=
  match r with
  | .g => readG c (x.toNat - 32)
  | .any => if 32 ≤ x.toNat then readG c (x.toNat - 32) else .ok Val.zero
  | _ => .ok Val.zero

/-- A poisoned g in role g raises POISON (R310). -/
def VRole.check (r : VRole) (fld : Nat) (v : Val) : Except Stop Unit := if r = .g then clean fld v else .ok ()

/-- There is room in the vector queue (R310). -/
def vqRoom (c : Cell) : Except Stop Unit :=
  if 16 ≤ c.vec.queue.length then .error (.wait .vqueue .vqRoom) else .ok ()

/-- The roles of D, A, B and C, the number of states drawn under STO, and what the operands must satisfy at issue. -/
structure VShape where
  d : VRole
  a : VRole
  b : VRole := .none
  c : VRole := .none
  draws : VecState → FmtV → Nat := fun x f => elemCount x.vl (tyWidth f.ty)
  legal : Cell → Val → Val → Val → Bool := fun _ _ _ _ => true

/-- The issue of a vector instruction (R310). -/
def vecIssue (i : Instr) (h : Hdr) (f : FmtV) (sh : VShape) (s : State) : Host.Outcome State Fault Refusal :=
  issue i h s fun s c => do
    let t := c.tok i h
    if sh.d = .g then regsReady c [f.d - 32]
    let ga ← sh.a.read c f.a
    let gb ← sh.b.read c f.b
    let gc ← sh.c.read c f.c
    legal (sh.legal c ga gb gc)
    sh.a.check 1 ga
    sh.b.check 2 gb
    sh.c.check 3 gc
    let rd := sh.a.names f.a ++ sh.b.names f.b ++ sh.c.names f.c ++ (if f.p = 0 then [] else [maskName f.p.toNat])
    let wr := sh.d.names f.d
    if c.vregClear rd wr = false then .error (.wait .token (.vreg rd wr))
    vqRoom c
    let c ← if sh.d = .g then claimDst c (f.d - 32) else .ok c
    let mode := c.mode f.rm
    let e : VEntry := { op := Instr.op i, f, x := ⟨0, 0, 0, 0, 0⟩, ga, gb, gc, mode, lfsr := c.sys.lfsr, vl := c.vec.vl, tok := t }
    let c := if mode = 5 then c.advanceLfsr (sh.draws c.vec f) else c
    return { s, c := { c with vec := { c.vec with queue := c.vec.queue ++ [e] } }, async := true }

/-- A result in a vector register from one, two or three operands of role V. -/
def vShape1 : VShape := { d := .v, a := .any }
def vShape2 : VShape := { d := .v, a := .any, b := .any }
def vShape3 : VShape := { d := .v, a := .any, b := .any, c := .any }

/-! ### Lane instructions (R319 to R325) -/

/-- VADD. -/
def execVadd (h : Hdr) (f : FmtV) (s : State) : Host.Outcome State Fault Refusal := vecIssue (.vadd h f) h f vShape2 s
/-- VSUB. -/
def execVsub (h : Hdr) (f : FmtV) (s : State) : Host.Outcome State Fault Refusal := vecIssue (.vsub h f) h f vShape2 s
/-- VMUL. -/
def execVmul (h : Hdr) (f : FmtV) (s : State) : Host.Outcome State Fault Refusal := vecIssue (.vmul h f) h f vShape2 s
/-- VFMA. -/
def execVfma (h : Hdr) (f : FmtV) (s : State) : Host.Outcome State Fault Refusal := vecIssue (.vfma h f) h f vShape3 s
/-- VFMS. -/
def execVfms (h : Hdr) (f : FmtV) (s : State) : Host.Outcome State Fault Refusal := vecIssue (.vfms h f) h f vShape3 s
/-- VDIV. -/
def execVdiv (h : Hdr) (f : FmtV) (s : State) : Host.Outcome State Fault Refusal := vecIssue (.vdiv h f) h f vShape2 s
/-- VSQRT. -/
def execVsqrt (h : Hdr) (f : FmtV) (s : State) : Host.Outcome State Fault Refusal := vecIssue (.vsqrt h f) h f vShape1 s
/-- VRCP. -/
def execVrcp (h : Hdr) (f : FmtV) (s : State) : Host.Outcome State Fault Refusal := vecIssue (.vrcp h f) h f vShape1 s
/-- VEXP2. -/
def execVexp2 (h : Hdr) (f : FmtV) (s : State) : Host.Outcome State Fault Refusal := vecIssue (.vexp2 h f) h f vShape1 s
/-- VSIG. -/
def execVsig (h : Hdr) (f : FmtV) (s : State) : Host.Outcome State Fault Refusal := vecIssue (.vsig h f) h f vShape1 s
/-- VMIN. -/
def execVmin (h : Hdr) (f : FmtV) (s : State) : Host.Outcome State Fault Refusal := vecIssue (.vmin h f) h f vShape2 s
/-- VMAX. -/
def execVmax (h : Hdr) (f : FmtV) (s : State) : Host.Outcome State Fault Refusal := vecIssue (.vmax h f) h f vShape2 s
/-- VABS. -/
def execVabs (h : Hdr) (f : FmtV) (s : State) : Host.Outcome State Fault Refusal := vecIssue (.vabs h f) h f vShape1 s
/-- VNEG. -/
def execVneg (h : Hdr) (f : FmtV) (s : State) : Host.Outcome State Fault Refusal := vecIssue (.vneg h f) h f vShape1 s
/-- VCMP. -/
def execVcmp (h : Hdr) (f : FmtV) (s : State) : Host.Outcome State Fault Refusal :=
  vecIssue (.vcmp h f) h f { d := .p, a := .any, b := .any } s
/-- VSEL. -/
def execVsel (h : Hdr) (f : FmtV) (s : State) : Host.Outcome State Fault Refusal :=
  vecIssue (.vsel h f) h f { d := .v, a := .any, b := .any, c := .p } s
/-- VAND. -/
def execVand (h : Hdr) (f : FmtV) (s : State) : Host.Outcome State Fault Refusal := vecIssue (.vand h f) h f vShape2 s
/-- VOR. -/
def execVor (h : Hdr) (f : FmtV) (s : State) : Host.Outcome State Fault Refusal := vecIssue (.vor h f) h f vShape2 s
/-- VXOR. -/
def execVxor (h : Hdr) (f : FmtV) (s : State) : Host.Outcome State Fault Refusal := vecIssue (.vxor h f) h f vShape2 s
/-- VSHL. -/
def execVshl (h : Hdr) (f : FmtV) (s : State) : Host.Outcome State Fault Refusal := vecIssue (.vshl h f) h f vShape2 s
/-- VSHR. -/
def execVshr (h : Hdr) (f : FmtV) (s : State) : Host.Outcome State Fault Refusal := vecIssue (.vshr h f) h f vShape2 s
/-- VSRA. -/
def execVsra (h : Hdr) (f : FmtV) (s : State) : Host.Outcome State Fault Refusal := vecIssue (.vsra h f) h f vShape2 s

/-! ### Port instructions (R326 to R339) -/

/-- The element count of VCVT, over the wider type (R326); it draws nothing between integer types (R106). -/
def cvtCount (vl : Nat) (f : FmtV) : Nat := elemCount vl (max (tyWidth f.ty) (tyWidth (f.c.extractLsb' 0 4)))

/-- VCVT. -/
def execVcvt (h : Hdr) (f : FmtV) (s : State) : Host.Outcome State Fault Refusal :=
  vecIssue (.vcvt h f) h f {
    d := .v, a := .any,
    draws := fun x f => if isInt f.ty && isInt (f.c.extractLsb' 0 4) then 0 else cvtCount x.vl f } s

/-- VSDC. -/
def execVsdc (h : Hdr) (f : FmtV) (s : State) : Host.Outcome State Fault Refusal :=
  vecIssue (.vsdc h f) h f { d := .v, a := .g, b := .g } s

/-- The number of blocks of 32 elements (R327). -/
def blockCount (n : Nat) : Nat := (n + 31) / 32

/-- VSDE: the header operand is checked at issue, and 32 states are drawn for each block (R310, R327). -/
def execVsde (h : Hdr) (f : FmtV) (s : State) : Host.Outcome State Fault Refusal :=
  vecIssue (.vsde h f) h f {
    d := .none, a := .v, b := .g, c := .g,
    draws := fun x f => 32 * blockCount (elemCount x.vl (tyWidth f.ty)),
    legal := fun _ _ _ g => !hdrBad g.v && hdrE g.v ≠ 255 } s

/-- VSDD: bits [63:5] of gm must be 0 (R328). -/
def execVsdd (h : Hdr) (f : FmtV) (s : State) : Host.Outcome State Fault Refusal :=
  vecIssue (.vsdd h f) h f { d := .v, a := .g, b := .g, legal := fun _ _ g _ => decide (g.v.toNat < 32) } s

/-- VLDL. -/
def execVldl (h : Hdr) (f : FmtV) (s : State) : Host.Outcome State Fault Refusal :=
  vecIssue (.vldl h f) h f { d := .v, a := .g, b := .g } s
/-- VSTL. -/
def execVstl (h : Hdr) (f : FmtV) (s : State) : Host.Outcome State Fault Refusal :=
  vecIssue (.vstl h f) h f { d := .none, a := .g, b := .g, c := .v } s
/-- VGATH. -/
def execVgath (h : Hdr) (f : FmtV) (s : State) : Host.Outcome State Fault Refusal :=
  vecIssue (.vgath h f) h f { d := .v, a := .g, b := .v } s
/-- VSCAT. -/
def execVscat (h : Hdr) (f : FmtV) (s : State) : Host.Outcome State Fault Refusal :=
  vecIssue (.vscat h f) h f { d := .none, a := .g, b := .v, c := .v } s
/-- VBCAST: B is an index when A is a vector register. -/
def execVbcast (h : Hdr) (f : FmtV) (s : State) : Host.Outcome State Fault Refusal :=
  vecIssue (.vbcast h f) h f { d := .v, a := .any, b := if f.a.toNat < 16 then .g else .none } s
/-- VEXT. -/
def execVext (h : Hdr) (f : FmtV) (s : State) : Host.Outcome State Fault Refusal :=
  vecIssue (.vext h f) h f { d := .g, a := .v, b := .g } s

/-- A reduction draws only for a float .SUM, the one form that rounds (R106). -/
def redDraws (x : VecState) (f : FmtV) : Nat :=
  if f.fn = 0 && !isInt f.ty then elemCount x.vl (tyWidth f.ty) else 0

/-- VRED. -/
def execVred (h : Hdr) (f : FmtV) (s : State) : Host.Outcome State Fault Refusal :=
  vecIssue (.vred h f) h f { d := .g, a := .v, draws := redDraws } s
/-- VSCAN. -/
def execVscan (h : Hdr) (f : FmtV) (s : State) : Host.Outcome State Fault Refusal :=
  vecIssue (.vscan h f) h f { d := .v, a := .v, draws := redDraws } s
/-- VPERM. -/
def execVperm (h : Hdr) (f : FmtV) (s : State) : Host.Outcome State Fault Refusal :=
  vecIssue (.vperm h f) h f { d := .v, a := .v, b := .v } s
/-- VIOTA. -/
def execViota (h : Hdr) (f : FmtV) (s : State) : Host.Outcome State Fault Refusal :=
  vecIssue (.viota h f) h f { d := .v, a := .g, b := .g } s
/-- VIOTA.CNT. -/
def execViotaCnt (h : Hdr) (f : FmtV) (s : State) : Host.Outcome State Fault Refusal :=
  vecIssue (.viotaCnt h f) h f { d := .v, a := .none, c := .p } s
/-- VMOVP.AND, .OR, .XOR, .ANDN and .NOT. -/
def execVmovp (h : Hdr) (f : FmtV) (s : State) : Host.Outcome State Fault Refusal :=
  vecIssue (.vmovp h f) h f { d := .p, a := .p, b := if f.fn = 4 then .none else .p } s
/-- VMOVP.RD: a row number above 15 raises ILLOP. -/
def execVmovpRd (h : Hdr) (f : FmtV) (s : State) : Host.Outcome State Fault Refusal :=
  vecIssue (.vmovpRd h f) h f { d := .g, a := .p, b := .g, legal := fun _ _ g _ => decide (g.v.toNat ≤ 15) } s
/-- VMOVP.WR: a poisoned A travels into the row (R310). -/
def execVmovpWr (h : Hdr) (f : FmtV) (s : State) : Host.Outcome State Fault Refusal :=
  vecIssue (.vmovpWr h f) h f { d := .p, a := .any, b := .g, legal := fun _ _ g _ => decide (g.v.toNat ≤ 15) } s

/-- The number of words that VPOPQ and VPUSHQ move (R339). -/
def wordCount (vl : Nat) : Nat := (vl + 1) / 2

/-- VPOPQ: the port is bound inbound and its ring can hold the words (R339). -/
def execVpopq (h : Hdr) (f : FmtV) (s : State) : Host.Outcome State Fault Refusal :=
  vecIssue (.vpopq h f) h f {
    d := .v, a := .none,
    legal := fun c _ _ _ => c.binding f.c.toNat = 1 && decide (wordCount c.vec.vl ≤ (c.inEp f.c.toNat).slots) } s

/-- VPUSHQ: the port is bound outbound and its window can hold the words (R339). -/
def execVpushq (h : Hdr) (f : FmtV) (s : State) : Host.Outcome State Fault Refusal :=
  vecIssue (.vpushq h f) h f {
    d := .none, a := .v,
    legal := fun c _ _ _ => c.binding f.c.toNat = 2 && decide (wordCount c.vec.vl ≤ (c.outEp f.c.toNat).win.toNat) } s

/-! ### VSETL (R337) -/

/-- VSETL: VL and gd from a count. -/
def execVsetl (h : Hdr) (f : FmtV) (s : State) : Host.Outcome State Fault Refusal :=
  issue (.vsetl h f) h s fun s c => do
    let ga ← if f.fn = 0 then readG c (f.a.toNat - 32) else .ok Val.zero
    clean 1 ga
    let n : Nat := match f.fn.toNat with
      | 0 => uns ga.v
      | 1 => c.ident.ext0.toNat
      | 2 => c.ident.ext1.toNat
      | 3 => c.ident.ext2.toNat
      | _ => c.ident.ext3.toNat
    let w := tyWidth f.ty
    let c ← writeDst c (f.d - 32) (.clean (ofNat (min n (512 * 32 / w))))
    return { s, c := { c with vec := { c.vec with vl := min 512 ((n * w + 31) / 32) } } }

end Sys2Proof.Machine
end

