-- ==== Sys2Proof/Machine/VecRun.lean ====
section
/-! DEFINITION. The execution of the vector queue (R311 to R317): the begin of a port instruction with all its checks, the
completion of the oldest instruction with its results, flags and token, and the fault that discards the queue. -/

namespace Sys2Proof.Machine

open Sys2Proof

/-! ### The resources of a quad (R312, R340) -/

/-- Rows of group g that hold a position below VL. -/
def groupRows (vl g : Nat) : Nat := (vl - 8 * g + 31) / 32

/-- Lane slots for each row. -/
def slotsPerRow (op : BitVec 8) (ty : BitVec 4) : Nat :=
  let wideInt := isInt ty && tyWidth ty = 64
  match op.toNat with
  | 0x8A => if wideInt then 2 else 1
  | 0x8B => if wideInt then 2 else 1
  | 0x8C => if wideInt then 2 else 1
  | 0x8F => 2
  | 0x90 => 4
  | 0x91 => 6
  | 0x8D => if tyWidth ty = 64 then 16 else 8
  | 0x8E => if tyWidth ty = 64 then 16 else 8
  | _ => 1

/-- A lane instruction (R318). -/
def isLane (op : BitVec 8) : Bool := decide (0x88 ≤ op.toNat) && decide (op.toNat ≤ 0x9D)

/-- Stage-A slots of a predicate in each lane group (R361). -/
def stageASlots (kind : Nat) : Nat :=
  match kind with
  | 0 => 3
  | 1 => 7
  | 2 => 9
  | 3 => 22
  | _ => 14

/-- The slots of an entry on resource x: G0 to G3 are 0 to 3, the row port is 4 (R311, R312, R356). A predicate with no active lane
has no stage A (R363). -/
def VEntry.need (e : VEntry) (x : Nat) : Nat :=
  if isLane e.op then (if x < 4 then groupRows e.vl x * slotsPerRow e.op e.f.ty else 0)
  else if e.begun = false then 0
  else if x = 4 then e.cost
  else if e.isPred && !e.lanes.isEmpty then stageASlots (e.op.toNat - 0xC0)
  else 0

/-- Those it has not taken. -/
def VEntry.left (e : VEntry) (x : Nat) : Nat := e.need x - SMap.get 0 e.taken x

/-- The entry has taken all its slots. -/
def VEntry.spent (e : VEntry) : Bool := (isLane e.op || e.begun) && (upto 5).all (fun x => e.left x = 0)

/-- An entry lets the entries behind it take slots in lane group g: a lane instruction or a predicate in stage A that has taken its
last there, where a predicate that waits at its hand-off holds back all (R311, R356). -/
def VEntry.passes (e : VEntry) (preds g : Nat) : Bool :=
  if isLane e.op then e.left g = 0
  else e.isPred && e.begun && e.left 4 = 0 && e.left g = 0 && (!e.spent || decide (preds < 4))

/-- The entry of a cell's queue with a slot ready to begin on resource x (R311): in a lane group the first with a slot left there
behind entries that let it pass, on the port the oldest, which has begun. -/
def Cell.slotReady (c : Cell) (x : Nat) : Option Nat :=
  let q := c.vec.queue
  if x < 4 then
    ((List.range q.length).find? (fun n => match q[n]? with
      | some e => decide (0 < e.left x) && (q.take n).all (fun y => y.passes c.vec.preds.length x) && (isLane e.op || e.left 4 = 0)
      | none => false))
  else
    match q with
    | e :: _ => if 0 < e.left 4 then some 0 else none
    | [] => none

def VecState.deficitOf (v : VecState) (x : Nat) : Nat := SMap.get 0 v.deficit x
/-- The deficit of the cell in position l of a quad. -/
def State.setDeficit (s : State) (q l x d : Nat) : State :=
  s.modCell (cellOfQuad q l) (fun c => { c with vec := { c.vec with deficit := SMap.put c.vec.deficit x d } })

/-- Arbitrate(x) of R312: the position in the quad that is granted one slot of resource x, and the state after it. -/
def State.arbitrate (s : State) (q x : Nat) : State × Option Nat :=
  let at_ (l : Nat) : Cell := s.cell (cellOfQuad q l)
  let ready (l : Nat) : Bool := ((at_ l).slotReady x).isSome
  let cur := SMap.get 0 (s.quad q).cur x
  let d := (at_ cur).vec.deficitOf x
  if (upto 4).all (fun l => !ready l) then (s, none)
  else if ready cur && decide (0 < d) then (s.setDeficit q cur x (d - 1), some cur)
  else
    let s := if ready cur then s else s.setDeficit q cur x 0
    let l := (([cur + 1, cur + 2, cur + 3].map (· % 4)).find? ready).getD cur
    let v := (s.cell (cellOfQuad q l)).vec
    ((s.setQuad q { s.quad q with cur := SMap.put (s.quad q).cur x l }).setDeficit q l x
      (v.deficitOf x + 8 * v.weight.toNat - 1), some l)

/-- The lane group of an element of an entry: that of its position, for a predicate of its lane (R311, R356). -/
def VEntry.groupOf (e : VEntry) (i : Nat) : Nat := if e.isPred then i / 4 else posOf (tyWidth e.f.ty) i % 32 / 8

/-- The element of an entry can fire a third time in a slot of group x. -/
def VEntry.canRefire (e : VEntry) (x i : Nat) : Bool :=
  decide (x < 4) && e.groupOf i = x && !e.refired.any (fun r => r.elem = i) &&
    (if e.isPred then e.lanes.any (fun l => l.lane = i) else decide (i < elemCount e.vl (tyWidth e.f.ty)))

/-- One clk of resource x of a quad (R312): the granted entry takes a slot, or spends the grant on a third firing, which is counted and
traced (R124, R125). -/
def State.takeSlot (s : State) (q x : Nat) (rf : Option Refire) : State :=
  let (s, l) := s.arbitrate q x
  match l with
  | none => s
  | some l =>
    let k := cellOfQuad q l
    let c := s.cell k
    let put (n : Nat) (e : VEntry) : State := s.setCell k { c with vec := { c.vec with queue := c.vec.queue.set n e } }
    match c.slotReady x with
    | none => s
    | some n =>
      match c.vec.queue[n]?, rf with
      | some e, some r =>
        if e.canRefire x r.elem then
          (put n { e with refired := e.refired ++ [r] }).softError k (if e.isPred then 2 else 0) r.majority
        else put n { e with taken := SMap.put e.taken x (SMap.get 0 e.taken x + 1) }
      | some e, none => put n { e with taken := SMap.put e.taken x (SMap.get 0 e.taken x + 1) }
      | none, _ => s

/-! ### What an execution gives -/

/-- A failed check of a port instruction: its cause and value (R315). -/
structure VFail where
  cause : BitVec 8
  tval : Word

/-- The cell with the results written, and the flags. -/
structure VDone where
  c : Cell
  fl : Flags := 0

abbrev VRes := Except VFail VDone

/-- A result of one element, with the flags it sets when it is clean. -/
structure ElemRes where
  out : ElemOut
  fl : Flags

/-- OR of the flags of clean results (R103). -/
def flagsOf (rs : List ElemRes) : Flags := rs.foldl (fun a r => if r.out.p then a else a ||| r.fl) 0

/-- The results of the elements below n under the mask: `f e` gives value, poison and flags of an active element; an
inactive one is written 0 under PZ (R307). -/
def perElem (x : VecState) (e : VEntry) (w n : Nat) (f : Nat → Nat × Bool × Flags) : List ElemRes :=
  (upto n).filterMap (fun i =>
    let (a, mp) := x.active e.f.p w i
    if a then
      let (v, p, fl) := f i
      some ⟨⟨i, v, p || mp⟩, fl⟩
    else if e.f.pz then some ⟨⟨i, 0, false⟩, 0⟩
    else none)

/-- Results into vector register D. -/
def Cell.writeV (c : Cell) (e : VEntry) (w : Nat) (rs : List ElemRes) : VDone :=
  let d := e.f.d.toNat
  ⟨{ c with vec := c.vec.setReg d ((c.vec.reg d).write w (rs.map (fun r => r.out))) }, flagsOf rs⟩

/-- Results into mask register D. -/
def Cell.writeM (c : Cell) (e : VEntry) (w : Nat) (rs : List ElemRes) : VDone :=
  let d := e.f.d.toNat
  ⟨{ c with vec := c.vec.setMask d ((c.vec.mask d).write w (rs.map (fun r => r.out))) }, flagsOf rs⟩

/-- A scalar result into gd, which is free again (R149). -/
def Cell.writeG (c : Cell) (e : VEntry) (v : Val) (fl : Flags) : VDone :=
  let d := (e.f.d - 32).toNat
  ⟨(c.unbusy d).setReg d v, if v.p then 0 else fl⟩

/-- The state drawn for element i under STO (R106). -/
def VEntry.draw (e : VEntry) (i : Nat) : BitVec 32 := if e.mode = 5 then lfsrSteps e.lfsr (i + 1) else 0

/-! ### Lane instructions (R319 to R325) -/

/-- The number of operands. -/
def laneArity (op : BitVec 8) : Nat :=
  match op.toNat with
  | 0x8B => 3
  | 0x8C => 3
  | 0x8E => 1
  | 0x8F => 1
  | 0x90 => 1
  | 0x91 => 1
  | 0x94 => 1
  | 0x95 => 1
  | _ => 2

/-- The result of one element. -/
def laneValue (e : VEntry) (st : BitVec 32) (free a b c : Nat) : Rounded :=
  let t := e.f.ty
  let w := tyWidth t
  let run (o : VOp) : Rounded := o.run t e.mode e.f.sat st a b c
  match e.op.toNat with
  | 0x88 => run .add
  | 0x89 => run .sub
  | 0x8A => run .mul
  | 0x8B => run .fma
  | 0x8C => run .fms
  | 0x8D => run .div
  | 0x8E => run .sqrt
  | 0x8F => vrcp a
  | 0x90 => vexp2 e.mode e.f.sat st free a
  | 0x91 => vsig e.mode st free a
  | 0x92 => run .min
  | 0x93 => run .max
  | 0x94 => vabsNeg t false e.f.sat a
  | 0x95 => vabsNeg t true e.f.sat a
  | 0x96 => vcmp t e.f.fn a b
  | _ => ⟨vlogic e.op w a b, 0⟩

/-- The elements that fired three times with no majority. -/
def noMajority (rf : List Refire) : List Nat := (rf.filter (fun r => !r.majority)).map (fun r => r.elem)

/-- The results of a lane instruction in the lane groups gs. An element that fired three times with no majority has a free value and is
poisoned (R123). -/
def laneRun (c : Cell) (e : VEntry) (free : Nat → Nat) (gs : List Nat) : VDone :=
  let bad := noMajority e.refired
  let x := c.vec
  let w := tyWidth e.f.ty
  let n := elemCount e.vl w
  let ar := laneArity e.op
  let one (i : Nat) : Nat × Bool × Flags :=
    if bad.contains i then (free i, true, 0)
    else
      let a := x.opnd e.f.a e.ga w i
      let b := if 2 ≤ ar then x.opnd e.f.b e.gb w i else (0, false)
      if e.op = 0x97 then
        let m := x.mask e.f.c.toNat
        let q := posOf w i
        let v := if m.b.getLsbD q then a else b
        (v.1, v.2 || m.p.getLsbD q, 0)
      else
        let d := if 3 ≤ ar then x.opnd e.f.c e.gc w i else (0, false)
        let r := laneValue e (e.draw i) (free i) a.1 b.1 d.1
        (r.v, a.2 || b.2 || d.2, r.fl)
  let rs := (perElem x e w n one).filter (fun r => gs.contains (e.groupOf r.out.e))
  if e.op = 0x96 then c.writeM e w rs else c.writeV e w rs

/-! ### Addresses (R330, R331) -/

/-- The byte address of a transfer, as an exact integer, lies in the local store with its bytes. -/
def inLocal (a : Int) (n : Nat) : Bool := decide (0 ≤ a) && decide (a + n ≤ 0x20000)

/-- The checks of R330 and R331 for transfers of n bytes at the addresses `as` of the active elements, from a base: ALIGN of the lowest
element, else of the other addresses that must be multiples of n; then LBOUND of the lowest element (R315, R76). -/
def checkAddrs (n : Nat) (as others : List Int) : Except VFail Unit :=
  match (as ++ others).find? (fun (a : Int) => decide (a % (n : Int) ≠ 0)) with
  | some a => .error ⟨causeAlign, ofInt a⟩
  | none =>
    match as.find? (fun (a : Int) => !inLocal a n) with
    | some a => .error ⟨causeLbound, ofInt a⟩
    | none => .ok ()

/-- The active elements below n. -/
def actives (x : VecState) (e : VEntry) (w n : Nat) : List Nat := (upto n).filter (fun i => (x.active e.f.p w i).1)

/-- The address of element i of VLDL and VSTL. -/
def strideAddr (e : VEntry) (w i : Nat) : Int :=
  (uns e.ga.v : Int) + i * (if e.gb.v = 0 then ((w / 8 : Nat) : Int) else sgn e.gb.v)

/-- The checks of VLDL and VSTL. A misaligned base or stride with no misaligned active element shows the base, or the
address of element 1 if only the stride is misaligned. -/
def checkStride (x : VecState) (e : VEntry) : Except VFail Unit :=
  let w := tyWidth e.f.ty
  checkAddrs (w / 8) ((actives x e w (elemCount e.vl w)).map (strideAddr e w)) [(uns e.ga.v : Int), strideAddr e w 1]

/-- The index of element i in vb, N32 at position pos(i), and its poison. -/
def indexOf (x : VecState) (e : VEntry) (w i : Nat) : Nat × Bool := (x.reg e.f.b.toNat).pos (posOf w i)

/-- The checks of VGATH and VSCAT: of the elements with a clean index, of the base, which R330 wants to be a multiple of the width, and
the poisoned index of a VSCAT. -/
def checkIndexed (x : VecState) (e : VEntry) : Except VFail Unit := do
  let w := tyWidth e.f.ty
  let act := actives x e w (elemCount e.vl w)
  checkAddrs (w / 8) ((act.filter (fun i => !(indexOf x e w i).2)).map
    (fun i => ((uns e.ga.v + (indexOf x e w i).1 : Nat) : Int))) [(uns e.ga.v : Int)]
  if e.op = 0xA5 ∧ act.any (fun i => (indexOf x e w i).2) then .error ⟨causePoison, 2⟩ else .ok ()

/-! ### Signed-digit blocks in the local store (R327 to R329) -/

def causeVfault : BitVec 8 := 13

/-- A block as an instruction reads it: its scale, the planes read, its digit count, and whether a word read of it is
poisoned. -/
structure ReadBlock where
  e : Nat
  n : Nat
  planes : List Word
  p : Bool

/-- The words from address a on. -/
def Cell.ldWords (c : Cell) (a n : Nat) : List Val := (upto n).map (fun i => c.ldWord (a + 8 * i))

/-- Block number k at address a with its first min(m, N) planes, m = 0 meaning all. -/
def readBlock (c : Cell) (k a m : Nat) : Except VFail ReadBlock :=
  if inLocal a 8 = false then .error ⟨causeLbound, ofNat a⟩
  else
    let h := c.ldWord a
    let n := hdrN h.v
    if hdrBad h.v then .error ⟨causeVfault, ofNat (0x20000 + k % 0x10000)⟩
    else
      let r := if m = 0 then n else min m n
      match (upto r).find? (fun i => !inLocal ((a + 8 * (i + 1) : Nat) : Int) 8) with
      | some i => .error ⟨causeLbound, ofNat (a + 8 * (i + 1))⟩
      | none =>
        let ps := c.ldWords (a + 8) r
        .ok ⟨hdrE h.v, n, ps.map (fun v => v.v), h.p || ps.any (fun v => v.p)⟩

/-- `cnt` blocks in sequence from address a. -/
def readBlocks (c : Cell) (m : Nat) : Nat → Nat → Nat → Except VFail (List ReadBlock)
  | 0, _, _ => .ok []
  | cnt + 1, k, a => do
    let b ← readBlock c k a m
    let bs ← readBlocks c m cnt (k + 1) (a + 8 * (1 + b.n))
    return b :: bs

/-- The base of a block sequence is a multiple of 8. -/
def checkBase (cnt : Nat) (g : Val) : Except VFail Unit :=
  if cnt ≠ 0 ∧ uns g.v % 8 ≠ 0 then .error ⟨causeAlign, g.v⟩ else .ok ()

/-- VSDE. -/
def vsdeRun (c : Cell) (e : VEntry) : VRes := do
  let x := c.vec
  let w := tyWidth e.f.ty
  let n := elemCount e.vl w
  let cnt := blockCount n
  let dn := hdrN e.gc.v
  let base := uns e.gb.v
  checkBase cnt e.gb
  match (upto (cnt * (1 + dn))).find? (fun i => !inLocal ((base + 8 * i : Nat) : Int) 8) with
  | some i => .error ⟨causeLbound, ofNat (base + 8 * i)⟩
  | none => .ok ()
  let f := tyFmt e.f.ty
  let draws := if e.mode = 5 then lfsrDraws e.lfsr (32 * cnt) else List.replicate (32 * cnt) 0
  let put (a : Cell × Flags) (k : Nat) : Cell × Flags :=
    let es := (upto 32).map (fun j =>
      let i := 32 * k + j
      let (on, mp) := x.active e.f.p w i
      if on ∧ i < n then
        let v := x.opnd e.f.a e.ga w i
        (f.decode v.1, v.2 || mp)
      else (Num.zero false, false))
    let xs := es.map (fun v => v.1)
    let p := es.any (fun v => v.2)
    let rs := (draws.drop (32 * k)).take 32
    let b := if hdrE e.gc.v = 0 then toSds xs dn e.mode e.f.sat rs
      else encodeUnder xs (hdrE e.gc.v) dn e.mode e.f.sat rs
    let ws := b.hdr :: b.planes
    let at0 := base + 8 * (1 + dn) * k
    let c := (ws.zip (upto ws.length)).foldl (fun c y =>
      (c.noteWrite (at0 + 8 * y.2) 8 true).stWord (at0 + 8 * y.2) ⟨y.1, p⟩) a.1
    (c, if p then a.2 else a.2 ||| b.fl)
  let (c, fl) := (upto cnt).foldl put (c, 0)
  return ⟨c, fl⟩

/-- VSDD. -/
def vsddRun (c : Cell) (e : VEntry) : VRes := do
  let w := tyWidth e.f.ty
  let n := elemCount e.vl w
  let cnt := blockCount n
  checkBase cnt e.ga
  let bs ← readBlocks c (uns e.gb.v) cnt 0 (uns e.ga.v)
  let f := tyFmt e.f.ty
  let one (i : Nat) : Nat × Bool × Flags :=
    match bs[i / 32]? with
    | none => (0, false, 0)
    | some b =>
      let v := sdsValue b.e b.planes (i % 32)
      let r := rnd f e.mode e.f.sat (e.draw i) v (nvIf (b.e = 255))
      (r.v, b.p, r.fl)
  return c.writeV e w (perElem c.vec e w n one)

/-- x_j of the first t planes scaled by 2^151 (R329). -/
def sdsScaled (b : ReadBlock) (t j : Nat) : Int :=
  if b.e = 0 then 0 else digitSum j (b.planes.take t) 0 * 2 ^ (b.e + 24 - t)

/-- The number of planes after which a pair is decided for the elements listed (R329). -/
def sdsDecided (a b : ReadBlock) (js : List Nat) : Nat → Nat → Nat
  | 0, t => t
  | fuel + 1, t =>
    let ta := min t a.n
    let tb := min t b.n
    let ea := 2 ^ (a.e + 24 - ta) - 2 ^ (a.e + 24 - a.n)
    let eb := 2 ^ (b.e + 24 - tb) - 2 ^ (b.e + 24 - b.n)
    if max a.n b.n ≤ t ∨ js.all (fun j => decide (ea + eb < (sdsScaled a ta j - sdsScaled b tb j).natAbs)) then t
    else sdsDecided a b js fuel (t + 1)

/-- The block pairs of VSDC. -/
def vsdcPairs (c : Cell) (e : VEntry) : Except VFail (List (ReadBlock × ReadBlock)) := do
  let cnt := blockCount e.vl
  checkBase cnt e.ga
  checkBase cnt e.gb
  let xs ← readBlocks c 0 cnt 0 (uns e.ga.v)
  let ys ← readBlocks c 0 cnt 0 (uns e.gb.v)
  return xs.zip ys

/-- VSDC. -/
def vsdcRun (c : Cell) (e : VEntry) : VRes := do
  let ps ← vsdcPairs c e
  let one (i : Nat) : Nat × Bool × Flags :=
    match ps[i / 32]? with
    | none => (0, false, 0)
    | some (a, b) =>
      let p := a.p || b.p
      if a.e = 255 ∨ b.e = 255 then (0x80000000, p, Flags.nv)
      else
        let d := sdsScaled a a.n (i % 32) - sdsScaled b b.n (i % 32)
        (if d < 0 then 0xFFFFFFFF else if d = 0 then 0 else 1, p, 0)
  return c.writeV e 32 (perElem c.vec e 32 e.vl one)

/-! ### Reductions and scans (R333, R334) -/

/-- The value of a finite pattern scaled by 2^1074. -/
def fltScaled (f : Fmt) (b : Nat) : Int :=
  let (k, x) := f.kx (b % 2 ^ (f.eb + f.fb))
  let m : Int := k * 2 ^ (x + 1074).toNat
  if b / 2 ^ (f.eb + f.fb) % 2 = 1 then -m else m

/-- The running reduction: how many elements, the integer sum, the pattern picked or combined, what the float sum has met
(a NaN, +∞, -∞, a zero or value that is not -0, one that is not +0), and flags. -/
structure Red where
  cnt : Nat := 0
  sum : Int := 0
  pat : Nat := 0
  nan : Bool := false
  pinf : Bool := false
  ninf : Bool := false
  notNeg : Bool := false
  notPos : Bool := false
  fl : Flags := 0
  p : Bool := false

/-- One more element. -/
def Red.add (r : Red) (t : BitVec 4) (fn : BitVec 3) (v : Nat) (p : Bool) : Red :=
  let r' := { r with cnt := r.cnt + 1, p := r.p || p }
  if isInt t then
    let i := tyInt t
    match fn.toNat with
    | 0 => { r' with sum := r.sum + i.val v }
    | 1 => { r' with pat := if r.cnt = 0 then v else i.wrap (min (i.val r.pat) (i.val v)) }
    | 2 => { r' with pat := if r.cnt = 0 then v else i.wrap (max (i.val r.pat) (i.val v)) }
    | 3 => { r' with pat := if r.cnt = 0 then v else r.pat &&& v }
    | 4 => { r' with pat := r.pat ||| v }
    | _ => { r' with pat := r.pat ^^^ v }
  else
    let f := tyFmt t
    match fn.toNat with
    | 0 =>
      let r' := { r' with fl := r.fl ||| f.snanFlag [v] }
      match f.decode v with
      | .nan => { r' with nan := true }
      | .inf false => { r' with pinf := true }
      | .inf true => { r' with ninf := true }
      | .zero s => { r' with notNeg := r.notNeg || !s, notPos := r.notPos || s }
      | .fin _ _ _ => { r' with sum := r.sum + fltScaled f v, notNeg := true, notPos := true }
    | n =>
      let q := if r.cnt = 0 then (⟨if (f.decode v).isNaN then f.nan else v, f.snanFlag [v]⟩ : Rounded)
        else fltPick f (decide (n = 2)) r.pat v
      { r' with pat := q.v, fl := r.fl ||| q.fl }

/-- The identity of a function (R333). -/
def redIdentity (t : BitVec 4) (fn : BitVec 3) : Nat :=
  let w := tyWidth t
  if isInt t then
    let i := tyInt t
    match fn.toNat with
    | 1 => i.wrap i.max
    | 2 => i.wrap i.min
    | 3 => 2 ^ w - 1
    | _ => 0
  else
    match fn.toNat with
    | 1 => (tyFmt t).inf false
    | 2 => (tyFmt t).inf true
    | _ => 0

/-- The result of a reduction, rounded once with state st. -/
def Red.result (r : Red) (t : BitVec 4) (fn : BitVec 3) (mode : BitVec 3) (sat : Bool) (st : BitVec 32) : Rounded :=
  if r.cnt = 0 then ⟨redIdentity t fn, 0⟩
  else if fn ≠ 0 then ⟨r.pat, r.fl⟩
  else if isInt t then ⟨(tyInt t).narrow sat r.sum, 0⟩
  else
    let f := tyFmt t
    if r.nan then ⟨f.nan, r.fl⟩
    else if r.pinf && r.ninf then ⟨f.nan, r.fl ||| Flags.nv⟩
    else if r.pinf then rnd f mode sat st (.inf false) r.fl
    else if r.ninf then rnd f mode sat st (.inf true) r.fl
    else
      let neg := if r.notNeg then (if r.notPos then mode = 3 else false) else true
      rnd f mode sat st (.ofRatio neg r.sum (2 ^ 1074)) r.fl

/-- VRED. -/
def vredRun (c : Cell) (e : VEntry) : VDone :=
  let x := c.vec
  let t := e.f.ty
  let w := tyWidth t
  let n := elemCount e.vl w
  let r := (actives x e w n).foldl (fun r i =>
    let v := (x.reg e.f.a.toNat).elem w i
    r.add t e.f.fn v.1 (v.2 || (x.active e.f.p w i).2)) ({} : Red)
  let q := r.result t e.f.fn e.mode e.f.sat (if n = 0 then 0 else e.draw (n - 1))
  c.writeG e ⟨extElem t q.v, r.p⟩ q.fl

/-- The prefixes of a scan: for each active element, the reduction up to it. -/
def scanPrefixes (x : VecState) (e : VEntry) (w : Nat) : List Nat → Red → List (Nat × Red)
  | [], _ => []
  | i :: is, r =>
    let v := (x.reg e.f.a.toNat).elem w i
    let r := r.add e.f.ty e.f.fn v.1 (v.2 || (x.active e.f.p w i).2)
    (i, r) :: scanPrefixes x e w is r

/-- VSCAN. -/
def vscanRun (c : Cell) (e : VEntry) : VDone :=
  let t := e.f.ty
  let w := tyWidth t
  let n := elemCount e.vl w
  let ps := scanPrefixes c.vec e w (actives c.vec e w n) {}
  c.writeV e w (perElem c.vec e w n (fun i =>
    match SMap.find ps i with
    | none => (0, false, 0)
    | some r =>
      let q := r.result t e.f.fn e.mode e.f.sat (e.draw i)
      (q.v, r.p, q.fl)))

/-! ### The other port instructions -/

/-- VCVT (R326): the elements are counted, and masked, in the wider layout. -/
def vcvtRun (c : Cell) (e : VEntry) : VDone :=
  let x := c.vec
  let src : BitVec 4 := e.f.c.extractLsb' 0 4
  let ws := tyWidth src
  let wd := tyWidth e.f.ty
  let m := max ws wd
  let rs := perElem x e m (elemCount e.vl m) (fun i =>
    let a := x.opnd e.f.a e.ga ws i
    let r := convert src e.f.ty e.mode e.f.sat (e.draw i) a.1
    (r.v, a.2, r.fl))
  c.writeV e wd rs

/-- VLDL. -/
def vldlRun (c : Cell) (e : VEntry) : VRes := do
  checkStride c.vec e
  let w := tyWidth e.f.ty
  return c.writeV e w (perElem c.vec e w (elemCount e.vl w) (fun i =>
    let (v, p) := c.ldStore (strideAddr e w i).toNat (w / 8)
    (v, p, 0)))

/-- The elements of register C stored in ascending order at the addresses given. -/
def storeElems (c : Cell) (e : VEntry) (w : Nat) (addr : Nat → Nat) : Cell :=
  (actives c.vec e w (elemCount e.vl w)).foldl (fun c' i =>
    let v := (c.vec.reg e.f.c.toNat).elem w i
    (c'.noteWrite (addr i) (w / 8) true).stStore (addr i) (w / 8) v.1 (v.2 || (c.vec.active e.f.p w i).2)) c

/-- VSTL. -/
def vstlRun (c : Cell) (e : VEntry) : VRes := do
  checkStride c.vec e
  let w := tyWidth e.f.ty
  return ⟨storeElems c e w (fun i => (strideAddr e w i).toNat), 0⟩

/-- VGATH: a poisoned index makes no read; the data bits of its poisoned result are free. -/
def vgathRun (c : Cell) (e : VEntry) (free : Nat → Nat) : VRes := do
  checkIndexed c.vec e
  let w := tyWidth e.f.ty
  return c.writeV e w (perElem c.vec e w (elemCount e.vl w) (fun i =>
    let x := indexOf c.vec e w i
    if x.2 then (free i, true, 0)
    else
      let (v, p) := c.ldStore (uns e.ga.v + x.1) (w / 8)
      (v, p, 0)))

/-- VSCAT. -/
def vscatRun (c : Cell) (e : VEntry) : VRes := do
  checkIndexed c.vec e
  let w := tyWidth e.f.ty
  return ⟨storeElems c e w (fun i => uns e.ga.v + (indexOf c.vec e w i).1), 0⟩

/-- The index of VBCAST and VEXT is below the register's element count (R332). -/
def checkElem (w : Nat) (g : Val) : Except VFail Unit :=
  if 16384 / w ≤ uns g.v then .error ⟨causeVfault, ofNat (0x10000 + uns g.v % 0x10000)⟩ else .ok ()

/-- VBCAST. -/
def vbcastRun (c : Cell) (e : VEntry) : VRes := do
  let w := tyWidth e.f.ty
  if e.f.a.toNat < 16 then checkElem w e.gb
  let v := if e.f.a.toNat < 16 then (c.vec.reg e.f.a.toNat).elem w (uns e.gb.v) else c.vec.opnd e.f.a e.ga w 0
  return c.writeV e w (perElem c.vec e w (elemCount e.vl w) (fun _ => (v.1, v.2, 0)))

/-- VEXT. -/
def vextRun (c : Cell) (e : VEntry) : VRes := do
  let w := tyWidth e.f.ty
  checkElem w e.gb
  let v := (c.vec.reg e.f.a.toNat).elem w (uns e.gb.v)
  return c.writeG e ⟨extElem e.f.ty v.1, v.2⟩ 0

/-- VPERM (R335). -/
def vpermRun (c : Cell) (e : VEntry) : VDone :=
  let w := tyWidth e.f.ty
  let n := elemCount e.vl w
  c.writeV e w (perElem c.vec e w n (fun i =>
    let x := indexOf c.vec e w i
    let v := if x.1 < n then (c.vec.reg e.f.a.toNat).elem w x.1 else (0, false)
    (v.1, v.2 || x.2, 0)))

/-- VIOTA and VIOTA.CNT (R336). -/
def viotaRun (c : Cell) (e : VEntry) : VDone :=
  let w := tyWidth e.f.ty
  c.writeV e w (perElem c.vec e w (elemCount e.vl w) (fun i =>
    if e.f.fn = 0 then ((uns e.ga.v + i * uns e.gb.v) % 2 ^ w, false, 0)
    else
      let m := c.vec.mask e.f.c.toNat
      let q := min (posOf w i) e.vl
      (popCount m.b q, decide (popCount m.p q ≠ 0), 0)))

/-- VMOVP (R338). -/
def vmovpRun (c : Cell) (e : VEntry) : VDone :=
  let x := c.vec
  let a := x.mask e.f.a.toNat
  let b := x.mask e.f.b.toNat
  let put (m : MReg) : VDone := ⟨{ c with vec := x.setMask e.f.d.toNat m }, 0⟩
  match e.f.fn.toNat with
  | 0 => put ⟨a.b &&& b.b, a.p ||| b.p⟩
  | 1 => put ⟨a.b ||| b.b, a.p ||| b.p⟩
  | 2 => put ⟨a.b ^^^ b.b, a.p ||| b.p⟩
  | 3 => put ⟨a.b &&& ~~~b.b, a.p ||| b.p⟩
  | 4 => put ⟨~~~a.b, a.p⟩
  | 5 =>
    let r := uns e.gb.v
    c.writeG e ⟨ofNat (field a.b (32 * r) 32), decide (field a.p (32 * r) 32 ≠ 0)⟩ 0
  | _ =>
    let r := uns e.gb.v
    let d := x.mask e.f.d.toNat
    let m : BitVec 512 := BitVec.ofNat 512 (0xFFFFFFFF * 2 ^ (32 * r))
    let v : BitVec 512 := BitVec.ofNat 512 (e.ga.v.toNat % 2 ^ 32 * 2 ^ (32 * r))
    put ⟨(d.b &&& ~~~m) ||| v, if e.ga.p then d.p ||| m else d.p &&& ~~~m⟩

/-- VPOPQ pops its words and clears RES; the positions are written through elements at least 32 bits wide (R339). -/
def vpopqRun (c : Cell) (e : VEntry) : VDone :=
  let i := e.f.c.toNat
  let (c, hs) := c.popWords i (wordCount e.vl)
  let c := c.clearRes i
  let w := max 32 (tyWidth e.f.ty)
  let pos (q : Nat) : Nat × Bool :=
    match hs[q / 2]? with
    | none => (0, false)
    | some h => (field h.v.v (32 * (q % 2)) 32, h.v.p)
  c.writeV e w (perElem c.vec e w (elemCount e.vl w) (fun k =>
    if w = 32 then
      let (v, p) := pos k
      (v, p, 0)
    else
      let (a, p) := pos (2 * k)
      let (b, q) := pos (2 * k + 1)
      (a + b * 2 ^ 32, p || q, 0)))

/-- The words of a VPUSHQ (R339). -/
def vpushqWords (c : Cell) (e : VEntry) : List Val :=
  let r := c.vec.reg e.f.a.toNat
  let pos (q : Nat) : Nat × Bool := if q < e.vl then r.pos q else (0, false)
  (upto (wordCount e.vl)).map (fun j => ⟨ofNat ((pos (2 * j)).1 + (pos (2 * j + 1)).1 * 2 ^ 32), (pos (2 * j)).2 || (pos (2 * j + 1)).2⟩)

/-- VPUSHQ pushes single words with the default tag of the port (R339). With the default tag CTL the words are checked as those of
every push (R121); at its issue they are not known, so that the instruction fails as a port instruction, with the word as its value
(log entry 60). -/
def vpushqRun (c : Cell) (e : VEntry) : VRes :=
  let i := e.f.c.toNat
  let ws := vpushqWords c e
  let bad (v : Val) : Option (BitVec 8) := match checkCtl c (c.defTag i) v.v with
    | .error .illop => some 1
    | .error .priv => some 2
    | _ => none
  match ws.filterMap (fun v => (bad v).map (fun x => (x, v.v))) with
  | [] => .ok ⟨ws.foldl (fun c v => c.enterWindow i v (c.defTag i) 0 0) c, 0⟩
  | (x, v) :: more => .error ((more.find? (fun y => y.1 = 1 && decide (x ≠ 1))).elim ⟨x, v⟩ (fun y => ⟨y.1, y.2⟩))

/-- The cell with the local store as an instruction of the vector queue reads it (R129). -/
def Cell.asRead (c : Cell) (e : VEntry) (fresh : Nat) : Cell := c.viewAt fresh e.tok.at_ true

/-- The results of an instruction that reads the local store, with the store as it stands. -/
def VDone.over (d : VDone) (c : Cell) : VDone :=
  { d with c := { d.c with store := c.store, storePoison := c.storePoison, upsets := c.upsets } }

/-- An instruction that reads the local store and does not write it: its results. -/
def readRun (c : Cell) (e : VEntry) (fresh : Nat) (f : Cell → VRes) : VRes := do
  let d ← f (c.asRead e fresh)
  return d.over c

/-- A port instruction: its results, or the check that it fails. -/
def portRun (c : Cell) (e : VEntry) (fresh : Nat) (free : Nat → Nat) : VRes :=
  match e.op.toNat with
  | 0x9E => .ok (vcvtRun c e)
  | 0x9F => readRun c e fresh (fun c => vsdcRun c e)
  | 0xA0 => vsdeRun c e
  | 0xA1 => readRun c e fresh (fun c => vsddRun c e)
  | 0xA2 => readRun c e fresh (fun c => vldlRun c e)
  | 0xA3 => vstlRun c e
  | 0xA4 => readRun c e fresh (fun c => vgathRun c e free)
  | 0xA5 => vscatRun c e
  | 0xA6 => vbcastRun c e
  | 0xA7 => vextRun c e
  | 0xA8 => .ok (vredRun c e)
  | 0xA9 => .ok (vscanRun c e)
  | 0xAA => .ok (vpermRun c e)
  | 0xAB => .ok (viotaRun c e)
  | 0xAD => .ok (vmovpRun c e)
  | 0xAE => .ok (vpopqRun c e)
  | _ => vpushqRun c e

/-- The words of a VPOPQ are in the ring, or the window has room for those of a VPUSHQ (R339). -/
def portReady (c : Cell) (e : VEntry) : Bool :=
  if e.op = 0xAE then decide (wordCount e.vl ≤ (c.inEp e.f.c.toNat).occ)
  else if e.op = 0xAF then decide (wordCount e.vl ≤ (c.outEp e.f.c.toNat).room)
  else true

/-- The planes that a VSDC reads of its pairs and a VSDD of its blocks (R328, R329, R340). -/
def sdsCost (c : Cell) (e : VEntry) : Nat :=
  if e.op = 0x9F then
    match vsdcPairs c e with
    | .error _ => 0
    | .ok ps =>
      (ps.zip (upto ps.length)).foldl (fun a y =>
        let (b, d) := y.1
        let js := if b.e = 255 ∨ d.e = 255 then []
          else (upto 32).filter (fun j => (c.vec.active e.f.p 32 (32 * y.2 + j)).1 && decide (32 * y.2 + j < e.vl))
        a + 2 + sdsDecided b d js 24 1) 0
  else
    match readBlocks c (uns e.gb.v) (blockCount (elemCount e.vl (tyWidth e.f.ty))) 0 (uns e.ga.v) with
    | .error _ => 0
    | .ok bs => bs.foldl (fun a b => a + 2 + b.planes.length) 0

/-- A VLDL or VSTL of adjacent elements. -/
def VEntry.contiguous (e : VEntry) : Bool := e.gb.v = 0 || decide (sgn e.gb.v = ((tyWidth e.f.ty / 8 : Nat) : Int))

/-- Port clk of a port instruction (R340). -/
def portCost (c : Cell) (e : VEntry) : Nat :=
  let r := (e.vl + 31) / 32
  match e.op.toNat with
  | 0x9E => r
  | 0xA6 => r
  | 0xAB => r
  | 0xA2 => if e.contiguous then r else 4 * r
  | 0xA3 => if e.contiguous then r else 4 * r
  | 0xA4 => 4 * r
  | 0xA5 => 4 * r
  | 0xA9 => 2 * r
  | 0xAA => 2 * r
  | 0xA8 => r + 5
  | 0xA7 => 2
  | 0xAD => 1
  | 0xA0 => (4 + hdrN e.gc.v) * blockCount (elemCount e.vl (tyWidth e.f.ty))
  | 0xAE => (wordCount e.vl + 1) / 2
  | 0xAF => (wordCount e.vl + 1) / 2
  | _ => sdsCost c e

/-! ### Faults and completion (R314, R315) -/

/-- The g register that a queued instruction will write. -/
def VEntry.gDest (e : VEntry) : List Nat :=
  if e.op = 0xA7 ∨ e.op = 0xA8 ∨ (e.op = 0xAD ∧ e.f.fn = 5) then [(e.f.d - 32).toNat] else []

/-- The slots of entries, as a mask. -/
def slotMask (es : List VEntry) : BitVec 8 :=
  es.foldl (fun m e => match e.tok.slot with
    | some j => m ||| oneBit 8 j.toNat
    | none => m) 0

/-- The oldest instruction of the vector queue fails a check: it and every later one are discarded, their slots become
FAULTED, and one fault is pending that owns them all (R315). -/
def State.vecFault (s : State) (k : Nat) (x : VFail) : State :=
  let c := s.cell k
  match c.vec.queue with
  | [] => s
  | o :: rest =>
    let m := slotMask (o :: rest)
    let r : FaultRec := { seq := o.tok.seq, pc := o.tok.pc, opb := o.tok.opb, cause := x.cause, tval := x.tval,
                          slot := o.tok.slot.getD 0, slots := m, held := o.tok.slot.isNone, vector := true }
    let c := (bitsOf m 8).foldl (fun c j => c.setSlot j .faulted) c
    let c := ((o :: rest).flatMap VEntry.gDest).foldl Cell.unbusy c
    s.setCell k { c with vec := { c.vec with queue := [] }, faults := c.faults ++ [r] }

/-- Free values for the elements of one instruction. -/
def State.freeElem (s : State) (i : Nat) : Nat := (Config.freeWord (s.fresh + i)).toNat

/-- The third firings of an instruction are counted and traced (R124, R125). -/
def State.refires (s : State) (k kind : Nat) (rf : List Refire) : State :=
  rf.foldl (fun s r => s.softError k kind r.majority) s

/-- A port instruction must wait: for the words or the room of its port (R339), or for a rebuild of a parity group that it accesses
(R273). -/
def State.portWaits (s : State) (k : Nat) (e : VEntry) : Bool :=
  let c := s.cell k
  let w := tyWidth e.f.ty
  let el (a : Int) : Bool := s.storeBusy k a.toNat (w / 8)
  let act := actives c.vec e w (elemCount e.vl w)
  let blocks (m cnt : Nat) (g : Val) : Bool := match readBlocks c m cnt 0 (uns g.v) with
    | .ok bs => s.storeBusy k (uns g.v) (bs.foldl (fun n b => n + 8 * (1 + b.n)) 0)
    | .error _ => s.storeBusy k (uns g.v) 8
  !portReady c e ||
  match e.op.toNat with
  | 0x9F => blocks 0 (blockCount e.vl) e.ga || blocks 0 (blockCount e.vl) e.gb
  | 0xA0 => s.storeBusy k (uns e.gb.v) (8 * (1 + hdrN e.gc.v) * blockCount (elemCount e.vl w))
  | 0xA1 => blocks (uns e.gb.v) (blockCount (elemCount e.vl w)) e.ga
  | 0xA2 => act.any (fun i => el (strideAddr e w i))
  | 0xA3 => act.any (fun i => el (strideAddr e w i))
  | 0xA4 => act.any (fun i => el (uns e.ga.v + (indexOf c.vec e w i).1))
  | 0xA5 => act.any (fun i => el (uns e.ga.v + (indexOf c.vec e w i).1))
  | 0xAE => s.portBusy k e.f.c.toNat
  | 0xAF => s.portBusy k e.f.c.toNat
  | _ => false

/-- The oldest vector entry, a port instruction, begins with all its checks (R312, R315). -/
def execVectorPortStart (k : Nat) (s : State) : Host.Outcome State Fault Refusal :=
  let c := s.cell k
  match c.vec.queue with
  | [] => .next s
  | e :: rest =>
    if e.isPred || isLane e.op || e.begun || s.portWaits k e then .next s
    else
      match portRun c e s.fresh s.freeElem with
      | .error x => .next (s.vecFault k x)
      | .ok _ => .next (s.setCell k { c with vec := { c.vec with queue := { e with begun := true, cost := portCost c e } :: rest } })

/-- An entry that has its results leaves the queue: its token fires, and its flags reach sys.flags (R314). -/
def State.vecRetire (s : State) (k n : Nat) (e : VEntry) (c : Cell) (fl : Flags) : State :=
  let c := { (c.fire e.tok).fireFlags s.now fl with vec := { c.vec with queue := c.vec.queue.eraseIdx n } }
  { s.setCell k (c.afterPops (s.cell k) s.now) with fresh := s.fresh + 2048 * (n + 1) }

/-- Entry j of a queue, a lane instruction, has its results in the registers for the lane groups in which it has taken its last slot. -/
def Cell.laneWrite (c : Cell) (free : Nat → Nat) (j : Nat) : Cell :=
  match c.vec.queue[j]? with
  | none => c
  | some e =>
    if isLane e.op = false then c
    else
      let gs := (upto 4).filter (fun g => e.left g = 0 && !e.wrote.contains g)
      let d := laneRun c e (fun i => free (2048 * j + i)) gs
      { d.c with vec := { d.c.vec with queue := d.c.vec.queue.set j { e with wrote := e.wrote ++ gs, fl := e.fl ||| d.fl } } }

/-- Entry n of the queue completes: a lane instruction that has taken its slots, or the oldest, a port instruction that has begun and
taken its port clk (R311, R314). A lane instruction can complete before an earlier one that still waits for a slot in another lane
group; the results that it builds on are then in the registers with its own. The checks of a port instruction were made when it began; a
store may since have changed a block header that it reads, and then it fails here. -/
def execVectorCompletion (k n : Nat) (s : State) : Host.Outcome State Fault Refusal :=
  let c := s.cell k
  match c.vec.queue[n]? with
  | none => .next s
  | some e =>
    if e.isPred ∨ e.spent = false then .next s
    else if isLane e.op then
      if (upto 4).all (fun g => !(c.vec.queue.take n).all (fun y => y.passes c.vec.preds.length g)) then .next s
      else
        let c' := (upto (n + 1)).foldl (fun c j => c.laneWrite s.freeElem j) c
        .next (s.vecRetire k n e c' ((c'.vec.queue[n]?.map VEntry.fl).getD 0))
    else if n ≠ 0 ∨ s.portWaits k e then .next s
    else
      match portRun c e s.fresh s.freeElem with
      | .error x => .next (s.vecFault k x)
      | .ok d => .next (s.vecRetire k 0 e d.c d.fl)

end Sys2Proof.Machine
end

