-- ==== Sys2Proof/Machine/Matrix.lean ====
section
/-! DEFINITION. The matrix instructions 0xC8 to 0xD1 (R386 to R393): their issue into the cell's matrix entries, and the
instructions that the pipeline executes. -/

namespace Sys2Proof.Machine

open Sys2Proof

/-! ### State -/

def MatState.accOf (m : MatState) (n : Nat) : VReg := SMap.get {} m.acc n
def MatState.setAcc (m : MatState) (n : Nat) (r : VReg) : MatState := { m with acc := SMap.put m.acc n r }
def MatState.scale (m : MatState) (n : Nat) : Int := SMap.get 0 m.sc n
/-- Bits of MSTAT are set by the array (R390). -/
def MatState.orStat (m : MatState) (b : BitVec 8) : MatState := { m with stat := m.stat ||| b }
def Cell.setMat (c : Cell) (m : MatState) : Cell := { c with mat := m }

/-- The cell's strip. -/
def State.stripMat (s : State) (st : Nat) : StripMat := (s.strip st).mat
def State.setStripMat (s : State) (st : Nat) (m : StripMat) : State :=
  s.setStrip st { s.strip st with mat := m }

/-- There is room for n more matrix entries (R371). -/
def matRoom (c : Cell) (n : Nat) : Except Stop Unit :=
  if 16 < c.mat.entries.length + n then .error (.wait .gang (.matRoom n)) else .ok ()

/-! ### Descriptors (R372) -/

def descNs (d : Word) : Nat := field d 17 5
def descBase (d : Word) : Nat := field d 0 17
/-- A descriptor: ARS and the number of rows. -/
def aStride (d : Word) : Nat := field d 26 17
def aRows (d : Word) : Nat := field d 22 4 + 1
/-- B descriptor: BCS and NCOL. -/
def bStride (d : Word) : Nat := field d 28 17
def bCols (d : Word) : Nat := field d 22 6

/-- The causes of Check of R387 for a descriptor: ILLOP, ALIGN and LBOUND, the last two with the base. -/
def descIllegal (d : Word) (resv n cols : Nat) : Bool :=
  decide (uns d / 2 ^ resv ≠ 0) || descNs d = 0 || decide (24 < descNs d) || decide (descNs d < n) || decide (32 < cols)
def descAlign (d : Word) (stride : Nat) : Bool := decide (descBase d % 8 ≠ 0) || decide (stride % 8 ≠ 0)
def descBound (d : Word) (cnt stride kb : Nat) : Bool :=
  decide (0x20000 < descBase d + (cnt - 1) * stride + kb * 8 * (1 + descNs d))

/-- Every cell of the strip is in the load of the issuing cell. -/
def stripInLoad (s : State) (c : Cell) : Bool :=
  (upto 8).all (fun j =>
    let x := s.cell (cellOfStrip (stripOf s.cur) j)
    x.st ≠ .free && x.ident.load = c.ident.load)

/-- GJOIN (R492). -/
def State.traceJoin (s : State) (j acc : Nat) : State :=
  s.trace s.cur 8 (at_ (j % 0x10000) 16 ||| at_ (slotOf s.cur) 8 ||| ofNat acc)

/-- A joining instruction takes its place in its group (R368); the firing is no longer replayable (R443). -/
def joinGroup (s : State) (c : Cell) (t : Tok) (x : Join) : Fin :=
  let m := c.mat
  { s := s.traceJoin m.joined x.acc
    c := { c with
      nonReplay := true
      mat := { m with
        joined := m.joined + 1
        entries := m.entries ++ [⟨t, some { x with j := m.joined }, x.acc, 0, false⟩] } }
    async := true }

/-! ### Joined instructions -/

/-- MGANG (R387). -/
def execMgang (h : Hdr) (f : FmtX) (s : State) : Host.Outcome State Fault Refusal :=
  issue (.mgang h f) h s fun s c => do
    let ga ← readG c f.a.toNat
    let gb ← readG c f.b.toNat
    let gk ← readG c f.c.toNat
    let kb := uns gk.v
    let n := field f.ef 3 5
    let a0 := slotOf s.cur = 0
    let cols := bCols gb.v
    legal (decide (1 ≤ kb) && decide (kb ≤ 4096) && stripInLoad s c)
    legal (!(decide a0 && descIllegal ga.v 43 n 0) && !(decide (cols ≠ 0) && descIllegal gb.v 45 n cols))
    let aAl := decide a0 && descAlign ga.v (aStride ga.v)
    let bAl := decide (cols ≠ 0) && descAlign gb.v (bStride gb.v)
    let aBd := decide a0 && descBound ga.v (aRows ga.v) (aStride ga.v) kb
    let bBd := decide (cols ≠ 0) && descBound gb.v cols (bStride gb.v) kb
    raise [(aAl, causeAlign, ofNat (descBase ga.v)), (bAl, causeAlign, ofNat (descBase gb.v)),
           (aBd, causeLbound, ofNat (descBase ga.v)), (bBd, causeLbound, ofNat (descBase gb.v)),
           (decide a0 && ga.p, causePoison, 1), (gb.p, causePoison, 2), (gk.p, causePoison, 3)]
    matRoom c 1
    return joinGroup s c (c.tok (.mgang h f) h)
      { j := 0, kind := 0, acc := field f.ef 0 3, n, kb, int := field f.ef 10 2, cut := c.mat.cut, a := ga.v, b := gb.v,
        t := c.mat.scale (field f.ef 8 2) }

/-- MLEAVE.RSV (R392). -/
def execMleaveRsv (h : Hdr) (f : FmtX) (s : State) : Host.Outcome State Fault Refusal :=
  issue (.mleaveRsv h f) h s fun s c => do
    matRoom c 1
    return joinGroup s c (c.tok (.mleaveRsv h f) h) { j := 0, kind := 1, w := f.ef.toNat }

/-- MLEAVE.REL (R392). -/
def execMleaveRel (h : Hdr) (f : FmtX) (s : State) : Host.Outcome State Fault Refusal :=
  issue (.mleaveRel h f) h s fun s c => do
    matRoom c 1
    return joinGroup s c (c.tok (.mleaveRel h f) h) { j := 0, kind := 2 }

/-! ### Accumulator transfers (R388) -/

/-- One entry for each accumulator of the list. -/
def transfer (i : Instr) (h : Hdr) (accs : List Nat) (v : Nat) (clr : Bool) (s : State) : Host.Outcome State Fault Refusal :=
  issue i h s fun s c => do
    matRoom c accs.length
    let t := c.tok i h
    return { s, c := c.setMat { c.mat with entries := c.mat.entries ++ accs.map (fun a => ⟨t, none, a, v, clr⟩) },
             async := true }

/-- MREAD. -/
def execMread (h : Hdr) (f : FmtX) (s : State) : Host.Outcome State Fault Refusal :=
  transfer (.mread h f) h [field f.ef 0 3] f.d.toNat (bit f.ef 3) s
/-- MFILL. -/
def execMfill (h : Hdr) (f : FmtX) (s : State) : Host.Outcome State Fault Refusal :=
  transfer (.mfill h f) h [field f.ef 0 3] f.a.toNat false s
/-- MSWAP. -/
def execMswap (h : Hdr) (f : FmtX) (s : State) : Host.Outcome State Fault Refusal :=
  transfer (.mswap h f) h [field f.ef 0 3] f.d.toNat false s
/-- MCLR. -/
def execMclr (h : Hdr) (f : FmtX) (s : State) : Host.Outcome State Fault Refusal :=
  transfer (.mclr h f) h (bitsOf f.ef 8) 0 false s

/-! ### Instructions that act at issue -/

/-- MSCL (R389). -/
def execMscl (h : Hdr) (f : FmtX) (s : State) : Host.Outcome State Fault Refusal :=
  issue (.mscl h f) h s fun s c => do
    let v ← readG c f.a.toNat
    legal (decide (-32768 ≤ sgn v.v) && decide (sgn v.v ≤ 32767))
    clean 1 v
    return { s, c := c.setMat { c.mat with sc := SMap.put c.mat.sc (field f.ef 0 2) (sgn v.v) } }

/-- MSCL.RD (R389). -/
def execMsclRd (h : Hdr) (f : FmtX) (s : State) : Host.Outcome State Fault Refusal :=
  issue (.msclRd h f) h s fun s c => do
    return { s, c := ← writeDst c f.d (.clean (ofInt (c.mat.scale (field f.ef 0 2)))) }

/-- The value of MSTAT (R390). -/
def mstatValue (s : State) (c : Cell) : Word :=
  at_ c.mat.entries.length 24 ||| at_ (s.stripMat (stripOf s.cur)).rsv 20 ||| at_ c.mat.stat.toNat 0

/-- MSTAT and MSTAT.CLR (R390). -/
def execMstat (h : Hdr) (f : FmtX) (s : State) : Host.Outcome State Fault Refusal :=
  issue (.mstat h f) h s fun s c => do
    let c' ← writeDst c f.d (.clean (mstatValue s c))
    return { s, c := if bit f.ef 0 then c'.setMat { c'.mat with stat := 0 } else c' }

/-- MCUT (R391). -/
def execMcut (h : Hdr) (f : FmtX) (s : State) : Host.Outcome State Fault Refusal :=
  issue (.mcut h f) h s fun s c =>
    .ok { s, c := c.setMat { c.mat with cut := (true, f.ef.extractLsb' 0 4) } }

/-- MCUT.OFF (R391). -/
def execMcutOff (h : Hdr) (f : FmtX) (s : State) : Host.Outcome State Fault Refusal :=
  issue (.mcutOff h f) h s fun s c => .ok { s, c := c.setMat { c.mat with cut := (false, 0) } }

/-- A group of the strip waits for its leave. -/
def StripMat.waiting (m : StripMat) (j : Nat) : Bool := m.groups.any (fun g => g.j = j && g.asked && !g.granted)

/-- MSYNC (R393): its stall reason is "leave" while a formed group of the cell waits for leave (R371). -/
def execMsync (h : Hdr) (f : FmtX) (s : State) : Host.Outcome State Fault Refusal :=
  issue (.msync h f) h s fun s c =>
    if c.mat.entries.isEmpty then .ok { s, c }
    else
      let m := s.stripMat (stripOf s.cur)
      let leave := c.mat.entries.any (fun e => e.join.any (fun x => m.waiting x.j))
      .error (.wait (if leave then .leave else .gang) (.matDone c.iseq))

end Sys2Proof.Machine
end

