-- ==== Sys2Proof/Machine/Array.lean ====
section
/-! DEFINITION. The array of a strip (R365 to R385): formation of joined groups, the scheduler and its leave, the arithmetic
of a gang, and accumulator transfers. -/

namespace Sys2Proof.Machine

open Sys2Proof

def causeGangmm : BitVec 8 := 11

/-! ### Entries of the eight slots -/

/-- The entry of a cell that joined group j, with its join. -/
def Cell.joinOf (c : Cell) (j : Nat) : Option (MatEntry × Join) :=
  c.mat.entries.findSome? (fun e => e.join.bind (fun x => if x.j = j then some (e, x) else none))

/-- The entry leaves the cell and its token fires; the token of several entries fires with the last (R388). -/
def Cell.dropEntry (c : Cell) (e : MatEntry) : Cell :=
  let rest := c.mat.entries.erase e
  let c := c.setMat { c.mat with entries := rest }
  if rest.any (fun x => x.tok.seq = e.tok.seq) then c else c.fire e.tok

/-- The entries of group j complete in all 8 slots. -/
def State.fireGroup (s : State) (st j : Nat) : State :=
  (upto 8).foldl (fun s i =>
    let k := cellOfStrip st i
    match (s.cell k).joinOf j with
    | some (e, _) => s.modCell k (fun c => c.dropEntry e)
    | none => s) s

/-- The joins of group j, slot 0 first. -/
def State.joins (s : State) (st j : Nat) : List Join :=
  (upto 8).filterMap (fun i => ((s.cell (cellOfStrip st i)).joinOf j).map (fun x => x.2))

/-! ### Formation (R369, R370) -/

/-- WHAT of R370 for a slot against slot 0. -/
def Join.differs (a b : Join) : Nat :=
  if a.kind ≠ b.kind then 1
  else if a.kind = 0 then
    b2n (a.acc ≠ b.acc) * 2 + b2n (a.n ≠ b.n) * 4 + b2n (a.kb ≠ b.kb) * 8 + b2n (a.int ≠ b.int) * 16 +
      b2n (a.cut ≠ b.cut) * 32
  else if a.kind = 1 then b2n (a.w ≠ b.w) * 64
  else 0

/-- sys.tval of GANGMM, 0 when every slot agrees. -/
def mismatch (xs : List Join) : Nat :=
  match xs with
  | [] => 0
  | a :: _ =>
    let ds := xs.map a.differs
    let what := ds.foldl (fun x d => x ||| d) 0
    let slots := (ds.zip (upto 8)).foldl (fun x y => if y.1 = 0 then x else x + 2 ^ y.2) 0
    if what = 0 then 0 else slots * 256 + what

/-- The fault of a group whose members disagree: each slot's entry leaves with a deferred GANGMM. -/
def State.gangFault (s : State) (st j tval : Nat) : State :=
  (upto 8).foldl (fun s i =>
    let k := cellOfStrip st i
    match (s.cell k).joinOf j with
    | some (e, _) =>
      (s.modCell k (fun c => c.setMat { c.mat with entries := c.mat.entries.erase e })).fail k e.tok causeGangmm (ofNat tval)
    | none => s) s

/-- Every waiting MLEAVE.REL takes effect once no gang that started under the reservation runs (R382). -/
def State.settleRel (s : State) (st : Nat) : State :=
  let m := s.stripMat st
  if m.groups.any (fun g => g.covered) then s
  else
    (m.groups.filter (fun g => g.kind = 2)).foldl (fun s g =>
      let m := s.stripMat st
      (((s.setStripMat st { m with groups := m.groups.erase g, rsv := 0 }).giveLeave (blockOfStrip st) (.reserve st)).fireGroup st g.j)) s

/-- The oldest joined group of a strip forms: it becomes a gang or a reservation action, or its slots become FAULTED
(R369). A REL with no reservation held has no effect (R392). -/
def execGroupFormation (st : Nat) (s : State) : Host.Outcome State Fault Refusal :=
  let m := s.stripMat st
  let xs := s.joins st m.next
  match xs with
  | [] => .next s
  | x :: _ =>
    if xs.length ≠ 8 then .next s
    else
      let s := s.setStripMat st { m with next := m.next + 1 }
      let bad := mismatch xs
      if bad ≠ 0 then .next (s.gangFault st m.next bad)
      else if x.kind = 2 ∧ m.rsv = 0 then .next (s.fireGroup st m.next)
      else
        let w := if x.kind = 0 then (xs.filter (fun y => bCols y.b ≠ 0)).length else x.w
        let g : Group := { j := m.next, kind := x.kind, acc := x.acc, n := x.n, kb := x.kb, w }
        .next ((s.setStripMat st { s.stripMat st with groups := m.groups ++ [g] }).settleRel st)

/-! ### The scheduler (R379 to R382) -/

/-- R379 lets the gang start: no slot has an earlier transfer on its accumulator, and every earlier gang on it has
finished streaming. -/
def State.eligible (s : State) (st : Nat) (g : Group) : Bool :=
  g.kind = 0 && !g.started &&
  (s.stripMat st).groups.all (fun o => !(o.kind = 0 && o.acc = g.acc && decide (o.j < g.j)) ||
    (o.started && decide (o.endAt ≤ s.now))) &&
  (upto 8).all (fun i =>
    (((s.cell (cellOfStrip st i)).mat.entries.takeWhile (fun e => e.join.map (fun x => x.j) ≠ some g.j)).all
      (fun e => e.join.isSome || e.acc ≠ g.acc)))

/-- The streaming time of a gang without a cut (R378). -/
def Group.streaming (g : Group) : Nat := if g.w = 0 then 0 else 32 * g.kb * ((g.n + 1) / 2)

/-- The clk of streaming left: of the started gangs, and of those that hold their grant and have not started. -/
def StripMat.left (m : StripMat) (now : Nat) : Nat :=
  (if m.groups.any (fun g => g.started) then m.streamEnd - now else 0) +
    (m.groups.filter (fun g => g.kind = 0 && g.granted && !g.started)).foldl (fun a g => a + g.streaming) 0

/-- The array is free for streaming. -/
def StripMat.free (m : StripMat) (now : Nat) : Bool :=
  !m.groups.any (fun g => g.started) || decide (m.streamEnd ≤ now)

/-- The group with the fields changed. -/
def StripMat.change (m : StripMat) (j : Nat) (f : Group → Group) : StripMat :=
  { m with groups := m.groups.map (fun g => if g.j = j then f g else g) }

/-- H of R380 that is a reservation. -/
def StripMat.reservation (m : StripMat) : Option Group :=
  m.groups.find? (fun g => g.kind = 1 && m.groups.all (fun o => decide (g.j ≤ o.j) || o.started))

/-- The strip sends its next leave request (R380). A reservation already held is released first, once the gangs that
started under it have completed (R382). -/
def execGangLeaveRequest (st : Nat) (s : State) : Host.Outcome State Fault Refusal :=
  let m := s.stripMat st
  let bn := blockOfStrip st
  if m.groups.any (fun g => g.asked && !g.granted) then .next s
  else
    match m.reservation with
    | some g =>
      if m.groups.any (fun o => o.covered) then .next s
      else
        let s := if m.rsv = 0 then s else s.giveLeave bn (.reserve st)
        let m := { m.change g.j (fun g => { g with asked := true }) with rsv := 0 }
        .next ((s.setStripMat st m).askLeave bn ⟨.reserve st, g.w, 0⟩)
    | none =>
      match m.groups.find? (fun g => s.eligible st g && decide (0 < g.w) && !g.granted && decide (m.rsv < g.w)) with
      | some g =>
        if m.left s.now ≤ 48 then
          .next ((s.setStripMat st (m.change g.j (fun g => { g with asked := true }))).askLeave bn ⟨.gang st g.j, g.w, g.streaming⟩)
        else .next s
      | none => .next s

/-- Grant of group j's request: a gang may start, and a reservation holds and its tokens fire (R382, R383). -/
def State.grantGroup (s : State) (st j : Nat) : State :=
  let m := s.stripMat st
  match m.groups.find? (fun g => g.j = j) with
  | none => s
  | some g =>
    if g.kind = 1 then
      (s.setStripMat st { m with groups := m.groups.erase g, rsv := g.w }).fireGroup st j
    else s.setStripMat st (m.change j (fun g => { g with granted := true }))

/-- The array is free and starts the oldest eligible gang that holds its grant, or is covered, or writes nothing; none
formed after a granted gang starts before it (R380). -/
def execGangStart (st : Nat) (s : State) : Host.Outcome State Fault Refusal :=
  let m := s.stripMat st
  let stop := (m.groups.find? (fun g => g.kind = 0 && g.granted && !g.started)).map (fun g => g.j)
  match m.groups.find? (fun g => s.eligible st g && (g.granted || decide (g.w ≤ m.rsv))) with
  | none => .next s
  | some g =>
    if m.free s.now = false ∨ stop.any (fun j => decide (j < g.j)) then .next s
    else
      let cov := !g.granted && decide (0 < g.w)
      let m := m.change g.j (fun g => { g with started := true, covered := cov, endAt := s.now + g.streaming })
      .next (s.setStripMat st { m with streamEnd := s.now + g.streaming })

/-! ### The arithmetic of a gang (R373 to R378) -/

/-- A block as a gang reads it: scale, the planes 1 to n, whether it is used as a malformed one, and for each number of
planes whether a word read is poisoned. -/
structure GBlock where
  e : Nat
  planes : List Word
  bad : Bool
  pois : List Bool

/-- Block at address a of a cell whose descriptor says NS = ns, read to n planes (R373). -/
def gangBlock (c : Cell) (ns n a : Nat) : GBlock :=
  let h := c.ldWord a
  let ps := c.ldWords (a + 8) n
  let bad := hdrBad h.v || decide (hdrN h.v ≠ ns)
  { e := if bad then 255 else hdrE h.v
    planes := ps.map (fun v => v.v)
    bad
    pois := h.p :: ps.map (fun v => v.p) }

/-- A word read with m planes is poisoned. -/
def GBlock.poisoned (b : GBlock) (m : Nat) : Bool := (b.pois.take (m + 1)).any id

/-- The pair contributes: neither block is a zero or a NaN block. -/
def pairOn (a b : GBlock) : Bool := a.e ≠ 0 && a.e ≠ 255 && b.e ≠ 0 && b.e ≠ 255

/-- The mantissas of a block, first m planes, as numbers scaled by 2^m (R114). -/
def mantissas (b : GBlock) (m : Nat) : List Int := (upto 32).map (fun j => digitSum j (b.planes.take m) 0)

/-- P_b scaled by 2^48 (R375). -/
def innerProduct (a b : List Int) (m : Nat) : Int :=
  ((a.zip b).foldl (fun s y => s + y.1 * y.2) 0) * 2 ^ (48 - 2 * m)

/-- The state of one element while its gang runs: pattern and poison of the accumulator, S scaled by 2^48, X, cnt, nan,
and the MSTAT bits it has set. -/
structure ElemAcc where
  acc : Nat
  p : Bool
  pz : Bool
  s : Int := 0
  x : Option Int := none
  cnt : Nat := 0
  nan : Bool := false
  stat : BitVec 8 := 0

/-- MSTAT bits of the flags of a promotion (R390). -/
def mstatFlags (fl : Flags) : BitVec 8 :=
  (if fl &&& Flags.nx ≠ 0 then 1 else 0) ||| (if fl &&& Flags.uf ≠ 0 then 2 else 0) |||
  (if fl &&& Flags.of ≠ 0 then 4 else 0) ||| (if fl &&& Flags.nv ≠ 0 then 8 else 0)

/-- Promote of R376. -/
def ElemAcc.promote (e : ElemAcc) : ElemAcc :=
  let r : Option Rounded :=
    if e.nan then some ⟨Fmt.f32.nan, Flags.nv⟩
    else match e.x with
      | none => none
      | some x =>
        let (n, d) := ratio e.s.natAbs (x - 48)
        let v := Num.ofRatio false (if e.s < 0 then -(n : Int) else n) d
        let (y, inv) := Num.add 0 (Fmt.f32.decode e.acc) v
        some (rnd .f32 0 false 0 y (Fmt.f32.snanFlag [e.acc] ||| nvIf inv))
  let e := match r with
    | none => e
    | some r => { e with acc := r.v, stat := e.stat ||| mstatFlags r.fl }
  { e with p := e.pz, s := 0, x := none, cnt := 0 }

/-- One block pair of an element (R376): m planes, the scale t and the promotion interval. -/
def ElemAcc.block (e : ElemAcc) (a b : GBlock) (am bm : List Int) (m : Nat) (t : Int) (int : Nat) : ElemAcc :=
  let e := { e with
    nan := e.nan || a.e = 255 || b.e = 255
    pz := e.pz || a.poisoned m || b.poisoned m }
  let on := !e.nan && a.e ≠ 0 && b.e ≠ 0
  let p := if on then innerProduct am bm m else 0
  let x := if on then some ((a.e : Int) + b.e - 254 + t) else e.x
  let e := if 0 < e.cnt ∧ x ≠ e.x then e.promote else e
  let e := if 64 * 2 ^ 48 ≤ (e.s + p).natAbs then { e.promote with stat := e.promote.stat ||| 16 } else e
  let e : ElemAcc := { e with s := e.s + p, x := x, cnt := e.cnt + 1 }
  if e.cnt = 2 ^ int then e.promote else e

/-- floor(log2) of ulp(v) of a finite F32 value (R378); none for an infinity or a NaN, which satisfy the condition. -/
def ulpExp (v : Nat) : Option Int :=
  match Fmt.f32.decode v with
  | .zero _ => some (-149)
  | .fin _ n d => some (max (floorLog2 n d) (-126) - 23)
  | _ => none

/-- A column of a gang: its slot, its column in the slice, its scale, and its blocks. -/
structure GCol where
  slot : Nat
  c : Nat
  t : Int
  blocks : List GBlock

/-- The condition of R378 for an element and m. -/
def cutOk (e : ElemAcc) (a b : GBlock) (t : Int) (thr m : Nat) : Bool :=
  !pairOn a b ||
  (match ulpExp e.acc with
  | none => true
  | some u => decide ((a.e : Int) + b.e - 254 + t + 6 - m ≤ u - thr))

/-- The number of planes that a row uses of a block (R378). -/
def cutPlanes (cut : Bool × BitVec 4) (n : Nat) (es : List (GCol × ElemAcc)) (a : GBlock) (k : Nat) : Nat :=
  if cut.1 = false then n
  else
    (((upto n).filter (fun m => decide (2 ≤ m) && m % 2 = 0)).find? (fun m =>
      es.all (fun y => match y.1.blocks[k]? with
        | some b => cutOk y.2 a b y.1.t cut.2.toNat m
        | none => true))).getD n

/-- One block of a row over every column: whether the row stopped early, and the elements. -/
def rowBlock (cut : Bool × BitVec 4) (n int : Nat) (a : GBlock) (k : Nat) (es : List (GCol × ElemAcc)) :
    Bool × List (GCol × ElemAcc) :=
  let m := cutPlanes cut n es a k
  let am := mantissas a m
  (decide (m < n), es.map (fun y =>
    match y.1.blocks[k]? with
    | some b => (y.1, y.2.block a b am (mantissas b m) m y.1.t int)
    | none => y))

/-- The blocks of a row in ascending order. -/
def rowBlocks (cut : Bool × BitVec 4) (n int : Nat) :
    List GBlock → Nat → Bool → List (GCol × ElemAcc) → Bool × List (GCol × ElemAcc)
  | [], _, stopped, es => (stopped, es)
  | a :: as, k, stopped, es =>
    let (c, es) := rowBlock cut n int a k es
    rowBlocks cut n int as (k + 1) (stopped || c) es

/-- The kb blocks from address a. -/
def gangBlocks (c : Cell) (ns n kb a : Nat) : List GBlock :=
  (upto kb).map (fun b => gangBlock c ns n (a + b * 8 * (1 + ns)))

/-- The cell of slot i with its local store as the gang of its join j reads it (R129, R384). -/
def State.gangView (s : State) (st i j : Nat) : Cell :=
  let c := s.cell (cellOfStrip st i)
  c.viewAt s.fresh (((c.joinOf j).map (fun x => x.1.tok.at_)).getD 0) false

/-- The columns of slot i of a gang. -/
def gangCols (s : State) (st : Nat) (i n kb : Nat) (x : Join) : List GCol :=
  let c := s.gangView st i x.j
  (upto (bCols x.b)).map (fun col =>
    ⟨i, col, x.t, gangBlocks c (descNs x.b) n kb (descBase x.b + col * bStride x.b)⟩)

/-- A result of a gang: slot, element of the accumulator, pattern, poison and MSTAT bits. -/
structure GangOut where
  slot : Nat
  e : Nat
  v : Nat
  p : Bool
  stat : BitVec 8

/-- One row of a gang: whether it was cut, whether a block of A was malformed, and its results. -/
def gangRow (s : State) (st acc : Nat) (x0 : Join) (cols : List GCol) (row : Nat) : Bool × Bool × List GangOut :=
  let c0 := s.gangView st 0 x0.j
  let as := gangBlocks c0 (descNs x0.a) x0.n x0.kb (descBase x0.a + row * aStride x0.a)
  let es := cols.map (fun col =>
    let (v, p) := ((s.cell (cellOfStrip st col.slot)).mat.accOf acc).pos (32 * row + col.c)
    (col, ({ acc := v, p, pz := p } : ElemAcc)))
  let (cut, es) := rowBlocks x0.cut x0.n x0.int as 0 false es
  (cut, as.any (fun b => b.bad), es.map (fun y =>
    let e := if 0 < y.2.cnt then y.2.promote else y.2
    ⟨y.1.slot, 32 * row + y.1.c, e.acc, e.p, e.stat⟩))

/-- MSTAT bits of a slot and its accumulator after a gang. -/
def State.gangWrite (s : State) (st acc i : Nat) (outs : List GangOut) (bits : BitVec 8) : State :=
  s.modCell (cellOfStrip st i) (fun c =>
    let mine := outs.filter (fun o => o.slot = i)
    let r := (c.mat.accOf acc).write 32 (mine.map (fun o => ⟨o.e, o.v, o.p⟩))
    let stat := mine.foldl (fun a o => a ||| o.stat ||| (if o.p then 128 else 0)) bits
    c.setMat ((c.mat.setAcc acc r).orStat stat))

/-- The elements of accumulator n of cell k that are touched and whose parity fails are poisoned, and reported to the row manager (R385). -/
def State.accCheck (s : State) (k n : Nat) (touched : Nat → Bool) : State :=
  let c := s.cell k
  let bad := (c.mat.bad.filter (fun x => x.1 = n && touched x.2)).map (fun x => x.2)
  bad.foldl (fun s e => s.record (yOf k) 3 c.ident.dom k 0 (ofNat (512 * n + e)))
    (s.setCell k (c.setMat { c.mat.setAcc n { c.mat.accOf n with p := bad.foldl (fun p e => setBit p e true) (c.mat.accOf n).p } with
      bad := c.mat.bad.filter (fun x => x.1 ≠ n || !touched x.2) }))

/-- The data of an accumulator element change by themselves, and its parity fails (R385). -/
def State.accUpset (s : State) (k n e : Nat) (data : BitVec 32) : State :=
  if 8 ≤ n ∨ 512 ≤ e ∨ data = 0 then s
  else
    let c := s.cell k
    let r := c.mat.accOf n
    s.setCell k (c.setMat { c.mat.setAcc n { r with d := r.d ^^^ (data.zeroExtend 16384 <<< (32 * e)) } with
      bad := (n, e) :: c.mat.bad.erase (n, e) })

/-- Some local store block that the gang reads lies in a parity group that is being rebuilt (R273). -/
def State.gangBusy (s : State) (st : Nat) (g : Group) : Bool :=
  let span (base n stride ns : Nat) : Nat × Nat := (base, if n = 0 then 0 else (n - 1) * stride + g.kb * 8 * (1 + ns))
  (upto 8).any (fun i =>
    let k := cellOfStrip st i
    match (s.cell k).joinOf g.j with
    | none => false
    | some (_, x) =>
      let b := span (descBase x.b) (bCols x.b) (bStride x.b) (descNs x.b)
      let a := span (descBase x.a) (aRows x.a) (aStride x.a) (descNs x.a)
      s.storeBusy k b.1 b.2 || (decide (i = 0) && s.storeBusy k a.1 a.2))

/-- The effect of a gang on its accumulator (R376, R377). A third firing of element e of slot i, number 512 × i + e, with no
majority leaves a free value, poisoned (R123). -/
def State.gangResult (s : State) (st : Nat) (g : Group) (rf : List Refire) : State :=
  let xs := s.joins st g.j
  match xs with
  | [] => s
  | x0 :: _ =>
    let cols := (xs.zip (upto 8)).flatMap (fun y => gangCols s st y.2 g.n g.kb y.1)
    if cols.isEmpty then s
    else
      let rows := (upto (aRows x0.a)).map (gangRow s st g.acc x0 cols)
      let cut : BitVec 8 := if rows.any (fun r => r.1) then 64 else 0
      let hdrA : BitVec 8 := if rows.any (fun r => r.2.1) then 32 else 0
      let bad := noMajority rf
      let outs := (rows.flatMap (fun r => r.2.2)).map (fun o =>
        if bad.contains (512 * o.slot + o.e) then { o with v := s.freeElem (512 * o.slot + o.e), p := true } else o)
      let s' := (upto 8).foldl (fun s i =>
        let hdrB : BitVec 8 := if cols.any (fun c => c.slot = i && c.blocks.any (fun b => b.bad)) then 32 else 0
        s.gangWrite st g.acc i outs (cut ||| hdrB ||| (if i = 0 then hdrA else 0))) s
      { s' with fresh := s.fresh + 4096 }

/-- Started group k of a strip completes (R383): the accumulator, the tokens of all 8 slots, and its leave. An earlier
gang on the same accumulator completes first (R376). -/
def execGangCompletion (st k : Nat) (rf : List Refire) (s : State) : Host.Outcome State Fault Refusal :=
  let m := s.stripMat st
  match (m.groups.filter (fun g => g.started))[k]? with
  | none => .next s
  | some g =>
    if m.groups.any (fun o => o.started && o.acc = g.acc && decide (o.j < g.j)) then .next s
    else if s.gangBusy st g then .next s
    else
      let rows := ((s.joins st g.j).head?.map (fun x => aRows x.a)).getD 0
      let s := ((s.joins st g.j).zip (upto 8)).foldl (fun s y =>
        s.accCheck (cellOfStrip st y.2) g.acc (fun e => decide (e / 32 < rows) && decide (e % 32 < bCols y.1.b))) s
      let s := s.gangResult st g rf
      let s := if g.granted then s.giveLeave (blockOfStrip st) (.gang st g.j) else s
      let s := s.setStripMat st { m with groups := m.groups.erase g }
      let s := (s.fireGroup st g.j).trace (cellOfStrip st 0) 9 (at_ (g.j % 0x10000) 16 ||| ofNat g.acc)
      .next ((rf.foldl (fun s r => s.softError (cellOfStrip st (r.elem / 512 % 8)) 1 r.majority) s).settleRel st)

/-! ### Transfers (R379, R384, R388) -/

/-- The vector registers that a queued instruction writes. -/
def VEntry.writesV (e : VEntry) : List Nat :=
  if e.isPred then predWrites e.x
  else if e.op = 0x96 ∨ (e.op = 0xAD ∧ e.f.fn ≠ 5) then [maskName e.f.d.toNat]
  else if e.op = 0xA0 ∨ e.op = 0xA3 ∨ e.op = 0xA5 ∨ e.op = 0xAF ∨ e.gDest ≠ [] then []
  else [e.f.d.toNat]

/-- The vector registers that a queued instruction reads. -/
def VEntry.readsV (e : VEntry) : List Nat :=
  let v (x : BitVec 6) : List Nat := if x.toNat < 16 then [x.toNat] else []
  match e.op.toNat with
  | 0x97 => v e.f.a ++ v e.f.b
  | 0xA3 => v e.f.c
  | 0xA5 => v e.f.b ++ v e.f.c
  | 0xAA => v e.f.a ++ v e.f.b
  | 0xA4 => v e.f.b
  | n =>
    if e.isPred ∨ n = 0xAD ∨ n = 0xAB ∨ n = 0xAE ∨ n = 0x9F ∨ n = 0xA1 ∨ n = 0xA2 then []
    else if decide (n ≤ 0x9D) then
      (v e.f.a) ++ (if 2 ≤ laneArity e.op then v e.f.b else []) ++ (if 3 ≤ laneArity e.op then v e.f.c else [])
    else v e.f.a

/-- The transfer may start: no earlier entry of its cell is on its accumulator or its register, and the vector queue is
done with its register. -/
def Cell.transferReady (c : Cell) (e : MatEntry) : Bool :=
  let before := c.mat.entries.takeWhile (fun x => x ≠ e)
  let usesV := e.reads || e.writes
  let vs := c.vec.queue ++ c.vec.preds
  before.all (fun x => (match x.join with
    | some y => y.kind ≠ 0 || x.acc ≠ e.acc
    | none => x.acc ≠ e.acc && !(usesV && (x.reads || x.writes) && x.v = e.v))) &&
  (!usesV || vs.all (fun x => !x.writesV.contains e.v)) && (!e.writes || vs.all (fun x => !x.readsV.contains e.v))

/-- What a transfer does to its accumulator and register (R367, R388). -/
def Cell.transfer (c : Cell) (e : MatEntry) : Cell :=
  let a := c.mat.accOf e.acc
  let v := c.vec.reg e.v
  match e.tok.opb.toNat with
  | 0xC9 =>
    let c := { c with vec := c.vec.setReg e.v a }
    if e.clr then c.setMat (c.mat.setAcc e.acc {}) else c
  | 0xCD => c.setMat (c.mat.setAcc e.acc v)
  | 0xCF => { c.setMat (c.mat.setAcc e.acc v) with vec := c.vec.setReg e.v a }
  | _ => c.setMat (c.mat.setAcc e.acc {})

/-- The transfer replaces its accumulator as a whole, with good parity (R385). -/
def MatEntry.replaces (e : MatEntry) : Bool := e.tok.opb ≠ 0xC9 || e.clr

/-- Per-slot transfer k of a cell, in program order, finishes. -/
def execMatrixTransferComplete (cell k : Nat) (s : State) : Host.Outcome State Fault Refusal :=
  let c := s.cell cell
  match (c.mat.entries.filter (fun e => e.join.isNone))[k]? with
  | none => .next s
  | some e =>
    if c.transferReady e = false then .next s
    else
      let s := if e.tok.opb = 0xC9 ∨ e.tok.opb = 0xCF then s.accCheck cell e.acc (fun _ => true) else s
      .next (s.modCell cell (fun c =>
        let c := c.transfer e
        let c := if e.replaces then c.setMat { c.mat with bad := c.mat.bad.filter (fun x => x.1 ≠ e.acc) } else c
        c.dropEntry e))

end Sys2Proof.Machine
end

