-- ==== Sys2Proof/Machine/Geom.lean ====
section
/-! DEFINITION. The arithmetic of the geometric predicates (R341 to R355): the determinants, the filter of stage A, the test of
stage B, the exact result, the class of two segments, and perturbation. -/

namespace Sys2Proof.Machine

open Sys2Proof

/-! ### The five predicates (R341, R343) -/

/-- A predicate by its opcode less 0xC0: PORI2, PORI3, PINCI, PINSP, PSEGX. -/
def predDim (kind : Nat) : Nat := if kind = 1 ∨ kind = 3 then 3 else 2
def predPoints (kind : Nat) : Nat := if kind = 0 then 3 else if kind = 3 then 5 else 4
/-- Coordinate words, index words, and the record length. -/
def predCoords (kind : Nat) : Nat := predDim kind * predPoints kind
def predIndexes (kind : Nat) : Nat := (predPoints kind + 1) / 2
def predLen (kind : Nat) (tb : Bool) : Nat := predCoords kind + (if tb then predIndexes kind else 0)

/-- The arithmetic in which a determinant is evaluated. -/
structure Arith (α : Type) where
  add : α → α → α
  sub : α → α → α
  mul : α → α → α
  neg : α → α

/-- A determinant of order 3, expanded along its first column (R345). -/
def det3 {α : Type} (A : Arith α) (u v w : α × α × α) : α :=
  let t1 := A.mul u.1 (A.sub (A.mul v.2.1 w.2.2) (A.mul v.2.2 w.2.1))
  let t2 := A.mul v.1 (A.sub (A.mul w.2.1 u.2.2) (A.mul w.2.2 u.2.1))
  let t3 := A.mul w.1 (A.sub (A.mul u.2.1 v.2.2) (A.mul u.2.2 v.2.1))
  A.add (A.add t1 t2) t3

/-- The determinant of R341 on the differences from the last point of the record; the third of each is unused in the
plane. -/
def predDet {α : Type} (A : Arith α) (zero : α) (kind : Nat) (d : List (α × α × α)) : α :=
  let at' (i : Nat) : α × α × α := d.getD i (zero, zero, zero)
  let lift2 (u : α × α × α) : α := A.add (A.mul u.1 u.1) (A.mul u.2.1 u.2.1)
  let lift3 (u : α × α × α) : α := A.add (lift2 u) (A.mul u.2.2 u.2.2)
  let flat (u : α × α × α) : α × α × α := (u.1, u.2.1, lift2 u)
  match kind with
  | 1 => det3 A (at' 0) (at' 1) (at' 2)
  | 2 => det3 A (flat (at' 0)) (flat (at' 1)) (flat (at' 2))
  | 3 =>
    let t := A.neg (A.mul (lift3 (at' 0)) (det3 A (at' 1) (at' 2) (at' 3)))
    let t := A.add t (A.mul (lift3 (at' 1)) (det3 A (at' 0) (at' 2) (at' 3)))
    let t := A.sub t (A.mul (lift3 (at' 2)) (det3 A (at' 0) (at' 1) (at' 3)))
    A.add t (A.mul (lift3 (at' 3)) (det3 A (at' 0) (at' 1) (at' 2)))
  | _ => A.sub (A.mul (at' 0).1 (at' 1).2.1) (A.mul (at' 0).2.1 (at' 1).1)

/-! ### Exact evaluation (R347) -/

def Arith.int : Arith Int := ⟨(· + ·), (· - ·), (· * ·), fun x => -x⟩

/-- A finite F64 pattern as an integer scaled by 2^1074. -/
def coordInt (v : Word) : Int :=
  let (k, x) := Fmt.f64.kx (v.toNat % 2 ^ 63)
  let m : Int := k * 2 ^ (x + 1074).toNat
  if 2 ^ 63 ≤ v.toNat then -m else m

/-- Differences of points from the last. -/
def diffs {α : Type} (sub : α → α → α) (zero : α) (ps : List (α × α × α)) : List (α × α × α) :=
  let r := ps.getLast?.getD (zero, zero, zero)
  ps.dropLast.map (fun p => (sub p.1 r.1, sub p.2.1 r.2.1, sub p.2.2 r.2.2))

/-- The sign of an integer. -/
def sign (x : Int) : Int := if x < 0 then -1 else if x = 0 then 0 else 1

/-- The exact determinant scaled by 2^(1074 × degree). -/
def exactDet (kind : Nat) (ps : List (Int × Int × Int)) : Int :=
  predDet Arith.int 0 kind (diffs (· - ·) 0 ps)

/-- The degree of a determinant in the coordinates. -/
def predDegree (kind : Nat) : Nat :=
  match kind with
  | 1 => 3
  | 2 => 4
  | 3 => 5
  | _ => 2

/-! ### Stage A (R345) -/

/-- A binary64 value with the mark that some operation overflowed or was tiny and inexact. -/
structure Filt where
  v : Num
  bad : Bool

/-- An exact value rounded to F64 under RNE. -/
def Filt.round (x : Num) (bad : Bool) : Filt :=
  let (v, fl) := roundTo .f64 0 false 0 x
  ⟨Fmt.f64.decode v, bad || fl &&& (Flags.of ||| Flags.uf) ≠ 0⟩

def Filt.add (a b : Filt) : Filt := Filt.round (Num.add 0 a.v b.v).1 (a.bad || b.bad)
def Filt.sub (a b : Filt) : Filt := Filt.round (Num.add 0 a.v b.v.negate).1 (a.bad || b.bad)
def Filt.mul (a b : Filt) : Filt := Filt.round (a.v.mul b.v).1 (a.bad || b.bad)

def Arith.filt : Arith Filt := ⟨Filt.add, Filt.sub, Filt.mul, fun x => ⟨x.v.negate, x.bad⟩⟩
/-- The evaluation of P̃: every subtraction between products becomes an addition. -/
def Arith.bound : Arith Filt := ⟨Filt.add, Filt.add, Filt.mul, id⟩

/-- D̃ and P̃ of R345. -/
def stageA (kind : Nat) (ps : List (Num × Num × Num)) : Filt × Filt :=
  let z : Filt := ⟨.zero false, false⟩
  let f (x : Num) : Filt := ⟨x, false⟩
  let d := diffs Filt.sub z (ps.map (fun p => (f p.1, f p.2.1, f p.2.2)))
  let a (x : Filt) : Filt := ⟨x.v.abs, x.bad⟩
  (predDet Arith.filt z kind d, predDet Arith.bound z kind (d.map (fun u => (a u.1, a u.2.1, a u.2.2))))

/-- The exponents of ka and kb (R345). -/
def kaExp (kind : Nat) : Nat := match kind with
  | 1 => 50
  | 2 => 49
  | 3 => 48
  | _ => 51
def kbExp (kind : Nat) : Nat := match kind with
  | 1 => 97
  | 2 => 96
  | 3 => 95
  | _ => 98

/-- |D̃| > ka × P̃ with no mark. -/
def stageASettles (kind : Nat) (d p : Filt) : Bool :=
  !d.bad && !p.bad && d.v.isFinite && p.v.isFinite &&
  decide (p.v.num.natAbs * d.v.den < d.v.num.natAbs * p.v.den * 2 ^ kaExp kind)

/-! ### Stage B (R346) -/

/-- An integer rounded to 106 significant bits, ties to even. -/
def round106 (x : Int) : Nat :=
  let n := x.natAbs
  let e := Nat.log2 n - 105
  let k := n / 2 ^ e
  let r := n % 2 ^ e
  (if decide (2 ^ e < 2 * r) || (decide (2 * r = 2 ^ e) && k % 2 = 1) then k + 1 else k) * 2 ^ e

/-- Every nonzero coordinate difference has a magnitude from 2^-200 to 2^200. -/
def stageBTakes (ps : List (Int × Int × Int)) : Bool :=
  let ok (x : Int) : Bool := x = 0 || (decide (2 ^ 874 ≤ x.natAbs) && decide (x.natAbs ≤ 2 ^ 1274))
  (diffs (· - ·) 0 ps).all (fun u => ok u.1 && ok u.2.1 && ok u.2.2)

/-- P̃ is finite and |D_B| > kb × P̃. -/
def stageBSettles (kind : Nat) (d : Int) (p : Filt) : Bool :=
  p.v.isFinite &&
  decide (p.v.num.natAbs * 2 ^ (1074 * predDegree kind) < round106 d * p.v.den * 2 ^ kbExp kind)

/-- A determinant through the stages: the stage that settles it, whether it entered stage B, and its exact sign. -/
structure Settled where
  stage : Stage
  tookB : Bool
  sign : Int

/-- The points as exact values, and as integers. -/
def settle (kind : Nat) (ps : List (Word × Word × Word)) : Settled :=
  let xs := ps.map (fun p => (coordInt p.1, coordInt p.2.1, coordInt p.2.2))
  let dec (w : Word) : Num := Fmt.f64.decode w.toNat
  let (d, p) := stageA kind (ps.map (fun p => (dec p.1, dec p.2.1, dec p.2.2)))
  let e := exactDet kind xs
  if stageASettles kind d p then ⟨.a, false, if d.v.neg then -1 else 1⟩
  else if stageBTakes xs then ⟨if stageBSettles kind e p then .b else .c, true, sign e⟩
  else ⟨.c, false, sign e⟩

/-! ### Perturbation (R353 to R355) -/

/-- Polynomials in ε, lowest power first. -/
def polyAdd : List Int → List Int → List Int
  | [], b => b
  | a, [] => a
  | x :: a, y :: b => (x + y) :: polyAdd a b

def polyMul : List Int → List Int → List Int
  | [], _ => []
  | x :: a, b => polyAdd (b.map (fun y => x * y)) (0 :: polyMul a b)

def Arith.poly : Arith (List Int) :=
  ⟨polyAdd, fun a b => polyAdd a (b.map (fun x => -x)), polyMul, fun a => a.map (fun x => -x)⟩

/-- The sign of the first nonzero coefficient of D(ε) for an orientation (R353). Coordinates are integers scaled by a power
of two, which only scales ε. -/
def pertSign (kind : Nat) (ps : List (Int × Int × Int)) (ls : List Nat) : Int :=
  let q := (ps.zip ls).map (fun y =>
    let l : Int := y.2
    ([y.1.1, l], [y.1.2.1, l * l], [y.1.2.2, l * l * l]))
  let d := predDet Arith.poly [] kind (diffs (fun a b => Arith.poly.sub a b) [] q)
  match d.find? (fun c => c ≠ 0) with
  | some c => sign c
  | none => 0

/-- The point of highest index (R354). -/
def highest (ls : List Nat) : Nat :=
  (ls.zip (List.range ls.length)).foldl (fun m y => if ls.getD m 0 < y.1 then y.2 else m) 0

/-- The result of a determinant that is 0, under perturbation (R353, R354). -/
def pertResult (kind : Nat) (ps : List (Int × Int × Int)) (ls : List Nat) : Int :=
  if kind ≤ 1 then pertSign kind ps ls
  else
    let m := highest ls
    let t := pertSign (kind - 2) (ps.eraseIdx m) (ls.eraseIdx m)
    if (m + ls.length) % 2 = 0 then t else -t

/-! ### Segments (R342) -/

/-- Lexicographic order of points of the plane. -/
def lexLt (a b : Int × Int) : Bool := decide (a.1 < b.1) || (a.1 = b.1 && decide (a.2 < b.2))

/-- The class of [p, q] and [r, s] from the four orientations and the points. -/
def segClass (o : List Int) (p q r s : Int × Int) : Nat :=
  let o1 := o.getD 0 0
  let o2 := o.getD 1 0
  let o3 := o.getD 2 0
  let o4 := o.getD 3 0
  if (o1 ≠ 0 ∧ o1 = o2) ∨ (o3 ≠ 0 ∧ o3 = o4) then 0
  else if o1 = 0 ∧ o2 = 0 ∧ o3 = 0 ∧ o4 = 0 then
    let mn (a b : Int × Int) := if lexLt b a then b else a
    let mx (a b : Int × Int) := if lexLt a b then b else a
    let lo := mx (mn p q) (mn r s)
    let hi := mn (mx p q) (mx r s)
    if lexLt hi lo then 0 else if lo = hi then 2 else 3
  else if o1 ≠ 0 ∧ o2 ≠ 0 ∧ o3 ≠ 0 ∧ o4 ≠ 0 then 1
  else 2

/-- The points of the four orientations of R342. -/
def segTriples : List (Nat × Nat × Nat) := [(0, 1, 2), (0, 1, 3), (2, 3, 0), (2, 3, 1)]

/-! ### A lane -/

/-- What a lane gives: its stage, whether it entered stage B, its result, and the bits of R351, R352 and R364. -/
structure LaneRes where
  stage : Stage
  tookB : Bool
  res : Int
  z : Bool
  dup : Bool
  pert : Bool

/-- No two equal numbers. -/
def distinct : List Nat → Bool
  | [] => true
  | x :: xs => !xs.contains x && distinct xs

/-- The later of two stages. -/
def Stage.max (x y : Stage) : Stage :=
  match x, y with
  | .c, _ => .c
  | _, .c => .c
  | .b, _ => .b
  | _, .b => .b
  | .a, _ => .a
  | _, z => z

/-- A lane of finite coordinates ps with the indices ls (R348, R351, R352, R355). -/
def laneRes (kind : Nat) (tb : Bool) (ps : List (Word × Word × Word)) (ls : List Nat) : LaneRes :=
  let xs := ps.map (fun p => (coordInt p.1, coordInt p.2.1, coordInt p.2.2))
  let dup := tb && !distinct ls
  if kind = 4 then
    let pick {α : Type} (l : List α) (z : α) (t : Nat × Nat × Nat) : List α := [l.getD t.1 z, l.getD t.2.1 z, l.getD t.2.2 z]
    let os := segTriples.map (fun t => settle 0 (pick ps (0, 0, 0) t))
    let sg := os.map (fun o => o.sign)
    let z := sg.contains 0
    let pt (i : Nat) : Int × Int := ((xs.getD i (0, 0, 0)).1, (xs.getD i (0, 0, 0)).2.1)
    let res : Nat :=
      if tb && !dup then
        let o := (segTriples.zip sg).map (fun y =>
          if y.2 = 0 then pertSign 0 (pick xs (0, 0, 0) y.1) (pick ls 0 y.1) else y.2)
        if o.getD 0 0 ≠ o.getD 1 0 ∧ o.getD 2 0 ≠ o.getD 3 0 then 1 else 0
      else segClass sg (pt 0) (pt 1) (pt 2) (pt 3)
    ⟨os.foldl (fun s o => s.max o.stage) .a, os.any (fun o => o.tookB), res, z, dup, z && tb && !dup⟩
  else
    let o := settle kind ps
    let z : Bool := o.sign = 0
    let pert := z && tb && !dup
    ⟨o.stage, o.tookB, if pert then pertResult kind xs ls else o.sign, z, dup, pert⟩

/-- The points of a record. -/
def recordPoints (kind : Nat) (ws : List Val) : List (Word × Word × Word) :=
  let at' (i : Nat) : Word := (ws.getD i Val.zero).v
  (List.range (predPoints kind)).map (fun i =>
    if predDim kind = 3 then (at' (3 * i), at' (3 * i + 1), at' (3 * i + 2)) else (at' (2 * i), at' (2 * i + 1), 0))

/-- The indices of a record with TB = 1 (R343). -/
def recordIndexes (kind : Nat) (ws : List Val) : List Nat :=
  (List.range (predPoints kind)).map (fun i => field (ws.getD (predCoords kind + i / 2) Val.zero).v (32 * (i % 2)) 32)

/-- A coordinate word that holds a NaN or an infinity. -/
def nonFinite (v : Word) : Bool := !(Fmt.f64.decode v.toNat).isFinite

end Sys2Proof.Machine
end

