-- ==== Sys2Proof/Machine/Pred.lean ====
section
/-! DEFINITION. The predicate instructions 0xC0 to 0xC5 (R356 to R364) and the quad's predicate unit: read phase, stage A and
hand-off, stages B and C, and completion. -/

namespace Sys2Proof.Machine

open Sys2Proof

/-! ### Issue (R356, R362, R364) -/

/-- The issue of a predicate instruction into the vector queue. -/
def predIssue (i : Instr) (h : Hdr) (f : FmtX) (s : State) : Host.Outcome State Fault Refusal :=
  issue i h s fun s c => do
    let t := c.tok i h
    let ga ← readG c f.a.toNat
    let gb ← readG c f.b.toNat
    clean 1 ga
    clean 2 gb
    let pm := field f.ef 7 3
    let rd := if pm = 0 then [] else [maskName pm]
    let wr := predWrites f
    if c.vregClear rd wr = false then .error (.wait .token (.vreg rd wr))
    vqRoom c
    let e : VEntry := { op := Instr.op i, f := ⟨0, 0, 0, 0, 0, false, 0, 0, 0, false, 0⟩, x := f, ga, gb, gc := Val.zero,
                        mode := 0, lfsr := 0, vl := 0, tok := t }
    return { s, c := { c with vec := { c.vec with queue := c.vec.queue ++ [e] } }, async := true }

/-- PORI2. -/
def execPori2 (h : Hdr) (f : FmtX) (s : State) : Host.Outcome State Fault Refusal := predIssue (.pori2 h f) h f s
/-- PORI3. -/
def execPori3 (h : Hdr) (f : FmtX) (s : State) : Host.Outcome State Fault Refusal := predIssue (.pori3 h f) h f s
/-- PINCI. -/
def execPinci (h : Hdr) (f : FmtX) (s : State) : Host.Outcome State Fault Refusal := predIssue (.pinci h f) h f s
/-- PINSP. -/
def execPinsp (h : Hdr) (f : FmtX) (s : State) : Host.Outcome State Fault Refusal := predIssue (.pinsp h f) h f s
/-- PSEGX. -/
def execPsegx (h : Hdr) (f : FmtX) (s : State) : Host.Outcome State Fault Refusal := predIssue (.psegx h f) h f s

/-- The counters as PSTAT writes them (R364). -/
def VecState.pstat (x : VecState) : Word :=
  at_ x.cnta 48 ||| at_ x.cntb 32 ||| at_ x.cntc 16 ||| at_ x.cntp 8 ||| at_ x.preds.length 4

/-- PSTAT and PSTAT.CLR (R364). -/
def execPstat (h : Hdr) (f : FmtX) (s : State) : Host.Outcome State Fault Refusal :=
  issue (.pstat h f) h s fun s c => do
    let c' ← writeDst c f.d (.clean c.vec.pstat)
    return { s, c := if bit f.ef 0 then { c' with vec := { c'.vec with cnta := 0, cntb := 0, cntc := 0, cntp := 0 } } else c' }

/-! ### The read phase (R344, R350, R363) -/

def VEntry.kind (e : VEntry) : Nat := e.op.toNat - 0xC0
def VEntry.tb (e : VEntry) : Bool := field e.x.ef 10 2 = 1
def VEntry.rl (e : VEntry) : Nat := predLen e.kind e.tb
/-- The stride of the records. -/
def VEntry.step (e : VEntry) : Int := if e.gb.v = 0 then ((8 * e.rl : Nat) : Int) else sgn e.gb.v

/-- Lane l is active, and whether its mask bit poisons it (R344). -/
def VEntry.lane (e : VEntry) (x : VecState) (l : Nat) : Bool × Bool :=
  let pm := field e.x.ef 7 3
  if pm = 0 then (true, false)
  else
    let m := x.mask pm
    (m.b.getLsbD l || m.p.getLsbD l, m.p.getLsbD l)

/-- Causes of a predicate. -/
def causePrdnf : BitVec 8 := 12

/-- Records of the active lanes, or the cause of R350. -/
def predRead (c : Cell) (e : VEntry) : Except VFail (List PredLane) :=
  let base : Int := uns e.ga.v
  let on := (upto 16).filter (fun l => (e.lane c.vec l).1)
  let addr (l : Nat) : Int := base + l * e.step
  if uns e.ga.v % 8 ≠ 0 ∨ e.step % 8 ≠ 0 then .error ⟨causeAlign, e.ga.v⟩
  else
    match on.find? (fun l => !inLocal (addr l) (8 * e.rl)) with
    | some l => .error ⟨causeLbound, ofInt (addr l)⟩
    | none =>
      let recs := on.map (fun l => (l, c.ldWords (addr l).toNat e.rl))
      let first (ws : List Val) : Option Nat :=
        (upto (predCoords e.kind)).find? (fun i => match ws[i]? with
          | some v => !v.p && nonFinite v.v
          | none => false)
      let bad := recs.filterMap (fun r => (first r.2).map (fun w => (r.1, w)))
      match bad with
      | (l, w) :: _ =>
        .error ⟨causePrdnf, at_ w 20 ||| at_ l 16 ||| ofNat (bad.foldl (fun a b => a + 2 ^ b.1) 0)⟩
      | [] => .ok (recs.map (fun r =>
          { lane := r.1, words := r.2, pois := (e.lane c.vec r.1).2 || r.2.any (fun v => v.p) }))

/-- A parity group that holds a record of an active lane is being rebuilt (R273). -/
def State.predWaits (s : State) (k : Nat) (e : VEntry) : Bool :=
  (upto 16).any (fun l => (e.lane (s.cell k).vec l).1 && s.storeBusy k ((uns e.ga.v : Int) + l * e.step).toNat (8 * e.rl))

/-- The oldest vector entry of a cell, a predicate, reads its records with every check (R356, R363). -/
def execPredicateReadPhase (k : Nat) (s : State) : Host.Outcome State Fault Refusal :=
  let c := s.cell k
  match c.vec.queue with
  | [] => .next s
  | e :: rest =>
    if e.isPred = false ∨ e.begun ∨ s.predWaits k e then .next s
    else
      match predRead (c.asRead e s.fresh) e with
      | .error x => .next (s.vecFault k x)
      | .ok ls =>
        let e' := { e with begun := true, lanes := ls, cost := if ls.isEmpty then 1 else e.rl }
        .next { s.setCell k { c with vec := { c.vec with queue := e' :: rest } } with fresh := s.fresh + 1 }

/-! ### The stages (R345 to R349, R356, R357) -/

/-- What a lane of a predicate gives; none for a lane with a non-finite (poisoned) coordinate, which stage A settles
with result 0, poisoned (R349). -/
def VEntry.laneRes (e : VEntry) (x : PredLane) : Option LaneRes :=
  if (x.words.take (predCoords e.kind)).any (fun v => nonFinite v.v) then none
  else some (Machine.laneRes e.kind e.tb (recordPoints e.kind x.words) (if e.tb then recordIndexes e.kind x.words else []))

/-- The lane leaves a stage: settled with its result if the stage settles it. `bad` says that the unit fired three times
with no majority: the lane is poisoned, and a result settled there is free (R123). -/
def VEntry.leave (e : VEntry) (free : Nat → Nat) (st : Stage) (bad : Bool) (x : PredLane) : PredLane :=
  let f := free x.lane
  match e.laneRes x with
  | none =>
    { x with stage := .a, res := 0, pois := true, z := false, dup := e.tb && !distinct (recordIndexes e.kind x.words) }
  | some r =>
    let x := { x with pois := x.pois || bad }
    if r.stage ≠ st then x
    else if bad then
      { x with stage := st, res := BitVec.ofNat 32 f, z := (f >>> 32) % 2 = 1, dup := (f >>> 33) % 2 = 1, pert := r.pert }
    else { x with stage := st, res := BitVec.ofInt 32 r.res, z := r.z, dup := r.dup, pert := r.pert }

/-- The lane enters stage B after hand-off. -/
def VEntry.toB (e : VEntry) (x : PredLane) : Bool :=
  match e.laneRes x with
  | some r => r.stage ≠ .a && r.tookB
  | none => false

/-- The entry past hand-off with the place in program order. -/
def VecState.predOf (x : VecState) (seq : Nat) : Option VEntry := x.preds.find? (fun e => e.tok.seq = seq)
def VecState.setPred (x : VecState) (e : VEntry) : VecState :=
  { x with preds := x.preds.map (fun y => if y.tok.seq = e.tok.seq then e else y) }

/-- When no lane of the instruction is in stage B any more, its lanes that are not settled form a burst at the end of the
stage-C queue (R357, R358). -/
def State.formBurst (s : State) (k seq : Nat) : State :=
  let q := s.quad (quadOf k)
  if q.stageB.any (fun y => y.cell = k && y.seq = seq) then s
  else
    match (s.cell k).vec.predOf seq with
    | none => s
    | some e =>
      let ls := (e.lanes.filter (fun x => x.stage = .none)).map (fun x => x.lane)
      if ls.isEmpty then s else s.setQuad (quadOf k) { q with stageC := q.stageC ++ [⟨k, seq, ls, false, false⟩] }

/-- A lane enters stage B before those of another cell that were handed off in the same clk if its cell comes first in the quad
(R357). -/
def BLane.before (x y : BLane) : Bool := y.since = x.since && decide (x.cell < y.cell)

/-- Lanes join those that stage B serves. -/
def joinB (q xs : List BLane) : List BLane :=
  match xs with
  | [] => q
  | x :: _ => q.takeWhile (fun y => !x.before y) ++ xs ++ q.dropWhile (fun y => !x.before y)

/-- The oldest predicate of the vector queue, with no entry of another kind ahead of it, has its stage-A slots and leaves the queue,
unless 4 predicates of the cell are past hand-off (R356). `seq` is its place in program order. -/
def execPredicateHandoff (k seq : Nat) (s : State) : Host.Outcome State Fault Refusal :=
  let c := s.cell k
  match c.vec.queue with
  | [] => .next s
  | e :: rest =>
    if e.isPred = false ∨ e.tok.seq ≠ seq ∨ e.spent = false ∨ 4 ≤ c.vec.preds.length then .next s
    else
      let bad := noMajority e.refired
      let e' := { e with lanes := e.lanes.map (fun x => e.leave s.freeElem .a (bad.contains x.lane) x) }
      let toB := (e.lanes.filter e.toB).map (fun x : PredLane => (⟨k, e.tok.seq, x.lane, s.now⟩ : BLane))
      let q := s.quad (quadOf k)
      let s := s.setCell k { c with vec := { c.vec with queue := rest, preds := c.vec.preds ++ [e'] } }
      let s := s.setQuad (quadOf k) { q with stageB := joinB q.stageB toB }
      .next (({ s with fresh := s.fresh + 2048 } : State).formBurst k e.tok.seq)

/-- A lane of an instruction past hand-off leaves a stage. -/
def State.laneLeaves (s : State) (k seq l : Nat) (st : Stage) (rf : List Refire) : State :=
  match (s.cell k).vec.predOf seq with
  | none => s
  | some e =>
    let e' := { e with lanes := e.lanes.map (fun x =>
      if x.lane = l then e.leave s.freeElem st (!(noMajority rf).isEmpty) x else x) }
    { s.modCell k (fun c => { c with vec := c.vec.setPred e' }) with fresh := s.fresh + 2048 }

/-- One of the four stage-B units finishes lane n of those it serves (R346, R357). -/
def execStageBSettle (quad n : Nat) (rf : List Refire) (s : State) : Host.Outcome State Fault Refusal :=
  let q := s.quad quad
  match (q.stageB.take 4)[n]? with
  | none => .next s
  | some x =>
    let s := s.setQuad quad { q with stageB := q.stageB.eraseIdx n }
    .next (((s.laneLeaves x.cell x.seq x.lane .b rf).formBurst x.cell x.seq).refires x.cell 2 rf)

/-- The leave of a burst (R497). -/
def burstLeave (kind : Nat) : Nat := if kind = 1 ∨ kind = 3 then 2 else 1

/-- The burst at the head of the stage-C queue asks for leave; its work begins at the grant (R358). -/
def execStageCBurstStart (quad : Nat) (s : State) : Host.Outcome State Fault Refusal :=
  let q := s.quad quad
  match q.stageC with
  | [] => .next s
  | b :: rest =>
    if b.asked then .next s
    else
      match (s.cell b.cell).vec.predOf b.seq with
      | none => .next (s.setQuad quad { q with stageC := rest })
      | some e =>
        .next ((s.setQuad quad { q with stageC := { b with asked := true } :: rest }).askLeave (blockOf b.cell)
          ⟨.burst quad, burstLeave e.kind, 0⟩)

/-- The stage-C unit settles the next lane of the burst that holds its leave; the last lane releases it (R347, R358). -/
def execStageCLaneSettle (quad : Nat) (rf : List Refire) (s : State) : Host.Outcome State Fault Refusal :=
  let q := s.quad quad
  match q.stageC with
  | [] => .next s
  | b :: rest =>
    if b.granted = false then .next s
    else
      match b.lanes with
      | [] => .next s
      | l :: ls =>
        let s := s.laneLeaves b.cell b.seq l .c rf
        let s := if ls.isEmpty then (s.setQuad quad { q with stageC := rest }).giveLeave (blockOf b.cell) (.burst quad)
          else s.setQuad quad { q with stageC := { b with lanes := ls } :: rest }
        .next (s.refires b.cell 2 rf)

/-! ### Completion (R359, R364) -/

/-- n more on a counter of the given width, which saturates. -/
def satAdd (w n m : Nat) : Nat := min (2 ^ w - 1) (n + m)

/-- The registers after an instruction whose lanes are settled (R359). -/
def VecState.predDone (x : VecState) (e : VEntry) : VecState :=
  let rs := e.lanes
  let off := if bit e.x.ef 3 then (upto 16).filter (fun l => !rs.any (fun r => r.lane = l)) else []
  let outs (f : PredLane → Nat) : List ElemOut :=
    rs.map (fun r => ⟨r.lane, f r, r.pois⟩) ++ off.map (fun l => ⟨l, 0, false⟩)
  let cz := e.x.c.toNat
  let cd := field e.x.ef 4 3
  let d := e.x.d.toNat
  let x := x.setReg d ((x.reg d).write 32 (outs (fun r => r.res.toNat)))
  let x := x.setMask cz ((x.mask cz).write 32 (outs (fun r => b2n r.z)))
  let x := if e.tb then x.setMask cd ((x.mask cd).write 32 (outs (fun r => b2n r.dup))) else x
  let cnt (st : Stage) : Nat := (rs.filter (fun r => r.stage = st)).length
  { x with
    cnta := satAdd 16 x.cnta (cnt .a), cntb := satAdd 16 x.cntb (cnt .b), cntc := satAdd 16 x.cntc (cnt .c)
    cntp := satAdd 8 x.cntp ((rs.filter (fun r => r.pert)).length) }

/-- Predicate n of a cell past hand-off, every lane settled, writes its results and fires. -/
def execPredicateCompletion (k n : Nat) (s : State) : Host.Outcome State Fault Refusal :=
  let c := s.cell k
  match c.vec.preds[n]? with
  | none => .next s
  | some e =>
    if e.lanes.any (fun x => x.stage = .none) then .next s
    else
      let x := c.vec.predDone e
      .next (s.setCell k ({ c with vec := { x with preds := x.preds.eraseIdx n } }.fire e.tok))

end Sys2Proof.Machine
end

