-- ==== Sys2Proof/Machine/Exchange.lean ====
section
/-! DEFINITION. The exchange arbiter (R406 to R423): the instructions 0xD8 to 0xDC of an agent, the rounds with their grants and
phases, the movement of a pair, and failover. -/

namespace Sys2Proof.Machine

open Sys2Proof

/-! ### Groups (R406) -/

/-- The participant that a cell represents. -/
def State.partOf (s : State) (g : XGroup) (k : Nat) : Option Nat :=
  (upto g.np).find? (fun p => s.agentCell g p = some k)

/-- The group of EF20. -/
def FmtX.xg (f : FmtX) : Nat := field f.ef 0 4

/-- The group is enabled and the issuing cell is an agent of it (R418). -/
def needAgent (s : State) (f : FmtX) : Except Stop Unit :=
  let g := s.xgroup (FmtX.xg f)
  legal (g.en && (s.partOf g s.cur).isSome)

/-! ### Instructions -/

/-- XSEND (R419). -/
def execXsend (h : Hdr) (f : FmtX) (s : State) : Host.Outcome State Fault Refusal :=
  issue (.xsend h f) h s fun s c => do
    needAgent s f
    let gp ← readG c f.d.toNat
    let ga ← readG c f.a.toNat
    let gl ← readG c f.b.toNat
    let g := s.xgroup (FmtX.xg f)
    let a := c.agent (FmtX.xg f)
    legal (a.st = 0 && decide (uns gp.v < g.np) && decide (uns gl.v < 2 ^ 40) && (gl.v = 0 || decide (a.segs.length < 64)))
    raise [(decide (uns ga.v % 8 ≠ 0) || decide (uns gl.v % 8 ≠ 0), causeAlign, ga.v),
           (decide (2 ^ 57 < uns ga.v + uns gl.v), causeTrans, ga.v),
           (gp.p, causePoison, 0), (ga.p, causePoison, 1), (gl.p, causePoison, 2)]
    let a := if gl.v = 0 then a else { a with segs := a.segs ++ [⟨uns gp.v, uns ga.v, uns gl.v, false⟩] }
    return { s, c := { c.setAgent (FmtX.xg f) a with nonReplay := true } }

/-- Bytes of supply held for a participant. -/
def Agent.heldFor (a : Agent) (p : Nat) : Nat :=
  (a.segs.filter (fun x => x.held && x.dst = p)).foldl (fun n x => n + x.len) 0

/-- XPOST (R420). -/
def execXpost (h : Hdr) (f : FmtX) (s : State) : Host.Outcome State Fault Refusal :=
  issue (.xpost h f) h s fun s c => do
    needAgent s f
    let gt ← readG c f.a.toNat
    let gb ← readG c f.b.toNat
    let gl ← readG c f.c.toNat
    let np := (s.xgroup (FmtX.xg f)).np
    let a := c.agent (FmtX.xg f)
    let inside := decide (uns gt.v % 8 = 0) && decide (uns gt.v + 8 * np ≤ 0x20000)
    let tab := if inside then c.ldWords (uns gt.v) np else []
    legal (a.st = 0 && decide (uns gl.v < 2 ^ 40) && tab.all (fun w => decide (uns w.v < 2 ^ 40)))
    raise [(decide (uns gt.v % 8 ≠ 0), causeAlign, gt.v), (decide (uns gb.v % 8 ≠ 0), causeAlign, gb.v),
           (decide (uns gl.v % 8 ≠ 0), causeAlign, gl.v), (decide (0x20000 < uns gt.v + 8 * np), causeLbound, gt.v),
           (decide (2 ^ 57 < uns gb.v + uns gl.v), causeTrans, gb.v), (gt.p || tab.any (fun w => w.p), causePoison, 1),
           (gb.p, causePoison, 2), (gl.p, causePoison, 3)]
    let post : Post := {
      demand := (tab.zip (upto np)).map (fun y => uns y.1.v + a.heldFor y.2), base := uns gb.v, limit := uns gl.v }
    let a := { a with st := 1, post := some post, arrived := false, acks := a.acks ++ [(c.tok (.xpost h f) h, false)], causes := [] }
    return { s, c := { c.setAgent (FmtX.xg f) a with nonReplay := true }, async := true, cost := (np + 1) / 2 }

/-- XGRANT (R421). -/
def execXgrant (h : Hdr) (f : FmtX) (s : State) : Host.Outcome State Fault Refusal :=
  issue (.xgrant h f) h s fun s c => do
    needAgent s f
    regsReady c [f.a, f.d]
    let ga ← readG c f.a.toNat
    let np := (s.xgroup (FmtX.xg f)).np
    let a := c.agent (FmtX.xg f)
    legal (a.st = 1)
    raise [(decide (uns ga.v % 8 ≠ 0), causeAlign, ga.v), (decide (0x20000 < uns ga.v + 16 * np + 16), causeLbound, ga.v),
           (ga.p, causePoison, 1)]
    let t := c.tok (.xgrant h f) h
    let c ← claimDst c f.d
    let a := { a with st := 2, recAt := uns ga.v, se := bit f.ef 8, sem := field f.ef 4 4, grant := some (f.d, t) }
    return { s, c := { c.setAgent (FmtX.xg f) a with nonReplay := true }, async := true }

/-- XDONE (R422). -/
def execXdone (h : Hdr) (f : FmtX) (s : State) : Host.Outcome State Fault Refusal :=
  issue (.xdone h f) h s fun s c => do
    needAgent s f
    regsReady c [f.d]
    let a := c.agent (FmtX.xg f)
    legal ((a.st = 2 && a.closing.isNone) || a.st = 3)
    let t := c.tok (.xdone h f) h
    let c ← claimDst c f.d
    let a := { a with st := if a.st = 3 then 4 else 2, closing := some (f.d, t) }
    return { s, c := { c.setAgent (FmtX.xg f) a with nonReplay := true }, async := true }

/-- The status of XSTAT (R423). -/
def Agent.status (a : Agent) : Word :=
  at_ a.round.toNat 48 ||| at_ a.st 45 ||| at_ (b2n a.stby) 44 ||| at_ a.fails 40 ||| at_ (a.held % 2 ^ 40) 0

/-- XSTAT (R423). -/
def execXstat (h : Hdr) (f : FmtX) (s : State) : Host.Outcome State Fault Refusal :=
  issue (.xstat h f) h s fun s c => do
    needAgent s f
    return { s, c := ← writeDst c f.d (.clean (c.agent (FmtX.xg f)).status) }

/-! ### The plan of a round (R409) -/

/-- The grants of one receiver, senders in ascending order: `d s` is the demand and `room` what is left of the limit. -/
def grantRow (p : Nat) (d : Nat → Nat) : List Nat → Nat → List ((Nat × Nat) × Nat)
  | [], _ => []
  | s :: ss, room =>
    let g := min (d s) room
    ((s, p), g) :: grantRow p d ss (room - g)

/-- n sorted before m: more slots first, then the lower sender, then the lower receiver. -/
def slotBefore (a b : (Nat × Nat) × Nat) : Bool :=
  decide (b.2 < a.2) || (a.2 = b.2 && (decide (a.1.1 < b.1.1) || (a.1.1 = b.1.1 && decide (a.1.2 < b.1.2))))

/-- An entry put in its place of a sorted list. -/
def slotInsert (x : (Nat × Nat) × Nat) : List ((Nat × Nat) × Nat) → List ((Nat × Nat) × Nat)
  | [] => [x]
  | y :: ys => if slotBefore x y then x :: y :: ys else y :: slotInsert x ys

/-- The permutation of one phase from the pairs with slots. -/
def phasePairs (ns : List ((Nat × Nat) × Nat)) : List (Nat × Nat) :=
  let order := (ns.filter (fun x => decide (0 < x.2))).foldl (fun l x => slotInsert x l) []
  order.foldl (fun m x =>
    if m.any (fun y => y.1 = x.1.1 || y.2 = x.1.2) then m else m ++ [x.1]) []

/-- The phases, at most `fuel` of them, and the slots that each pair has left. -/
def phasesFrom : Nat → List ((Nat × Nat) × Nat) → List (List (Nat × Nat)) × List ((Nat × Nat) × Nat)
  | 0, ns => ([], ns)
  | fuel + 1, ns =>
    let m := phasePairs ns
    if m.isEmpty then ([], ns)
    else
      let (ps, r) := phasesFrom fuel (ns.map (fun x => if m.contains x.1 then (x.1, x.2 - 1) else x))
      (m :: ps, r)

/-- The round that the posts give (R409). -/
def planRound (no : BitVec 16) (q : Nat) (posts : List (Nat × Post)) (np : Nat) : XRound :=
  let present := (upto np).filter (fun p => posts.any (fun x => x.1 = p))
  let post (p : Nat) : Post := ((posts.find? (fun x => x.1 = p)).map (fun x => x.2)).getD ⟨[], 0, 0⟩
  let g := present.flatMap (fun p => grantRow p (fun s => (post s).demand.getD p 0) present (post p).limit)
  let n := g.map (fun x => (x.1, (x.2 + q - 1) / q))
  let (phases, rest) := phasesFrom 4096 n
  let cut := (g.zip (n.zip rest)).map (fun y => (y.1.1, min y.1.2 (q * (y.2.1.2 - y.2.2.2))))
  { no, bases := present.map (fun p => (p, (post p).base)), grants := cut, phases }

/-- G(s, p). -/
def XRound.grant (r : XRound) (s p : Nat) : Nat := ((r.grants.find? (fun x => x.1 = (s, p))).map (fun x => x.2)).getD 0

/-- The round closes (R408). An absent participant's post stays with the next round. -/
def State.closeRound (s : State) (gn : Nat) : State :=
  let g := s.xgroup gn
  s.setXgroup gn { g with
    round := g.round + 1, posts := [], rounds := g.rounds ++ [planRound g.round g.q g.posts g.np] }

/-! ### Rounds and calendars (R408, R410) -/

/-- The deadline of a group's open round has come (R408). -/
def XGroup.due (g : XGroup) (now : Nat) : Bool :=
  g.en && decide (g.dl ≠ 0) && !g.posts.isEmpty && decide (g.firstAt + 1024 * g.dl ≤ now)

/-- The primary serves the group, or the standby that has taken over. -/
def XGroup.serves (g : XGroup) : Bool := g.en && (!g.dead || g.taken)

/-- A post of a participant reaches the arbiter, in the round that is open when it arrives: a round whose deadline has come closes first,
and the round closes when every participant has posted (R408). The answer is the post's round; none where the arbiter already has a post
of the participant. -/
def State.takePost (s : State) (gn part : Nat) (p : Post) : Option (State × BitVec 16) :=
  let s := if (s.xgroup gn).due s.now then s.closeRound gn else s
  let g := s.xgroup gn
  if g.serves = false ∨ g.posts.any (fun x => x.1 = part) then none
  else
    let g := { g with firstAt := if g.posts.isEmpty then s.now else g.firstAt, posts := g.posts ++ [(part, p)] }
    let s := s.setXgroup gn g
    some (if g.posts.length = g.np then s.closeRound gn else s, g.round)

/-- The first of the acknowledgements that is still to come is due. -/
def ackArrived : List (Tok × Bool) → List (Tok × Bool)
  | [] => []
  | x :: xs => if x.2 then x :: ackArrived xs else (x.1, true) :: xs

/-- The post of a participant of this module reaches the arbiter (R408, R420). -/
def execXaPostArrival (gn part : Nat) (s : State) : Host.Outcome State Fault Refusal :=
  match s.agentCell (s.xgroup gn) part with
  | none => .next s
  | some k =>
    let a := (s.cell k).agent gn
    match a.post with
    | none => .next s
    | some p =>
      if a.arrived then .next s
      else
        match s.takePost gn part p with
        | none => .next s
        | some (s', n) =>
          .next (s'.modCell k (fun c => c.setAgent gn { c.agent gn with arrived := true, round := n, acks := ackArrived a.acks }))

/-- The acknowledgement of a post reaches the agent, and the token of XPOST fires (R420), be the round over or not. -/
def execXpostAck (gn part : Nat) (s : State) : Host.Outcome State Fault Refusal :=
  match s.agentCell (s.xgroup gn) part with
  | none => .next s
  | some k =>
    let c := s.cell k
    let a := c.agent gn
    match a.acks with
    | (t, true) :: rest => .next (s.setCell k ((c.setAgent gn { a with acks := rest }).fire t))
    | _ => .next s

/-- The deadline closes a round in which someone has posted (R408). -/
def execRoundDeadline (gn : Nat) (s : State) : Host.Outcome State Fault Refusal :=
  let g := s.xgroup gn
  .next (if g.serves && g.due s.now then s.closeRound gn else s)

/-- The round with a number among the closed ones, replaced. -/
def XGroup.change (g : XGroup) (no : BitVec 16) (f : XRound → XRound) : XGroup :=
  { g with rounds := g.rounds.map (fun r => if r.no = no then f r else r) }
def XGroup.find (g : XGroup) (no : BitVec 16) : Option XRound := g.rounds.find? (fun r => r.no = no)
def State.modRound (s : State) (gn : Nat) (no : BitVec 16) (f : XRound → XRound) : State :=
  s.setXgroup gn ((s.xgroup gn).change no f)

/-- A message of the arbiter to the module of a participant, or of an agent to another's (R395). -/
def State.sendX (s : State) (m : Nat) (x : XMsg) : State := s.sendPacket m (Config.packetVc 5) (.exchange x)

/-- The words of a calendar record (R410). -/
def XRound.record (r : XRound) (np p : Nat) : List Nat :=
  let rx := (upto np).map (fun s => r.grant s p)
  [r.no.toNat * 2 ^ 48 + r.phases.length * 2 ^ 32 + (np - 1), rx.foldl (· + ·) 0] ++ rx ++ (upto np).map (fun q => r.grant p q)

/-- Words stored in the local store from address a. -/
def Cell.stWords (c : Cell) (a : Nat) (ws : List Nat) : Cell :=
  (ws.zip (upto ws.length)).foldl (fun c y => c.stWord (a + 8 * y.2) (.clean (ofNat y.1))) c

/-- The calendar of a closed round reaches an agent in GRANTING: the record, NPH to gd, and the token (R421, R407). The calendar of an
agent on another module leaves for it. -/
def execCalendarWrite (gn part : Nat) (s : State) : Host.Outcome State Fault Refusal :=
  let g := s.xgroup gn
  match s.agentCell g part with
  | none =>
    match g.rounds.find? (fun r => r.bases.any (fun b => b.1 = part) && !r.sent.contains part) with
    | some r =>
      if g.serves = false ∨ g.np ≤ part then .next s
      else .next ((s.modRound gn r.no (fun r => { r with sent := part :: r.sent })).sendX (g.moduleOf part)
        (.record gn part (r.record g.np part)))
    | none => .next s
  | some k =>
    let c := s.cell k
    let a := c.agent gn
    match a.grant, g.find a.round with
    | some (d, t), some r =>
      if a.st ≠ 2 ∨ a.arrived = false ∨ r.written.contains part ∨ s.storeBusy k a.recAt (16 * g.np + 16) then .next s
      else
        let c := c.stWords a.recAt (r.record g.np part)
        let c := (c.unbusy d.toNat).setReg d.toNat (.clean (ofNat r.phases.length))
        let c := c.setAgent gn { a with st := if a.closing.isSome then 4 else 3, grant := none }
        let s := s.setCell k (c.fire t)
        let s := s.modRound gn r.no (fun r => { r with written := part :: r.written })
        .next (s.trace k 12 (at_ r.no.toNat 48 ||| at_ r.phases.length 32 ||| ofNat gn))
    | _, _ => .next s

/-! ### Phases (R411 to R413) -/

/-- Every phase has ended. -/
def XRound.finished (r : XRound) : Bool := decide (r.phases.length ≤ r.phase)
/-- The round has ended: its phases, and the fills at its end (R411, R414). -/
def XRound.over (r : XRound) : Bool := r.finished && r.asm.isEmpty
/-- The pairs of the phase that runs or is next. -/
def XRound.pairs (r : XRound) : List (Nat × Nat) := r.phases.getD r.phase []
/-- The phase ends when every pair has ended; its circuits are free again. -/
def XRound.settle (r : XRound) : XRound :=
  if r.pairs.all (fun x => r.ended.contains x.1) then
    { r with phase := r.phase + 1, running := false, ended := [], circuits := [], used := [], through := [] }
  else r

/-- Circuits for the pairs of a phase, of the group's reserved ones: NL lanes for each, or one channel on each plane (R411, R412). -/
def bindCircuits (each : Nat) (ps : List (Nat × Nat)) : SMap Nat := (ps.zip (upto ps.length)).map (fun y => (y.1.1, each * y.2))
/-- The circuits that a pair of the group takes. -/
def XGroup.each (g : XGroup) : Nat := if g.sys then 1 else field g.lanes 0 6

/-! ### The movement of a pair (R411, R414) -/

/-- The words that a fill takes from an assembled word, with 0 where no byte came. -/
def AsmWord.value (x : AsmWord) : Word :=
  ofNat ((upto 8).foldl (fun v i => match x.bytes.find? (fun b => b.1 = i) with
    | some b => v + b.2.1.toNat * 256 ^ i
    | none => v) 0)

/-- Bytes added to an assembled word. -/
def addBytes (asm : List AsmWord) (part va : Nat) (bs : List (Nat × Byte × Nat)) : List AsmWord :=
  match asm.find? (fun x => x.part = part && x.va = va) with
  | some x => asm.map (fun y => if y = x then { x with bytes := x.bytes ++ bs } else y)
  | none => asm ++ [⟨part, va, bs⟩]

/-- The supply with n bytes for p consumed. -/
def consume (p n : Nat) : List Segment → List Segment
  | [] => []
  | x :: xs =>
    if x.dst = p then (if x.len ≤ n then xs else { x with addr := x.addr + n, len := x.len - n } :: xs)
    else x :: consume p n xs

/-- O(s, p) of R409. -/
def XRound.offset (r : XRound) (s p : Nat) : Nat := (upto s).foldl (fun n x => n + r.grant x p) 0

/-- The number of the slot of a pair in the running phase, and the bytes of it (R409). -/
def XRound.slotNo (r : XRound) (sp : Nat × Nat) : Nat := ((r.phases.take r.phase).filter (fun ph => ph.contains sp)).length
def XRound.slotLen (r : XRound) (q : Nat) (sp : Nat × Nat) : Nat := min q (r.grant sp.1 sp.2 - r.slotNo sp * q)
/-- Where the bytes of the slot land at the receiver. -/
def XRound.place (r : XRound) (q : Nat) (sp : Nat × Nat) : Nat :=
  ((r.bases.find? (fun x => x.1 = sp.2)).map (fun x => x.2)).getD 0 + r.offset sp.1 sp.2 + r.slotNo sp * q

/-- Bytes written in a receiver's region, each with its sender. -/
def XRound.deliver (r : XRound) (p : Nat) (from_ : List Nat) : XRound :=
  { r with
    fresh := SMap.put r.fresh p (SMap.get 0 r.fresh p + from_.length)
    delivered := from_.foldl (fun ds x =>
      match ds.find? (fun d => d.1 = (x, p)) with
      | some d => (ds.erase d) ++ [(d.1, d.2 + 1)]
      | none => ds ++ [((x, p), 1)]) r.delivered }

/-- Bytes delivered to p from s. -/
def XRound.deliveredTo (r : XRound) (s p : Nat) : Nat :=
  ((r.delivered.find? (fun d => d.1 = (s, p))).map (fun d => d.2)).getD 0

/-- A cell's agent records a cause. -/
def State.xcause (s : State) (gn k : Nat) (va : Nat) (cause : BitVec 8) : State :=
  s.modCell k (fun c => let a := c.agent gn; c.setAgent gn { a with causes := a.causes ++ [(va, cause)] })

/-- The SHORT word of a phase (R120). -/
def shortWord (phase bytes : Nat) : Word := at_ 7 56 ||| at_ (phase % 4096) 44 ||| at_ (bytes % 2 ^ 44) 0

/-- A piece goes to the receiver: on this module it stands on the circuit, and for another it leaves. -/
def State.carry (s : State) (gn : Nat) (r : XRound) (sp : Nat × Nat) (x : XItem) : State :=
  let g := s.xgroup gn
  match s.agentCell g sp.2 with
  | some _ => s.modRound gn r.no (fun r => { r with inbox := r.inbox ++ [(sp, x)] })
  | none => s.sendX (g.moduleOf sp.2) (.item gn r.no sp.1 sp.2 x)

/-- The sender is through with its slot. -/
def State.sendEnd (s : State) (gn : Nat) (r : XRound) (sp : Nat × Nat) (x : XItem) : State :=
  (s.carry gn r sp x).modRound gn r.no (fun r => { r with through := sp.1 :: r.through })

/-- The engine of the sender's block, whose agent is cell k, sends the next piece of a slot: bytes of one word of its supply, in list
order from the first byte not yet sent, or SHORT where the supply ends or a page faults; a poisoned word is consumed and not sent
(R411, R413, R414). -/
def State.sendPiece (s : State) (gn : Nat) (no : BitVec 16) (sp : Nat × Nat) (k : Nat) : State :=
  let g := s.xgroup gn
  match g.find no with
  | none => s
  | some r =>
    let n := r.slotLen g.q sp
    let x := SMap.get 0 r.used sp.1
    let c := s.cell k
    let a := c.agent gn
    if r.through.contains sp.1 then s
    else if n ≤ x then s.sendEnd gn r sp .last
    else
      match a.segs.find? (fun y => y.dst = sp.2) with
      | none => s.sendEnd gn r sp (.short (shortWord r.phase x))
      | some y =>
        let m := min (min (n - x) y.len) (8 - y.addr % 8)
        let w := 2 * (y.addr / 8)
        let who : Asker := .pair gn sp.1 w
        let (s, st) := s.fetch (blockOf k) c.ident.dom (y.addr / 8 * 8) 8 who (SMap.find a.words w)
        match st with
        | some (.got v) =>
          let s := if (y.addr + m) % 8 = 0 ∨ y.len ≤ m then s.dropWord k gn w else s.setWord who (.got v)
          let s := s.modCell k (fun c => let a := c.agent gn; c.setAgent gn { a with segs := consume sp.2 m a.segs })
          let s := s.modRound gn no (fun r => { r with used := SMap.put r.used sp.1 (x + m) })
          if v.p then s.xcause gn k y.addr 8
          else
            s.carry gn r sp (.bytes (r.place g.q sp + x) ((upto m).map (fun j => BitVec.ofNat 8 (field v.v (8 * (y.addr % 8 + j)) 8))))
        | some (.failed e _) =>
          ((s.dropWord k gn w).xcause gn k y.addr e).sendEnd gn r sp (.short (shortWord r.phase x))
        | some z => s.setWord who z
        | none => s

/-- The head of a pair's circuit is taken, in whole or but for bytes that come after the n first. -/
def XRound.take (r : XRound) (sp : Nat × Nat) (n : Nat) : XRound :=
  let mine := r.inbox.filter (fun y => y.1 = sp)
  let others := r.inbox.filter (fun y => y.1 ≠ sp)
  match mine with
  | (_, .bytes va bs) :: rest =>
    { r with inbox := others ++ (if bs.length ≤ n then rest else (sp, .bytes (va + n) (bs.drop n)) :: rest) }
  | _ :: rest => { r with inbox := others ++ rest }
  | [] => r

/-- The engine of the receiver's block, whose agent is cell k, takes the next bytes of a pair up to the end of a word: they are written,
assembled for a fill-once word, or lost with a cause (R414). -/
def State.takePiece (s : State) (gn : Nat) (no : BitVec 16) (sp : Nat × Nat) (k : Nat) : State :=
  match (s.xgroup gn).find no with
  | none => s
  | some r =>
    match r.inbox.find? (fun y => y.1 = sp) with
    | some (_, .bytes va bs) =>
      let n := min bs.length (8 - va % 8)
      let c := s.cell k
      let b := blockOf k
      let w := 2 * (va / 8) + 1
      let who : Asker := .pair gn sp.2 w
      let taken (s : State) (f : XRound → XRound) : State := (s.dropWord k gn w).modRound gn no (fun r => f (r.take sp n))
      let written (s : State) : State := taken s (fun r => r.deliver sp.2 (List.replicate n sp.1))
      match SMap.find (c.agent gn).words w with
      | some .done => written s
      | some (.failed e _) => taken (s.xcause gn k va e) id
      | some (.putting _ _) => s
      | _ =>
        match s.enginePage b c.ident.dom va true .dest with
        | .error none => s.askPager b c.ident.dom va true
        | .error (some e) => taken ((s.dropRefused b c.ident.dom va).xcause gn k va e) id
        | .ok (_, p) =>
          if pKind p.entry = 1 then
            let xs := (upto n).map (fun i => (va % 8 + i, bs.getD i 0, sp.1))
            taken s (fun r => { r with asm := addBytes r.asm sp.2 (va / 8 * 8) xs })
          else
            let v : Val := .clean (ofNat ((bs.take n).foldr (fun x m => x.toNat + 256 * m) 0))
            let (s, st) := s.putWord b c.ident.dom va n v who false
            match st with
            | .done => written s
            | .failed e _ => taken (s.xcause gn k va e) id
            | .putting _ _ => s.setWord who st
            | _ => s
    | _ => s

/-- An assembled word of the receiver of cell k is filled, as far as it can (R278, R414). -/
def State.fillAsm (s : State) (gn : Nat) (no : BitVec 16) (k : Nat) (x : AsmWord) : State :=
  let c := s.cell k
  let w := 2 * (x.va / 8) + 1
  let who : Asker := .pair gn x.part w
  let gone (s : State) (f : XRound → XRound) : State :=
    (s.dropWord k gn w).modRound gn no (fun r => f { r with asm := r.asm.erase x })
  let settle (s : State) (st : WordSt) : State :=
    match st with
    | .done => gone s (fun r => r.deliver x.part (x.bytes.map (fun y => y.2.2)))
    | .failed e _ => gone (s.xcause gn k x.va e) id
    | .putting _ _ => s.setWord who st
    | _ => s
  match SMap.find (c.agent gn).words w with
  | some st => settle s st
  | none =>
    let (s, st) := s.putWord (blockOf k) c.ident.dom x.va 8 (.clean x.value) who false
    settle s st

/-- The words assembled for receiver p that have all their bytes, or every one at the end of the round (R414). -/
def State.fillAll (s : State) (gn : Nat) (no : BitVec 16) (p k : Nat) (every : Bool) : State :=
  match (s.xgroup gn).find no with
  | none => s
  | some r => (r.asm.filter (fun x => x.part = p && (every || x.bytes.length = 8))).foldl (fun s x => s.fillAsm gn no k x) s

/-- The bytes written in a receiver's region since the last time are added to the semaphore that its XGRANT named (R411). -/
def State.addSem (s : State) (gn : Nat) (no : BitVec 16) (p k : Nat) : State :=
  match (s.xgroup gn).find no with
  | none => s
  | some r =>
    let a := (s.cell k).agent gn
    let s := if a.se then s.modCell k (fun c => c.setSem a.sem ((c.sem a.sem).add (Int.ofNat (SMap.get 0 r.fresh p)))) else s
    s.modRound gn no (fun r => { r with fresh := SMap.erase r.fresh p })

/-- The fills at the end of a round (R414), for the receivers of this module. -/
def State.endFills (s : State) (gn : Nat) (no : BitVec 16) : State :=
  let g := s.xgroup gn
  (upto g.np).foldl (fun s p =>
    match s.agentCell g p with
    | some k => (s.fillAll gn no p k true).addSem gn no p k
    | none => s) s

/-- A pair of the running phase has ended: SHORT ends its later slots too (R413). -/
def State.pairEnded (s : State) (gn : Nat) (no : BitVec 16) (sp : Nat × Nat) (short : Bool) : State :=
  s.modRound gn no (fun r =>
    { r with short := if short then sp :: r.short else r.short, ended := sp.1 :: r.ended }.settle)

/-- The next phase of the group's running round starts: circuits are bound, the pairs that have sent SHORT end at once, a phase of such
pairs alone is skipped, and senders on other modules are told (R411 to R413). After the last phase the words assembled in part are filled
(R414). -/
def execExchangePhaseStart (gn : Nat) (s : State) : Host.Outcome State Fault Refusal :=
  let g := s.xgroup gn
  match g.rounds.find? (fun r => !r.over) with
  | none => .next s
  | some r =>
    if r.running ∨ g.serves = false then .next s
    else if r.finished then .next (s.endFills gn r.no)
    else if g.reserved < g.each * r.pairs.length then .next s
    else
      let r' := { r with
        running := true
        circuits := bindCircuits g.each r.pairs
        ended := (r.pairs.filter r.short.contains).map (fun x : Nat × Nat => x.1) }
      let s := s.setXgroup gn (g.change r.no (fun _ => r'.settle))
      .next ((r.pairs.filter (fun x => !r.short.contains x && (s.agentCell g x.1).isNone)).foldl (fun s x =>
        s.sendX (g.moduleOf x.1) (.start gn r.no r.phase x.1 x.2)) s)

/-- f again and again, n times. -/
def again (f : State → State) : Nat → State → State
  | 0, s => s
  | n + 1, s => again f n (f s)

/-- The pair of a sender in the running phase goes on as far as it can, and ends when all of its slot's bytes are written at the
receiver or those before SHORT are (R411): the receiver's semaphore takes them. An empty fill-once word, a region that the host holds and a
word of another module are waited for (R414, R143). A pair whose receiver is on another module ends by that module's word. -/
def execExchangePairEnd (gn sender : Nat) (s : State) : Host.Outcome State Fault Refusal :=
  let g := s.xgroup gn
  match g.rounds.find? (fun r => r.running) with
  | none => .next s
  | some r =>
    match r.pairs.find? (fun x => x.1 = sender) with
    | none => .next s
    | some sp =>
      if r.ended.contains sender ∨ r.written.contains sp.1 = false ∨ r.written.contains sp.2 = false then .next s
      else
        let n := r.slotLen g.q sp + 1
        let s := match s.agentCell g sp.1 with
          | some k => again (fun s => s.sendPiece gn r.no sp k) n s
          | none => s
        match s.agentCell g sp.2 with
        | none => .next s
        | some k =>
          let s := (again (fun s => s.takePiece gn r.no sp k) (2 * n) s).fillAll gn r.no sp.2 k false
          match (s.xgroup gn).find r.no with
          | none => .next s
          | some r =>
            if r.asm.any (fun x => x.part = sp.2 && x.bytes.length = 8) then .next s
            else
              match r.inbox.filter (fun y => y.1 = sp) with
              | [(_, .bytes _ _)] => .next s
              | (_, .bytes _ _) :: _ => .next s
              | [] => .next s
              | (_, .short _) :: _ =>
                .next (((s.modRound gn r.no (fun r => r.take sp 0)).addSem gn r.no sp.2 k).pairEnded gn r.no sp true)
              | (_, .last) :: _ =>
                .next (((s.modRound gn r.no (fun r => r.take sp 0)).addSem gn r.no sp.2 k).pairEnded gn r.no sp false)

/-! ### The end of a participant's part (R422) -/

/-- No pair of the participant is still to end, and no word assembled for it to be filled. -/
def XRound.partOver (r : XRound) (p : Nat) : Bool :=
  (r.phases.drop (r.phase + 1)).all (fun ph => ph.all (fun x => x.1 ≠ p && x.2 ≠ p)) &&
  (r.finished || r.pairs.all (fun x => (x.1 ≠ p && x.2 ≠ p) || r.ended.contains x.1)) && r.asm.all (fun x => x.part ≠ p)

/-- The cause of the lowest address. -/
def lowestCause (cs : List (Nat × BitVec 8)) : Option (Nat × BitVec 8) :=
  cs.foldl (fun m c => match m with
    | none => some c
    | some x => if c.1 < x.1 then some c else m) none

/-- A participant has left a round; the round goes with the last. -/
def State.leaveRound (s : State) (gn : Nat) (no : BitVec 16) (p : Nat) : State :=
  let s := s.modRound gn no (fun r => { r with left := p :: r.left })
  let g := s.xgroup gn
  s.setXgroup gn { g with rounds := g.rounds.filter (fun r => !(r.no = no && r.over && r.bases.all (fun b => r.left.contains b.1))) }

/-- The part of a participant in its round is complete: RX as delivered, HELD to gd, IDLE, and the token or the deferred
fault (R414, R422). -/
def execXdoneComplete (gn part : Nat) (s : State) : Host.Outcome State Fault Refusal :=
  let g := s.xgroup gn
  match s.agentCell g part with
  | none => .next s
  | some k =>
    let c := s.cell k
    let a := c.agent gn
    match a.closing, g.find a.round with
    | some (d, t), some r =>
      if a.st ≠ 4 ∨ r.written.contains part = false ∨ r.partOver part = false ∨ s.storeBusy k a.recAt (16 * g.np + 16) then .next s
      else
        let c := c.stWords (a.recAt + 16) ((upto g.np).map (fun x => r.deliveredTo x part))
        let held := a.segs.foldl (fun n x => n + x.len) 0
        let c := (c.unbusy d.toNat).setReg d.toNat (.clean (ofNat held))
        let c := c.setAgent gn { a with
          st := 0, held, post := none, arrived := false, closing := none, causes := [], words := []
          segs := a.segs.map (fun x => { x with held := true }) }
        let s := (s.setCell k c).leaveRound gn r.no part
        match lowestCause a.causes with
        | none => .next (s.modCell k (fun c => c.fire t))
        | some (va, cause) => .next (s.fail k t cause (ofNat va))
    | _, _ => .next s

/-! ### Agents on other modules (log entry 61) -/

/-- A message of another module about a group that this module's arbiter serves (R408, R411, R420, R422). -/
def State.takeX (s : State) (m : Nat) (x : XMsg) : State :=
  let mine (gn p : Nat) : Bool := decide (p < (s.xgroup gn).np) && decide ((s.xgroup gn).moduleOf p = m) && decide (m ≠ s.modNo.toNat)
  match x with
  | .post gn p demand base limit =>
    if mine gn p then
      match s.takePost gn p ⟨demand, base, limit⟩ with
      | some (s', n) => s'.sendX m (.posted gn p n)
      | none => s
    else s
  | .written gn p no =>
    if mine gn p then s.modRound gn no (fun r => if r.sent.contains p then { r with written := p :: r.written } else r) else s
  | .item gn no a b it =>
    if mine gn a ∧ (s.agentCell (s.xgroup gn) b).isSome then
      s.modRound gn no (fun r => if r.running && r.pairs.contains (a, b) && !r.ended.contains a then
        { r with inbox := r.inbox ++ [((a, b), it)] } else r)
    else s
  | .ended gn no a b short =>
    if mine gn b then
      match (s.xgroup gn).find no with
      | some r => if r.running && r.pairs.contains (a, b) && !r.ended.contains a then s.pairEnded gn no (a, b) short else s
      | none => s
    else s
  | .left gn p no => if mine gn p then s.leaveRound gn no p else s
  | _ => s

/-! ### Failover (R416) -/

/-- A standby exists and has not taken over. -/
def XGroup.hasStandby (g : XGroup) : Bool := g.en && bit g.stby 31 && !g.taken

/-- The primary, while it works, sends a heartbeat to the standby. -/
def execXaHeartbeat (gn : Nat) (s : State) : Host.Outcome State Fault Refusal :=
  let g := s.xgroup gn
  .next (if g.hasStandby && !g.dead then s.setXgroup gn { g with beatAt := s.now } else s)

/-- A round whose calendar some participant has received. -/
def XRound.issued (r : XRound) : Bool := !r.written.isEmpty || !r.sent.isEmpty

/-- Four heartbeats in a row are missing and the standby takes over: STBY and FAILS in every agent. Each agent sends again the post
whose calendar it has not received, and the rounds that no calendar has left are planned afresh from those posts; rounds with calendars go
on from the lowest phase that a participant has not ended. -/
def execXaStandbyTakeover (gn : Nat) (s : State) : Host.Outcome State Fault Refusal :=
  let g := s.xgroup gn
  if g.hasStandby && decide (g.beatAt + 4 * 2 ^ 16 ≤ s.now) then
    let lost := g.rounds.filter (fun r => !r.issued)
    let g' := { g with
      taken := true
      posts := []
      round := (lost.head?.map (fun r => r.no)).getD g.round
      rounds := g.rounds.filter XRound.issued }
    .next ((upto g.np).foldl (fun s p =>
      match s.agentCell g p with
      | none => s
      | some k => s.modCell k (fun c =>
          let a := c.agent gn
          let again := (a.st = 1 || a.st = 2) && !(g'.find a.round).isSome
          c.setAgent gn { a with stby := true, fails := min 15 (a.fails + 1), arrived := a.arrived && !again })) (s.setXgroup gn g'))
  else .next s

end Sys2Proof.Machine
end

