-- ==== Sys2Proof/Machine/Contain.lean ====
section
/-! DEFINITION. Containment (R433 to R446): the Quince state of a domain, the release of a cell, termination, rewinds, the
cancelling of deferred reads, sink replays, and the park and resume of a cell (R429, R449, R450, R453). -/

namespace Sys2Proof.Machine

open Sys2Proof

/-! ### The domain map (R434) -/

/-- The row's entry for domain d takes a state. -/
def Row.setDom (r : Row) (d st : Nat) : Row :=
  { r with quince := SMap.put r.quince d (r.quinceOf d &&& ~~~7#64 ||| ofNat st) }

/-- Every row sets the state of domain d: 1 RUNNING, 2 SUSPENDED, 3 SWAPPED, 4 TORNDOWN (R434, R438). -/
def State.setDom (s : State) (d : BitVec 12) (st : Nat) : State :=
  { s with rows := (List.range 512).map (fun y => (y, (s.row y).setDom d.toNat st)) ++ s.rows.filter (fun x => decide (512 ≤ x.1)) }

/-! ### Release (R32, R55, R165, R167) -/

/-- The reads and writes of this module's agents that p names no longer wait at a tile or for a region's owner. -/
def State.dropAsks (s : State) (p : Asker → Bool) : State :=
  let keep (x : Nat × Deferred) : Bool := match x.2 with
    | .ask who => !p who
    | _ => true
  { s with
    deferred := s.deferred.map (fun t : Nat × List (Nat × Deferred) => (t.1, t.2.filter keep))
    regions := s.regions.map (fun r : Nat × Region => (r.1, { r.2 with held := r.2.held.filter keep })) }

/-- The services no longer wait for a region's owner on behalf of the calls that p names. -/
def State.dropService (s : State) (p : CallId → Bool) : State :=
  let keep (x : Nat × Deferred) : Bool := match x.2 with
    | .service call => !p call
    | _ => true
  { s with
    regions := s.regions.map (fun r : Nat × Region => (r.1, { r.2 with held := r.2.held.filter keep }))
    carrier := { s.carrier with svc := { s.carrier.svc with latched := s.carrier.svc.latched.filter (fun y => !p y.1) } } }

/-- The lane fields of a cell that another load than its own has bound, for circuits that pass through (R405, R433). -/
def Cell.passing (c : Cell) : SMap (BitVec 12 × BitVec 64) := c.laneTag.filter (fun x => x.2.2 ≠ c.ident.load)

/-- Cell k is released and becomes FREE: all of it but the local store's contents and the lanes of other loads returns to its reset
value, and so do the arbiter turns, stage-B and stage-C places it had in its quad; the leave of a burst of its own is given back, or no longer asked for. -/
def State.release (s : State) (k : Nat) : State :=
  let c := s.cell k
  let q := s.quad (quadOf k)
  let s := s.setCell k { Cell.init k with
    store := c.store, storePoison := c.storePoison, upsets := c.upsets
    laneTag := c.passing, lanes := c.lanes.filter (fun x => c.passing.any (fun y => y.1 = x.1)) }
  let s := if c.calls.isEmpty then s else s.dropService (fun call => match call with
    | .cell a _ => a = k
    | .mailbox _ _ => false)
  if q.stageB.isEmpty && q.stageC.isEmpty then s
  else
    let s := s.setQuad (quadOf k) { q with
      stageB := q.stageB.filter (fun x => x.cell ≠ k)
      stageC := q.stageC.filter (fun x => x.cell ≠ k) }
    if q.stageC.any (fun x => x.cell = k && x.asked) then s.giveLeave (blockOf k) (.burst (quadOf k)) else s

/-- Every cell of a strip is FREE. -/
def State.stripFree (s : State) (st : Nat) : Bool := (upto 8).all (fun j => (s.cell (cellOfStrip st j)).st = .free)

/-- The event unit, the matrix queue and the leave of a strip return to their reset values (R290, R366). The number of the next group
stays while some cell of the strip is not FREE. -/
def State.releaseStrip (s : State) (st : Nat) : State :=
  let b := blockOfStrip st
  let m := (s.strip st).mat
  let s := m.groups.foldl (fun s g => s.giveLeave b (.gang st g.j)) s
  let t : Strip := if s.stripFree st then {} else { mat := { next := m.next } }
  (s.giveLeave b (.reserve st)).setStrip st t

/-- The cells of a list are released, and with them the strips whose load is released: those with no cell left, those whose slot 0
is released, and those that took their reset values for the load of a cell that is (R290, R299). -/
def State.releaseCells (s : State) (ks : List Nat) : State :=
  let gone := ks.filter (fun k => slotOf k = 0 || (s.strip (stripOf k)).live = some (s.cell k).ident.load)
  let s := ks.foldl State.release s
  (ks.map stripOf).eraseDups.foldl (fun s st =>
    if s.stripFree st || gone.any (fun k => stripOf k = st) then s.releaseStrip st else s) s

/-- The lanes and channels whose tags p accepts are released (R433, R438). -/
def State.freeCircuits (s : State) (p : BitVec 12 × BitVec 64 → Bool) : State :=
  let gone (ts : SMap (BitVec 12 × BitVec 64)) (n : Nat) : Bool := ts.any (fun y => y.1 = n && p y.2)
  let s := { s with cells := s.cells.map (fun x : Nat × Cell => (x.1, { x.2 with
    lanes := x.2.lanes.filter (fun y => !gone x.2.laneTag y.1), laneTag := x.2.laneTag.filter (fun y => !p y.2) })) }
  let ports := s.carrier.ports.map (fun x : Nat × LinkPort => (x.1, { x.2 with
    cch := x.2.cch.filter (fun y => !gone x.2.chanTag y.1), circ := x.2.circ.filter (fun y => !gone x.2.chanTag y.1)
    chanTag := x.2.chanTag.filter (fun y => !p y.2) }))
  { s with carrier := { s.carrier with ports } }

/-! ### Words discarded where they stand, and rewinds (R438, R440) -/

/-- The stored words of inbound endpoint i, head first, each with its sender. -/
def Cell.ringWords (c : Cell) (i : Nat) : List (HeadEnt × Origin) :=
  ((List.range (c.inEp i).occ).map (fun j => c.headAt i j)).zip (c.inEp i).metas

/-- The ring of endpoint i holds exactly the words of a list, from its HEAD on. -/
def Cell.rewriteRing (c : Cell) (i : Nat) (ws : List (HeadEnt × Origin)) : Cell :=
  let e := c.inEp i
  let c := (ws.zip (List.range ws.length)).foldl (fun c x =>
    let a := e.slotAddr (e.nth x.2)
    (c.stWord a x.1.1.v).stWord (a + 8) ⟨x.1.1.side, false⟩) c
  (c.setIn i { e with
    occ := ws.length
    tail := e.nth ws.length
    metas := ws.map (fun x => x.2)
    hb := [] }).refill i

/-- The stored, unpopped words of the senders that p accepts leave ring i, with the messages of theirs that wait for room;
other words keep their order. -/
def Cell.dropRing (c : Cell) (i : Nat) (p : Src → Bool) : Cell :=
  let ws := c.ringWords i
  let e := c.inEp i
  if ws.any (fun x => p x.2.src) || e.waiting.any (fun m => p m.src) then
    let c := c.rewriteRing i (ws.filter (fun x => !p x.2.src))
    c.setIn i { c.inEp i with waiting := e.waiting.filter (fun m => !p m.src) }
  else c

/-- The unit index that a producer's words carry (R209). -/
def State.producerUnit (s : State) : Src → BitVec 18
  | .cell a _ _ => (s.cell a).ident.unit
  | _ => 0

/-- The next sequence number of a producer. -/
def State.producerSeq (s : State) : Src → BitVec 32
  | .cell a p _ => ((s.cell a).outEp p).seq
  | .eag e => ((s.eag e).reg 13).extractLsb' 0 32
  | .host p q => (SMap.get ({} : HostQueue) s.hostq (16 * p + q)).seq
  | _ => 0

/-- The place of a sequence number at or after s, modulo 2^32. -/
def seqFrom (s x : BitVec 32) : Bool := decide ((x - s).toNat < 2 ^ 31)

/-- Rewind(C, i, P, s, stop) of R440; a full rewind table has been tested before. A stream with nothing to resend takes no
entry. -/
def State.rewind (s : State) (k i : Nat) (src : Src) (from_ stop : BitVec 32) : State :=
  let c := (s.cell k).dropRing i (fun x => x = src)
  let ent : Rewind := ⟨BitVec.ofNat 3 i, s.producerUnit src, from_.extractLsb' 0 16, stop.extractLsb' 0 16⟩
  let old := c.rewinds.filter (fun r => !(r.port = ent.port && r.punit = ent.punit))
  let c := { c with rewinds := if from_ = stop then old else old ++ [ent] }
  let n := (s.window src).2
  (s.setCell k c).modWindow src (modEnts (fun x => !x.acked.getLsbD n && seqFrom from_ x.w.seq)
    (fun x => { x with arrived := setBit x.arrived n false, stored := setBit x.stored n false }))

/-- The words of a stream that a rewind resends. -/
def State.resent (s : State) (src : Src) (from_ : BitVec 32) : Nat :=
  let (es, n) := s.window src
  (es.filter (fun x => !x.acked.getLsbD n && seqFrom from_ x.w.seq)).length

/-! ### Deferred reads (R276, R444, R450) -/

/-- The access waits for a fill: a read deferred at its tile, or NACKed and to be sent again. -/
def Access.waitsFill (x : Access) : Bool :=
  match x.status with
  | .deferred => true
  | .nacked _ => x.kind = .ldf
  | _ => false

/-- The deferred reads of cell k are cancelled at their tiles. -/
def State.cancelDeferred (s : State) (k : Nat) : State :=
  let gone := ((s.cell k).accs.filter Access.waitsFill).map (fun x => x.tok.seq)
  let s := s.dropAsks (fun who => match who with
    | .cell a n => a = k && gone.contains n
    | _ => false)
  s.modCell k (fun c => { c with accs := c.accs.filter (fun x => !x.waitsFill) })

/-- The pending-read records of a cell's deferred reads (R450). -/
def Cell.pendingRecs (c : Cell) : List PendingRead :=
  (c.accs.filter Access.waitsFill).map (fun x => ⟨x.va, x.size, x.sx, x.d, x.tok⟩)

/-- The deferred reads of cell k are dropped with their tokens and destinations (R444). -/
def State.dropDeferred (s : State) (k : Nat) : State :=
  let ds := ((s.cell k).accs.filter Access.waitsFill).map (fun x => x.d.toNat)
  (s.cancelDeferred k).modCell k (fun c => { c with busy := ds.foldl (fun b d => b.erase d) c.busy })

/-! ### Termination (R438) -/

/-- The domain of the producer that a source names. -/
def State.producerDom (s : State) : Src → Option (BitVec 12)
  | .cell a _ _ => some (s.cell a).ident.dom
  | .eag e => some (s.eag e).dom
  | .host p q => some (SMap.get ({} : HostQueue) s.hostq (16 * p + q)).dom
  | .net n => s.net[n]?.map (fun m => m.w.dom)
  | _ => none

/-- The agent for which a packet acts at another module. -/
def packetAgent : PacketOp → Option Asker
  | .read _ _ _ who _ => some who
  | .write _ _ _ who => some who
  | .fill _ _ _ who => some who
  | .clear _ who => some who
  | .line _ _ who => some who
  | .atomic _ _ _ _ _ _ _ _ who => some who
  | _ => none

/-- An agent's work is tagged d (R433); the bytes of a combining buffer, which are performed at their homes whatever becomes of their
issuers, are not. -/
def State.tagged (s : State) (d : BitVec 12) : Asker → Bool
  | .comb _ _ => false
  | who => (s.askedBy who).2 = d

/-- The words of domain d in other domains' rings and in flight are discarded, with its packets that have not left. -/
def State.discardWords (s : State) (d : BitVec 12) : State :=
  let p : Src → Bool := fun x => s.producerDom x = some d
  let s := s.cells.foldl (fun s x => s.modCell x.1 (fun c => (upto 8).foldl (fun c i => c.dropRing i p) c)) s
  let s := { s with net := s.net.filter (fun m => m.w.dom ≠ d) }
  let keep : PacketOp → Bool := fun x => match x with
    | .words _ _ _ ws => ws.all (fun w => w.dom ≠ d)
    | op => !(packetAgent op).any (s.tagged d)
  let outs := s.carrier.outs.map (fun x => (x.1, { x.2 with waiting := x.2.waiting.filter keep }))
  { s with carrier := { s.carrier with outs } }

/-- The copy commands, EAG streams with their windows, deferred reads and exchange groups of domain d are cancelled. Bytes already
written stay written. -/
def State.cancelEngines (s : State) (d : BitVec 12) : State :=
  let s := s.dropAsks (s.tagged d)
  let s := s.blocks.foldl (fun s x =>
    let b := s.block x.1
    let s := if (b.copyq ++ b.running).any (fun m => m.dom = d && m.leave ≠ 0) then s.giveLeave x.1 .copy else s
    let b := s.block x.1
    s.setBlock x.1 { b with
      copyq := b.copyq.filter (fun m => m.dom ≠ d)
      running := b.running.filter (fun m => m.dom ≠ d) }) s
  let s := s.eags.foldl (fun s x => if x.2.dom = d then s.setEag x.1 {} else s) s
  s.carrier.xgroups.foldl (fun s x =>
    if (upto x.2.np).any (fun j => (s.agentCell x.2 j).any (fun k => (s.cell k).ident.dom = d)) then s.setXgroup x.1 {} else s) s

/-- Termination of domain d (R438). Its host queues are unbound, its circuits are released, and its loads that have not started are
gone. -/
def State.terminate (s : State) (d : BitVec 12) : State :=
  let s := s.setDom d 4
  let ks := (s.cells.filter (fun x => x.2.ident.dom = d && x.2.st ≠ .free)).map (fun x => x.1)
  let s := ((s.discardWords d).cancelEngines d).freeCircuits (fun t => t.1 = d)
  let s := s.releaseCells ks
  let graphs := s.carrier.svc.graphs.map (fun x => (x.1, if x.2.dom = d then { x.2 with torn := true } else x.2))
  let s := { s with hostq := s.hostq.map (fun x : Nat × HostQueue =>
    (x.1, if x.2.bound && x.2.dom = d then { x.2 with bound := false, ents := [] } else x.2)) }
  let waiting := s.carrier.svc.waiting.filter (fun x => x.2.dom ≠ d)
  { s with carrier := { s.carrier with svc := { s.carrier.svc with graphs, waiting } } }

/-- An uncorrectable error in a structure tagged dom that is not a data word (R437). -/
def execTaggedStructureError (dom : BitVec 12) (s : State) : Host.Outcome State Fault Refusal := .next (s.terminate dom)

/-! ### Parking for a cut, and resuming (R429, R449, R450, R453) -/

/-- A running copy of block b has nothing left to move but words that wait for a fill, deferred at their tile or refused by its full
table (R450). -/
def State.copyStuck (s : State) (b : Nat) (m : CopyCmd) : Bool :=
  (decide (m.size ≤ m.checked) || m.stop.isSome) && !m.ended &&
  (upto m.limit).all (fun w => m.fin.has w ||
    (match SMap.find m.words w with
    | some (.nacked n) => decide (0 < n)
    | some (.asked _) => s.deferred.any (fun t => t.2.any (fun x => x.2 = .ask (m.who b w)))
    | _ => false))

/-- A group of the strip has all its joins and has not formed (R369). -/
def State.toForm (s : State) (st : Nat) : Bool := (s.joins st (s.stripMat st).next).length = 8

/-- No gang of the strip is formed, or has all its joins (R384, R385). -/
def State.stripQuiet (s : State) (st : Nat) : Bool := (s.stripMat st).groups.isEmpty && !s.toForm st

/-- No store of cell k stands in its block's combining buffer. -/
def State.combEmpty (s : State) (k : Nat) : Bool := (s.block (blockOf k)).comb.all (fun e => e.by_.all (fun x => x.cell ≠ k))

/-- The items that R450 marks "Completed" are complete. -/
def State.settled (s : State) (k : Nat) : Bool :=
  let c := s.cell k
  let b := blockOf k
  c.vec.queue.isEmpty && c.vec.preds.isEmpty && c.calls.isEmpty && c.ptests.isEmpty && c.eagReads.isEmpty &&
  c.accs.all Access.waitsFill && s.combEmpty k &&
  (s.block b).copyq.all (fun m => m.cell ≠ k) &&
  (s.block b).running.all (fun m => m.cell ≠ k || s.copyStuck b m) &&
  s.stripQuiet (stripOf k) &&
  c.agents.all (fun x => x.2.st ≠ 3 && x.2.st ≠ 4)

/-- The copy commands of cell k that wait on an empty word are saved with it; their leave is given back. -/
def State.saveCopies (s : State) (k : Nat) : State :=
  let b := blockOf k
  let mine := (s.block b).running.filter (fun m => m.cell = k)
  if mine.isEmpty then s
  else
    let s := if mine.any (fun m => m.leave = 2) then s.giveLeave b .copy else s
    let x := s.block b
    let s := s.setBlock b { x with running := x.running.filter (fun m => m.cell ≠ k) }
    let s := s.dropAsks (fun who => match who with
      | .copy _ a _ _ => a = k
      | _ => false)
    s.modCell k (fun c => { c with savedCopies := mine.map (fun m => { m with leave := 0, words := [] }) })

/-- The cell parks at the end of its wait: one that sleeps at PARK goes on at the index after it when it is resumed; one
that took the default of R449 was idle. A cut cancels the deferred reads, clears QREQ and every QC, retires every popped
word (R451), and is traced. -/
def State.parkNow (s : State) (k : Nat) (why : PCause) : State :=
  let s := if why = .cut then
      let recs := (s.cell k).pendingRecs
      let cut := (s.cell k).qcut
      let s := ((s.saveCopies k).cancelDeferred k).modCell k (fun c => { c.clearCut.retireAll with pendingReads := recs })
      s.trace k 11 (at_ 1 32 ||| cut.zeroExtend 64)
    else s
  let c := s.cell k
  let c := if c.st = .idle then c
    else { c with st := .running, wait := none, step := 0, pc := c.pc + 1, iseq := c.iseq + 1 }
  s.park k c why 0 0

/-- A cell in PARK.CUT or PARK.SELF, or in the default of R449, parks once its items are settled (R450, R460). -/
def execCutParkComplete (cell : Nat) (s : State) : Host.Outcome State Fault Refusal :=
  match (s.cell cell).parkWait with
  | some why => .next (if s.settled cell && (s.cell cell).st ≠ .parked then s.parkNow cell why else s)
  | none => .next s

/-- The page of va in the pager's table, for a read that is issued again. -/
def State.pageOf (s : State) (va : Nat) : Option Page := s.pages.find? (fun p => p.holds va && pValid p.entry)

/-- The pending reads and saved copies of a cut are issued again (R450, R453). -/
def State.reissue (s : State) (k : Nat) : State :=
  let c := s.cell k
  let s := s.setCell k { c with pendingReads := [], savedCopies := [] }
  let s := c.pendingReads.foldl (fun s r =>
    match s.pageOf r.va with
    | some p =>
      let x : Access := ⟨.ldf, r.va, p.addr r.va, r.size, r.sx, false, 0, 0, r.d, Val.zero, Val.zero, r.tok, .sent,
        pKind p.entry, pDom p.entry⟩
      s.modCell k (fun c => { c with accs := c.accs ++ [x] })
    | none => s.asyncFail k r.d r.tok causeTrans (ofNat r.va)) s
  let b := s.block (blockOf k)
  if c.savedCopies.isEmpty then s
  else s.setBlock (blockOf k) { b with copyq := b.copyq ++ c.savedCopies.map (fun m => { m with cell := k }) }

/-- Every head buffer is loaded again from its ring (R430). -/
def Cell.reload (c : Cell) : Cell :=
  (upto 8).foldl (fun c i => (c.setIn i { c.inEp i with hb := [] }).refill i) c

/-- A parked cell takes up the state held before parking (R167, R429): the instruction at the saved PC of a task issues
anew, and a sleeping task sleeps on. The firing is a replay firing as CCTL.RPL says. Posts that are in POSTED or GRANTING are sent again (R450). -/
def State.resumeCell (s : State) (k : Nat) (rpl : Bool) : State :=
  let c := s.cell k
  if c.st = .parked then
    let c := c.reload
    let c := { c with
      st := c.heldSt
      wait := if c.heldSt = .asleep then c.wait else none
      step := if c.heldSt = .asleep then c.step else 0
      rplReg := rpl
      rpl
      sinkPending := false
      readyAt := max c.readyAt s.now
      agents := c.agents.map (fun x => (x.1, if x.2.st = 1 ∨ x.2.st = 2 then { x.2 with arrived := false } else x.2)) }
    (s.setCell k c).reissue k
  else s

/-- Row-manager write of CCTL.PARK (R429): an idle cell parks at once, a running or sleeping one at its next instruction
boundary. -/
def State.askPark (s : State) (k : Nat) : State :=
  let c := s.cell k
  match c.st with
  | .idle => s.park k c .rmPark 0 0
  | .running => s.setCell k { c with rmParkReq := true }
  | .asleep => s.setCell k { c with rmParkReq := true }
  | _ => s

def execCctlPark (cell : Nat) (s : State) : Host.Outcome State Fault Refusal := .next (s.askPark cell)

/-- Row-manager write of CCTL.RESUME, with CCTL.RPL (R429). -/
def execCctlResume (cell : Nat) (rpl : Bool) (s : State) : Host.Outcome State Fault Refusal :=
  .next (s.resumeCell cell rpl)

/-- The engine entries that the parked cell's task issued are complete (R444). -/
def State.enginesDone (s : State) (k : Nat) : Bool :=
  let c := s.cell k
  c.copies.isEmpty && c.vec.queue.isEmpty && c.vec.preds.isEmpty && c.mat.entries.isEmpty &&
  c.accs.all Access.waitsFill

/-- Every slot becomes IDLE and the pending fault records are discarded (R429, R444). -/
def Cell.dropFaults (c : Cell) : Cell := { c with slots := [], faults := [], heldFault := none }

/-- The running task of a parked cell is abandoned (R429); the abort waits for the engine entries of the task. -/
def State.abort (s : State) (k : Nat) : State :=
  let c := s.cell k
  if c.st ≠ .parked then s
  else if s.enginesDone k = false then s.setCell k { c with abortReq := true }
  else
    let s := s.dropDeferred k
    let c := ((s.cell k).dropFaults.retireAll).reload
    s.setCell k { c with
      st := .idle, heldSt := .idle, wait := none, step := 0, abortReq := false, bpSkip := false
      rpl := false, nonReplay := false, sinkPending := false, busy := [], parkWait := none
      ckpt := { c.ckpt with pops := [] }
      outs := c.outs.map (fun x => (x.1, { x.2 with hseq := 0 }))
      sys := { c.sys with wde := false, intrap := false, entry := 31 } }

/-- The requested park takes effect between two instructions (R170); an abort that waited for the engine entries of the task takes
effect once they are complete (R429). -/
def execRmParkEffect (cell : Nat) (s : State) : Host.Outcome State Fault Refusal :=
  let c := s.cell cell
  if c.abortReq then .next (s.abort cell) else
  if c.rmParkReq ∧ (c.st = .running ∨ c.st = .asleep) then .next (s.park cell c .rmPark 0 0) else .next s

/-- Row-manager write of CCTL.ABORT (R429). -/
def execCctlAbort (cell : Nat) (s : State) : Host.Outcome State Fault Refusal := .next (s.abort cell)

/-! ### Sink replays (R444) -/

/-- The streams from which the firing popped since the checkpoint: port, producer, and the first sequence number popped. -/
def Cell.firstPops (c : Cell) : List (Nat × Src × BitVec 32) :=
  c.ckpt.pops.foldl (fun ps x =>
    if ps.any (fun y => y.1 = x.1 && y.2.1 = x.2.src) then ps else ps ++ [(x.1, x.2.src, x.2.seq)]) []

/-- The checkpoint is restored (R442, R444). The words popped since then are no longer the firing's: they are redelivered. -/
def Cell.restore (c : Cell) : Cell :=
  let p := c.ckpt
  let ins := c.ins.map (fun x =>
    let n := (p.pops.filter (fun y => y.1 = x.1)).length
    (x.1, { x.2 with res := SMap.get none p.res x.1, popped := x.2.popped.take (x.2.popped.length - n) }))
  { c.dropFaults with
    pc := p.pc, g := p.g, ins, sems := p.sems, busy := []
    vec := { c.vec with vl := p.vl }
    sys := { c.sys with loop := p.loop, lfsr := p.lfsr, flags := p.flags, rm := p.rm, entry := p.entry, intrap := p.intrap }
    ckpt := { p with pops := [] } }

/-- HSEQ takes SEQ, and SEQ the checkpointed value, at every outbound endpoint. -/
def Cell.rewindOuts (c : Cell) (seqs : SMap (BitVec 32)) : Cell :=
  (upto 8).foldl (fun c j =>
    let e := c.outEp j
    c.setOut j { e with hseq := e.seq, seq := SMap.get 0 seqs j }) c

/-- The row manager acts on the sink discard of a parked cell (R444). It waits until the firing's engine entries are
complete and the rewind table has room. -/
def State.onSink (s : State) (k : Nat) : State :=
  let c := s.cell k
  if c.nonReplay ∨ 2 ≤ c.replays then s.terminate c.ident.dom
  else
    let pops := c.firstPops
    if s.enginesDone k = false ∨ 16 < c.rewinds.length + pops.length then s
    else
      let s := s.dropDeferred k
      let c := (s.cell k).restore
      let c := c.rewindOuts c.ckpt.seqs
      let s := s.setCell k c
      let s := pops.foldl (fun s x => s.rewind k x.1 x.2.1 x.2.2 (s.producerSeq x.2.1)) s
      s.modCell k (fun c =>
        let c := c.reload
        { c with
          st := .running, wait := none, step := 0, rplReg := true, rpl := true, bpSkip := false, replays := c.replays + 1, sinkPending := false
          nonReplay := false, readyAt := s.now })

/-- The row manager acts on a sink discard (R444). -/
def execSinkReplay (cell : Nat) (s : State) : Host.Outcome State Fault Refusal :=
  let c := s.cell cell
  if c.st = .parked ∧ c.pcause = .sink ∧ c.sinkPending then .next (s.onSink cell) else .next s

/-! ### Reattachment (R431) -/

/-- The SEQSYNC word of an outbound endpoint (R120). -/
def Cell.syncWord (c : Cell) (i : Nat) : QWord :=
  let e := c.outEp i
  ⟨at_ 6 56 ||| at_ c.ident.unit.toNat 32 ||| e.seq.zeroExtend 64, false, 7, c.ident.unit, e.seq, 0, 0, c.ident.dom, e.odom⟩

/-- Consumer n of OUT[i] of cell k is reattached: DET clears, and a SEQSYNC word goes ahead of the next word pushed. -/
def State.reattachOne (s : State) (k i n : Nat) : State :=
  let c := s.cell k
  let e := c.outEp i
  let d := e.dstOf n
  let s := s.setCell k (c.setOut i { e with det := setBit e.det n false })
  if dstModule d = s.modNo then
    { s with net := s.net ++ [⟨dstCell d, BitVec.ofNat 3 (dstPort d), c.syncWord i, some (k, i)⟩] }
  else s.sendPacket (dstModule d).toNat e.prio (.words (dstCell d) (dstPort d) (.sync k i) [c.syncWord i])

/-- Row-manager write of ORA (R431): it takes effect for the consumers named whose DET is set, and only while the consumer's
domain is RUNNING in the consumer's row; none where it is discarded. -/
def State.writeOra (s : State) (cell port : Nat) (mask : BitVec 8) : Option State :=
  let e := (s.cell cell).outEp port
  let ns := bitsOf (mask &&& e.det) 8
  let ok (n : Nat) : Bool :=
    let d := e.dstOf n
    dstModule d ≠ s.modNo || (s.row (yOf (dstCell d))).domState e.odom.toNat = 1
  if ns.all ok then some (ns.foldl (fun s n => s.reattachOne cell port n) s) else none

/-- The address of an offset of a cell's page in its row manager's window (R425). -/
def cellPage (k off : Nat) : Nat := 0x40000000 + 0x40000 * xOf k + off

/-- A write to the page of cell k is discarded and recorded (R430, R431). -/
def State.refuseCellWrite (s : State) (row k off : Nat) : State :=
  s.record row 9 (s.cell k).ident.dom k 0 (ofNat (cellPage k off))

/-- A write of ORA by the row's own manager (R431). -/
def execOraReattach (cell port : Nat) (mask : BitVec 8) (s : State) : Host.Outcome State Fault Refusal :=
  .next ((s.writeOra cell port mask).getD (s.refuseCellWrite (yOf cell) cell (0x32300 + 8 * port)))

end Sys2Proof.Machine
end

