-- ==== Sys2Proof/Machine/Fetch.lean ====
section
/-! DEFINITION. What a turn of the machine runs (log entry 6): the instruction that a cell fetches (R54), and what a turn
does where nothing is fetched. -/

namespace Sys2Proof.Machine

open Sys2Proof

/-- The clocks of the module do not run at clk t: it has no power, it is frozen, or they stop before t (R485, R493). -/
def State.halted (s : State) (t : Nat) : Bool :=
  !s.carrier.pwr.on || s.frozen || s.carrier.dbg.stopAt.any (fun f => decide (f < t))

/-- The operations that act on a module whose clocks have stopped: those of the freeze tree, of the TAP and of the supply (R426,
R494, R495). -/
def clockless : Instr → Bool
  | .freezeStop | .extest | .idcode | .samplePreload | .mdlsel _ | .mdlread | .mdllanes _ | .mdlresume | .bypass
  | .powerFailure => true
  | _ => false

/-- The operation can take place: without power nothing but its return does. -/
def State.admits (s : State) (i : Instr) : Bool :=
  match i with
  | .powerOn _ => true
  | i => s.carrier.pwr.on && (clockless i || !s.halted s.now)

/-- The current cell fetches: it runs, or its sleeping task tries its instruction again (R24), and the clocks still run when the
instruction would issue. -/
def State.fetches (s : State) : Bool :=
  !s.halted (max s.now (s.cell s.cur).readyAt) && ((s.cell s.cur).st = .running || (s.cell s.cur).st = .asleep)

/-- n clk pass, as far as the clocks run. -/
def State.passClk (s : State) (n : Nat) : State :=
  if s.halted s.now then s
  else
    match s.carrier.dbg.stopAt with
    | some f => s.pass (min n (f + 1 - s.now))
    | none => s.pass n

/-- The fetch is within the instruction store (R54). -/
def State.fetchInside (s : State) : Bool := decide ((s.cell s.cur).pc < 2048)

/-- The instruction that the current cell fetches. -/
def State.fetched (s : State) : Instr := decodeWord (s.fetchWord s.cur)

/-- A turn of a cell that fetches nothing: one clk passes (R167). -/
def State.idleTurn (s : State) : State := s.passClk 1

/-- The turn taken off the schedule. -/
def State.takeTurn (s : State) (rest : List Turn) : State := { s with sched := rest }

/-- The command or TAP operation that an instruction shorter than 64 bits stands for is the next turn; a word of 64 bits
is the next instruction of the current cell, which runs entry 0 from the instruction-store word at its PC (log entry 6). -/
def State.placeWord (s : State) (nbits w : Nat) : State :=
  if nbits = 64 then
    let c := s.cell s.cur
    { s.setCell s.cur { c.setCode c.pc (BitVec.ofNat 64 w) with
        st := .running, wait := none, sys := { c.sys with entry := 0 } } with sched := [] }
  else
    match decodeTableWord nbits w with
    | some i => { s with sched := [.op i] }
    | none => s

end Sys2Proof.Machine
end

