-- ==== Sys2Proof/Machine/Hart.lean ====
section
/-! DEFINITION. The state of a row manager's core (R424): its interrupt lines, its machine-mode registers, its physical memory protection
and how it takes a trap. R7 names RV64GC, Zicsr and Zifencei without restating them: what they say is taken from the RISC-V manuals (log
entry 63). -/

namespace Sys2Proof.Machine

open Sys2Proof

def State.setHart (s : State) (y : Nat) (h : Hart) : State := s.setRow y { s.row y with hart := h }

def Hart.reg (h : Hart) (n : Nat) : Word := if n = 0 then 0 else SMap.get 0 h.x n
def Hart.setReg (h : Hart) (n : Nat) (v : Word) : Hart := if n = 0 then h else { h with x := SMap.put h.x n v }
def Hart.freg (h : Hart) (n : Nat) : Word := SMap.get 0 h.f n

/-- mstatus.FS is Dirty once a floating-point register has been written. -/
def Hart.setFreg (h : Hart) (n : Nat) (v : Word) : Hart := { h with f := SMap.put h.f n v, mstatus := h.mstatus ||| at_ 3 13 }

/-! ### Time and interrupts (R424, R432, R456) -/

/-- mtime counts ns; a clk is 0.625 ns. -/
def State.mtime (s : State) (h : Hart) : Word := ofNat (s.now * 5 / 8) + h.timeBase

/-- Row manager y serves row r: its own, or a row that it has taken over. -/
def State.serves (s : State) (y r : Nat) : Bool := (s.row r).takenBy.getD r = y

/-- mip: the external interrupt while a fault queue that the row manager serves is not empty, the timer and the software interrupt. -/
def State.mip (s : State) (y : Nat) : Word :=
  let h := (s.row y).hart
  let ext := [y - 1, y, y + 1].any (fun r => s.serves y r && !(s.row r).fq.isEmpty)
  at_ (b2n ext) 11 ||| at_ (b2n (decide (uns h.mtimecmp ≤ uns (s.mtime h)))) 7 ||| at_ (b2n h.msip) 3

/-- The interrupt that the core takes now: external, then software, then timer. -/
def State.interrupt (s : State) (y : Nat) : Option Nat :=
  let h := (s.row y).hart
  let p := s.mip y &&& h.mie
  if h.machine && !h.mstatus.getLsbD 3 then none
  else if p.getLsbD 11 then some 11
  else if p.getLsbD 3 then some 3
  else if p.getLsbD 7 then some 7
  else none

/-! ### The core's own memory and timer (R425) -/

/-- The timer and software-interrupt registers. -/
def State.timerWord (s : State) (y o : Nat) : Word :=
  let h := (s.row y).hart
  match o with
  | 0 => at_ (b2n h.msip) 0
  | 0x4000 => h.mtimecmp
  | 0xBFF8 => s.mtime h
  | _ => 0

def State.setTimer (s : State) (y o : Nat) (v : Word) : State :=
  let h := (s.row y).hart
  match o with
  | 0 => s.setHart y { h with msip := v.getLsbD 0 }
  | 0x4000 => s.setHart y { h with mtimecmp := v }
  | 0xBFF8 => s.setHart y { h with timeBase := h.timeBase + (v - s.mtime h) }
  | _ => s

def sramBase : Nat := 0x1000000
def inSram (a n : Nat) : Bool := decide (sramBase ≤ a) && decide (a + n ≤ 0x1200000)

/-- An aligned word of the boot ROM, the SRAM or the timer and software-interrupt registers; none at an address of another region. -/
def State.ownWord (s : State) (y a : Nat) : Option Word :=
  if a < 0x10000 then some ((upto 8).foldl (fun v j => v ||| at_ (Config.bootRom (a + j)).toNat (8 * j)) 0)
  else if inSram a 8 then some (ofNat ((s.row y).hart.sram.read (a - sramBase) 8))
  else if 0x2000000 ≤ a ∧ a < 0x2010000 then some (s.timerWord y (a - 0x2000000))
  else none

/-- A write of an aligned word of the SRAM or of the timer and software-interrupt registers; none at another address: the boot ROM takes
no store. -/
def State.setOwnWord (s : State) (y a : Nat) (v : Word) : Option State :=
  if inSram a 8 then
    let h := (s.row y).hart
    some (s.setHart y { h with sram := h.sram.write (a - sramBase) 8 (uns v) })
  else if 0x2000000 ≤ a ∧ a < 0x2010000 then some (s.setTimer y (a - 0x2000000) v)
  else none

/-! ### Traps -/

/-- The mstatus bits that software writes: MIE, MPIE, MPP, FS, MPRV and TW; MPP holds machine or user mode. -/
def mstatusOf (v : Word) : Word :=
  (v &&& (at_ 1 3 ||| at_ 1 7 ||| at_ 3 13 ||| at_ 1 17 ||| at_ 1 21)) ||| (if field v 11 2 = 3 then at_ 3 11 else 0)

/-- mstatus as it reads: with UXL and SD. -/
def Hart.status (h : Hart) : Word := h.mstatus ||| at_ 2 32 ||| at_ (b2n (decide (field h.mstatus 13 2 = 3))) 63

/-- The core takes a trap: an exception, or with `irq` an interrupt. -/
def Hart.trap (h : Hart) (irq : Bool) (cause : Nat) (tval : Word) : Hart :=
  let st := (h.mstatus &&& ~~~(at_ 1 3 ||| at_ 1 7 ||| at_ 3 11)) ||| at_ (b2n (h.mstatus.getLsbD 3)) 7 ||| (if h.machine then at_ 3 11 else 0)
  let base := h.mtvec &&& ~~~3#64
  { h with
    mepc := h.pc, mcause := at_ (b2n irq) 63 ||| ofNat cause, mtval := tval, mstatus := st, machine := true, reserved := none
    pc := if irq && h.mtvec.getLsbD 0 then base + ofNat (4 * cause) else base }

/-- MRET. -/
def Hart.mret (h : Hart) : Hart :=
  let m := decide (field h.mstatus 11 2 = 3)
  let st := (h.mstatus &&& ~~~(at_ 1 3 ||| at_ 3 11)) ||| at_ (b2n (h.mstatus.getLsbD 7)) 3 ||| at_ 1 7
  { h with mstatus := if m then st else st &&& ~~~(at_ 1 17), machine := m, pc := h.mepc }

/-- A row manager's core takes an exception. -/
def State.hartTrap (s : State) (y cause : Nat) (tval : Word) : State := s.setHart y ((s.row y).hart.trap false cause tval)

/-! ### Physical memory protection -/

/-- The range of PMP entry i, start and end; none where it is off. -/
def Hart.pmpRange (h : Hart) (i : Nat) : Option (Nat × Nat) :=
  let a := uns (SMap.get 0 h.pmpaddr i)
  match field (SMap.get 0 h.pmpcfg i) 3 2 with
  | 0 => none
  | 1 => some (if i = 0 then 0 else 4 * uns (SMap.get 0 h.pmpaddr (i - 1)), 4 * a)
  | 2 => some (4 * a, 4 * a + 4)
  | _ =>
    let ones := ((upto 54).find? (fun j => a / 2 ^ j % 2 = 0)).getD 54
    some (4 * (a / 2 ^ ones * 2 ^ ones), 4 * (a / 2 ^ ones * 2 ^ ones) + 2 ^ (ones + 3))

/-- An access of n bytes at a, to read (0), write (1) or execute (2), in machine mode or user mode. -/
def Hart.pmpOk (h : Hart) (machine : Bool) (a n kind : Nat) : Bool :=
  match (upto 16).find? (fun i => (h.pmpRange i).any (fun r => decide (r.1 < a + n) && decide (a < r.2))) with
  | none => machine
  | some i =>
    let c := SMap.get 0 h.pmpcfg i
    (h.pmpRange i).any (fun r => decide (r.1 ≤ a) && decide (a + n ≤ r.2)) &&
      ((machine && !c.getLsbD 7) || c.getLsbD kind)

end Sys2Proof.Machine
end

