-- ==== Sys2Proof/Machine/Calls.lean ====
section
/-! DEFINITION. Calls and replies of the resident services (R464 to R471, R480): what a service sees of a call, the order in
which calls run at a service unit, and the reply. -/

namespace Sys2Proof.Machine

open Sys2Proof

/-! ### Status codes (R467) -/

def svFunc : Nat := 1
def svArg : Nat := 2
def svNoMem : Nat := 3
def svPerm : Nat := 4
def svRecord : Nat := 5
def svExhaust : Nat := 6

/-- A call as its service unit sees it. -/
structure Request where
  id : CallId
  header : Word
  arg : Word
  stamp : Nat
  mail : Bool

def Request.svcn (x : Request) : Nat := field x.header 59 5
def Request.func (x : Request) : Nat := field x.header 51 8
def Request.dtag (x : Request) : Nat := field x.header 35 16
def Request.es (x : Request) : Nat := field x.header 32 3
def Request.cell (x : Request) : Nat := field x.header 14 18
/-- The domain that the header names. -/
def Request.dom (x : Request) : BitVec 12 := x.header.extractLsb' 2 12
/-- The domain with whose authority the call runs (R468, R480). -/
def Request.auth (x : Request) : BitVec 12 := if x.mail then 0 else x.dom

/-- The units of the node of a service (R464). -/
def serviceUnits (svcn : Nat) : Nat := if svcn = 1 then 256 else 64

/-- The node and the unit that serve a call (R465, R480): a mailbox call goes to loader unit 0. -/
def Request.place (x : Request) : Nat × Nat :=
  if x.mail then (2, 0) else (x.svcn, (31 * x.dom.toNat + x.dtag) % serviceUnits x.svcn)

/-- A FUNC that R471 lists for a service. -/
def assignedFunc (svcn func : Nat) : Bool :=
  match svcn with
  | 0 => decide (func < 3)
  | 1 => decide (func < 3)
  | 2 => decide (func < 8)
  | 3 => decide (func < 3)
  | 4 => decide (func < 2)
  | _ => false

def State.host (s : State) (p : Nat) : HostPort := SMap.get {} s.carrier.hosts p
def State.setHost (s : State) (p : Nat) (x : HostPort) : State :=
  { s with carrier := { s.carrier with hosts := SMap.put s.carrier.hosts p x } }
def State.modSvc (s : State) (f : Services → Services) : State :=
  { s with carrier := { s.carrier with svc := f s.carrier.svc } }

/-! ### The calls at the service units -/

/-- The calls that have reached a service unit and have no reply. -/
def State.requests (s : State) : List Request :=
  s.cells.flatMap (fun x => x.2.calls.filterMap (fun q => match q.stamp, q.reply with
    | some t, none => some ⟨.cell x.1 q.tok.seq, q.header, q.arg, t, false⟩
    | _, _ => none)) ++
  s.carrier.hosts.flatMap (fun x => x.2.mail.map (fun m => Request.mk (.mailbox x.1 m.n) m.header m.arg m.stamp true))

def State.request (s : State) (id : CallId) : Option Request := s.requests.find? (fun x => x.id = id)

/-- No earlier call of the same domain with equal DTAG is unanswered at the unit (R469). -/
def State.callTurn (s : State) (x : Request) : Bool :=
  s.requests.all (fun y => decide (x.stamp ≤ y.stamp) || y.place ≠ x.place || y.dom ≠ x.dom || y.dtag ≠ x.dtag)

/-! ### Replies (R466) -/

/-- Word 0 of a reply. -/
def replyWord (x : Request) (status : Nat) : Word := at_ status 48 ||| at_ x.es 32 ||| at_ x.cell 14

/-- The side word of word n of a mailbox reply. -/
def replySide (seq : BitVec 32) (last : Bool) : Word :=
  at_ (seq.toNat % 2 ^ 16) 30 ||| at_ (b2n (!last)) 20 ||| at_ (if last then 3 else 1) 4

/-- The service replies; the value is 0 when STATUS is not. A mailbox call is answered on outbound ring 15 of its port. -/
def State.reply (s : State) (x : Request) (status : Nat) (value : Word) : State :=
  let value := if status = 0 then value else 0
  let s := s.modSvc (fun v => { v with latched := v.latched.filter (fun y => y.1 ≠ x.id) })
  match x.id with
  | .cell k n =>
    s.modCell k (fun c => { c with
      calls := c.calls.map (fun q => if q.tok.seq = n then { q with reply := some (ofNat status, value) } else q) })
  | .mailbox p n =>
    let h := s.host p
    s.setHost p { h with
      mail := h.mail.filter (fun m => m.n ≠ n)
      replies := h.replies ++ [(15, replyWord x status, replySide h.replySeq false, 0),
        (15, value, replySide (h.replySeq + 1) true, 0)]
      replySeq := h.replySeq + 2 }

/-- What a service does with a call: it replies, or it has done a part and replies later. -/
inductive Answer where
  | reply (s : State) (status : Nat) (value : Word)
  | later (s : State)

/-- A service function runs on a call of its SVCN and FUNC whose turn it is: a function of domain 0 only, and the argument
fields that must be zero, are checked first (R468, R469, R471). -/
def serve (id : CallId) (svcn func : Nat) (only0 : Bool) (argOk : Word → Bool) (body : State → Request → Answer)
    (s : State) : Host.Outcome State Fault Refusal :=
  match s.request id with
  | none => .next s
  | some x =>
    if x.svcn ≠ svcn ∨ x.func ≠ func ∨ s.callTurn x = false then .next s
    else if only0 ∧ x.auth ≠ 0 then .next (s.reply x svPerm 0)
    else if argOk x.arg = false then .next (s.reply x svArg 0)
    else
      match body s x with
      | .reply s' status value => .next (s'.reply x status value)
      | .later s' => .next s'

/-- The gate of the calling cell's row, once the service graph runs, forwards the call to its service unit; the calls of one
cell go in issue order (R464, R465, R469). -/
def execGateForward (call : CallId) (s : State) : Host.Outcome State Fault Refusal :=
  match call with
  | .mailbox _ _ => .next s
  | .cell k n =>
    let c := s.cell k
    match c.calls.find? (fun q => q.stamp = none) with
    | some q =>
      if q.tok.seq = n ∧ s.carrier.svc.running then
        let t := s.carrier.svc.stamp
        let s := s.setCell k { c with
          calls := c.calls.map (fun x => if x.tok.seq = n then { x with stamp := some t } else x) }
        .next (s.modSvc (fun v => { v with stamp := t + 1 }))
      else .next s
    | none => .next s

/-- A call with a FUNC that is not assigned for its service is refused with SV_FUNC (R471). -/
def execServiceBadFunc (call : CallId) (s : State) : Host.Outcome State Fault Refusal :=
  match s.request call with
  | none => .next s
  | some x =>
    if assignedFunc x.svcn x.func = false ∧ s.callTurn x then .next (s.reply x svFunc 0) else .next s

end Sys2Proof.Machine
end

