-- ==== Sys2Proof/Machine/Tiles.lean ====
section
/-! DEFINITION. The memory tiles (R268 to R287): reads, stores, fills, clears and atomics at a word's home, the block's
combining buffer (R141), deferred reads and retries (R276, R277), rebuilds (R272, R273), the pager's side of translation
(R138 to R140, R473), host-shared regions (R142 to R146), and the reply of an access at its cell (R154, R281). -/

namespace Sys2Proof.Machine

open Sys2Proof

/-! ### Atomics (R286, R287) -/

/-- The new value of an atomic on a size-byte word, with the flags of an AFADD; ALD leaves the word. -/
def atomicNew (kind : AccKind) (size : Nat) (sgn : Bool) (mode : BitVec 3) (rnd : BitVec 32) (old b c : Nat) : Nat × Flags :=
  let w := 2 ^ (8 * size)
  let b := b % w
  let t : ITy := ⟨8 * size, sgn⟩
  match kind with
  | .aadd => ((old + b) % w, 0)
  | .afadd =>
    let f := if size = 4 then Fmt.f32 else Fmt.f64
    let (v, invalid) := Num.add mode (f.decode old) (f.decode b)
    let (n, fl) := roundTo f mode false rnd v
    (n, fl ||| f.snanFlag [old, b] ||| (if invalid then Flags.nv else Flags.none))
  | .amin => (if t.val b < t.val old then b else old, 0)
  | .amax => (if t.val old < t.val b then b else old, 0)
  | .axchg => (b, 0)
  | .acas => (if old = c % w then b else old, 0)
  | .aor => (old ||| b, 0)
  | .aand => (old &&& b, 0)
  | _ => (old, 0)

/-- The atomic of an opcode (R286). -/
def atomicOf (op : BitVec 8) : AccKind :=
  match op.toNat with
  | 0x76 => .aadd
  | 0x77 => .afadd
  | 0x78 => .amin
  | 0x79 => .amax
  | 0x7A => .axchg
  | 0x7B => .acas
  | 0x7C => .aor
  | 0x7D => .aand
  | _ => .ald

/-- An atomic or ALD on the size bytes at address a: the state, the old value with its poison bit, and the flags, which a
poisoned result does not set (R103). -/
def State.atomicAt (s : State) (kind : AccKind) (a size : Nat) (sgn : Bool) (mode : BitVec 3) (rnd : BitVec 32)
    (b c : Word) : State × Val × Flags :=
  let old := s.part a size
  let (n, fl) := atomicNew kind size sgn mode rnd old.v.toNat b.toNat c.toNat
  (if kind = .ald then s else s.gwrite a size n old.p, old, if old.p then Flags.none else fl)

/-! ### An access is performed at its home tile -/

/-- The access has its value, or its fault, and the tile's watchpoint has looked at it. -/
def State.finish (s : State) (k : Nat) (x : Access) (rd wr : Bool) (st : AccStatus) : State :=
  (s.setAccess k x.tok.seq st).tileWatch (x.pa % 2 ^ 50) x.size rd wr k (s.cell k).ident.dom

/-- A CLRF clears the presence bit and leaves the word (R278, R285). -/
def State.clearWord (s : State) (a : Nat) : State :=
  { s.setPresent a false with dirty := s.dirty.put (a / 0x10000) true }

/-- Access x of cell k, NACKed n times so far, takes effect at its home tile on this module (R278, R283 to R286). -/
def State.performAcc (s : State) (k : Nat) (x : Access) (n : Nat) : State :=
  let a := x.pa % 2 ^ 50
  match x.kind with
  | .ldg => s.finish k x true false (.done (s.part a x.size) 0)
  | .ldf =>
    if s.isPresent a then s.finish k x true false (.done (s.part a x.size) 0)
    else
      match s.defer a (.ask (.cell k x.tok.seq)) n with
      | some s' => s'.setAccess k x.tok.seq .deferred
      | none => s.setAccess k x.tok.seq (.nacked (n + 1))
  | .stg => (s.gwrite a x.size x.data.v.toNat false).finish k x false true (.done Val.zero 0)
  | .stf =>
    let (s', ok) := s.fillWord a x.data.v x.tok.rpl
    s'.finish k x false true (if ok then .done Val.zero 0 else .failed causeFill2)
  | .clrf => (s.clearWord a).finish k x false true (.done Val.zero 0)
  | kind =>
    let (s', old, fl) := s.atomicAt kind a x.size x.sgn x.mode x.rnd x.data.v x.cmp.v
    let s' := s'.finish k x true (kind ≠ .ald) (.done old fl)
    if old.p ∧ kind ≠ .ald ∧ x.pkind = 2 then s'.terminate x.pdom else s'

/-- The page that holds an address of this module. -/
def State.pageAt (s : State) (a : Nat) : Option Page :=
  s.pages.find? (fun p => pValid p.entry && s.own (pAddr p.entry) && decide (pAddr p.entry % 2 ^ 50 ≤ a) &&
    decide (a < pAddr p.entry % 2 ^ 50 + pSize p.entry))

/-- Bytes of a 64-byte line are written at address a of its first: whole words clear their poison bits (R284). -/
def State.writeBytes (s : State) (a : Nat) (bytes : SMap Byte) : State :=
  let w (n : Nat) : List Byte := (upto 8).filterMap (fun j => SMap.find bytes (8 * n + j))
  (upto 8).foldl (fun s n =>
    if (w n).length = 8 then s.gwrite (a + 8 * n) 8 ((w n).foldr (fun b v => b.toNat + 256 * v) 0) false
    else (upto 8).foldl (fun s j =>
      match SMap.find bytes (8 * n + j) with
      | some x => s.gwrite (a + 8 * n + j) 1 x.toNat false
      | none => s) s) s

/-- The access of another module takes effect, and its reply leaves (R395, R399). A read of an empty word takes an entry of its tile's
table, or is NACKed (R277). An operation that is no access is left as it is. -/
def State.performFar (s : State) (m : Nat) (op : PacketOp) : Option State :=
  match op with
  | .read a size once who n =>
    if once && !s.isPresent a then
      some ((s.defer a (.far m op) n).getD (s.sendPacket m (Config.packetVc 3) (.nack who)))
    else some (s.farReply m who 0 (s.part a size) 0)
  | .write a size v who => some ((s.gwrite a size v.toNat false).farReply m who 0 Val.zero 0)
  | .fill a v rpl who =>
    let (s', ok) := s.fillWord a v rpl
    some (s'.farReply m who (if ok then 0 else causeFill2) Val.zero 0)
  | .clear a who => some ((s.clearWord a).farReply m who 0 Val.zero 0)
  | .line a bytes who => some ((s.writeBytes a bytes).farReply m who 0 Val.zero 0)
  | .atomic opc a size sgn mode rnd b c who =>
    let (s', old, fl) := s.atomicAt (atomicOf opc) a size sgn mode rnd b c
    let s' := s'.farReply m who 0 old fl
    match s.pageAt a with
    | some p =>
      some (if old.p ∧ atomicOf opc ≠ .ald ∧ pKind p.entry = 2 then s'.terminate (pDom p.entry) else s')
    | none => some s'
  | _ => none

/-- The address that an access of another module names. -/
def PacketOp.addr : PacketOp → Nat
  | .read a _ _ _ _ => a
  | .write a _ _ _ => a
  | .fill a _ _ _ => a
  | .clear a _ => a
  | .line a _ _ => a
  | .atomic _ a _ _ _ _ _ _ _ => a
  | _ => 0

/-! ### Words that leave the module (R38, R395) -/

/-- An access to another module as a packet; a read says how often it has been refused. -/
def Access.packet (x : Access) (k nacks : Nat) : PacketOp :=
  let a := x.pa % 2 ^ 50
  let who : Asker := .cell k x.tok.seq
  match x.kind with
  | .ldg => .read a x.size false who nacks
  | .ldf => .read a x.size true who nacks
  | .stg => .write a x.size x.data.v who
  | .stf => .fill a x.data.v x.tok.rpl who
  | .clrf => .clear a who
  | _ => .atomic x.tok.opb a x.size x.sgn x.mode x.rnd x.data.v x.cmp.v who

def State.sendAway (s : State) (k nacks : Nat) (x : Access) : State :=
  let op := x.packet k nacks
  (s.setAccess k x.tok.seq (.away nacks)).sendPacket (x.pa / 2 ^ 50) (Config.packetVc (packetKind op)) op

/-! ### Program order at one word (R150) -/

/-- The access has taken its place in the word's order, or holds none. -/
def Access.settled (x : Access) : Bool :=
  match x.status with
  | .done _ _ => true
  | .failed _ => true
  | .deferred => true
  | _ => false

/-- The tile of this module at which an access arrives by the channel of x (R270): the same home tile, in the same module. -/
def Access.sameTile (x y : Access) : Bool :=
  decide (x.pa / 2 ^ 50 = y.pa / 2 ^ 50) && homeTile (x.pa % 2 ^ 50) = homeTile (y.pa % 2 ^ 50)

/-- Every older access of the cell to the word of x has taken its place, where a NACKed read lets a fill of its word pass (R150); and
those to its home tile on this module have arrived there, since a channel delivers its requests in order (R270): a read that has been
NACKed and an access held for an owner do not stand in the channel. -/
def State.inOrder (s : State) (c : Cell) (x : Access) : Bool :=
  c.accs.all (fun y => decide (x.tok.seq ≤ y.tok.seq) || y.settled ||
    (y.pa / 8 ≠ x.pa / 8 && (!(s.own x.pa && x.sameTile y) || y.status ≠ .sent)) || (y.waitsFill && x.kind = .stf))

/-! ### The combining buffer (R141) -/

/-- The n bytes at a, as the entry holds them. -/
def CombEnt.value (e : CombEnt) (a : Nat) : Nat → Nat
  | 0 => 0
  | n + 1 => (SMap.get 0 e.bytes (a % 64)).toNat + 256 * e.value (a + 1) n

/-- The entry with the low n bytes of v at a. -/
def CombEnt.put (e : CombEnt) (a : Nat) : Nat → Nat → CombEnt
  | 0, _ => e
  | n + 1, v => { e.put (a + 1) n (v / 256) with
      bytes := SMap.put (e.put (a + 1) n (v / 256)).bytes (a % 64) (BitVec.ofNat 8 (v % 256)) }

/-- The first entry of a list that has not been sent is sent. -/
def sendOldest : List CombEnt → List CombEnt
  | [] => []
  | e :: es => if e.sent then e :: sendOldest es else { e with sent := true } :: es

/-- A plain store of cell k without a token, homed outside its block, on this module or another, enters the combining buffer: it joins
the entry of its line, unless that has been sent, or takes a new one, for which a full buffer sends its oldest. The store is then held
by the entry. -/
def State.combine (s : State) (k : Nat) (x : Access) : State :=
  let b := blockOf k
  let c := s.cell k
  let bl := s.block b
  let by_ : CombBy := ⟨k, x.tok, x.va⟩
  let drop (s : State) : State := s.setCell k { c with accs := c.accs.filter (fun y => y.tok.seq ≠ x.tok.seq) }
  match s.combEntry b x.pa with
  | some e =>
    if e.sent then s
    else
      let comb := bl.comb.map (fun y =>
        if y.line = x.pa / 64 then { y.put x.pa x.size x.data.v.toNat with by_ := y.by_ ++ [by_] } else y)
      drop (s.setBlock b { bl with comb })
  | none =>
    let e : CombEnt := { no := bl.combNo, line := x.pa / 64, bytes := [], since := s.now, by_ := [by_] }
    let comb := if 64 ≤ (bl.comb.filter (fun y => !y.sent)).length then sendOldest bl.comb else bl.comb
    drop (s.setBlock b { bl with comb := comb ++ [e.put x.pa x.size x.data.v.toNat], combNo := bl.combNo + 1 })

/-- The entry of block b for a line leaves the buffer. -/
def State.dropEntry (s : State) (b line : Nat) : State :=
  let x := s.block b
  s.setBlock b { x with comb := x.comb.filter (fun y => y.line ≠ line) }

/-- A sent entry of block b is performed at its home on this module and leaves the buffer. -/
def State.performEntry (s : State) (b : Nat) (e : CombEnt) : State :=
  let a := 64 * e.line % 2 ^ 50
  let s := (s.dropEntry b e.line).writeBytes a e.bytes
  match e.by_ with
  | x :: _ => s.tileWatch a 64 false true x.cell (s.cell x.cell).ident.dom
  | [] => s

/-- The reply to an entry that left for another module: it leaves the buffer, and a cause is a deferred fault of every store that it
holds (R397, R281). -/
def State.entryReply (s : State) (b line : Nat) (cause : BitVec 8) : State :=
  match (s.block b).comb.find? (fun e => e.line = line) with
  | none => s
  | some e =>
    let s := s.dropEntry b line
    if cause = 0 then s else e.by_.foldl (fun s x => s.fail x.cell x.tok cause (ofNat x.va)) s

/-- What the buffer of the issuing block does to an access: nothing, it serves the read, or it forces an entry out first. -/
inductive CombCase where
  | past
  | serve (v : Nat)
  | force
  deriving DecidableEq, Repr

/-- An LDG whose bytes all lie in the entry is served from it; any other access to a word of which the entry holds a byte forces it out
first, so that the accesses to the word keep their order (R141, R150, R152; log entry 27). -/
def State.combCase (s : State) (k : Nat) (x : Access) : CombCase :=
  match s.combEntry (blockOf k) x.pa with
  | none => .past
  | some e =>
    if x.kind = .ldg ∧ e.holdsAll x.pa x.size ∧ e.sent = false then .serve (e.value x.pa x.size)
    else if e.holdsAny (x.pa / 8 * 8) 8 then .force
    else .past

/-! ### The tile operations -/

/-- Access n of a cell, of the kinds given, reaches its home tile, if it is its turn. A plain store without a token, homed outside the
block, goes to the combining buffer; an access to another module leaves; one to a region that the host holds is held (R143); one to a
group in rebuild waits (R273). `nacks` counts the refusals of a read that is sent again. -/
def tileOp (kinds : AccKind → Bool) (again : Bool) (k n : Nat) (s : State) : Host.Outcome State Fault Refusal :=
  let c := s.cell k
  match c.accs[n]? with
  | none => .next s
  | some x =>
    let nacks : Option Nat := match x.status, again with
      | .sent, false => some 0
      | .nacked m, true => some m
      | _, _ => none
    match nacks with
    | none => .next s
    | some m =>
      let a := x.pa % 2 ^ 50
      if kinds x.kind = false ∨ s.inOrder c x = false then .next s
      else if x.kind = .stg ∧ x.tok.slot = none ∧ (s.own x.pa = false ∨ homeTile a ≠ blockOf k) then .next (s.combine k x)
      else
        match s.combCase k x with
        | .serve v => .next (s.setAccess k x.tok.seq (.done (.clean (ofNat v)) 0))
        | .force => .next (s.forceOut (blockOf k) x.pa)
        | .past =>
          if s.own x.pa = false then .next (s.sendAway k m x)
          else if s.hostHeld a then .next ((s.holdAt a (.ask (.cell k x.tok.seq))).setAccess k x.tok.seq .ownerWait)
          else if s.vaultBusy a then .next s
          else .next (s.performAcc k x m)

/-- A read of a cell reaches its home tile (R283). -/
def execTileRead (cell k : Nat) (s : State) : Host.Outcome State Fault Refusal :=
  tileOp (fun x => x = .ldg || x = .ldf) false cell k s

/-- A store reaches its home tile or the combining buffer (R284, R141); a sent entry of a buffer is performed at its home, or
held there for the region's owner. -/
def execTileWrite (src : TileSrc) (s : State) : Host.Outcome State Fault Refusal :=
  match src with
  | .cell cell k => tileOp (fun x => x = .stg) false cell k s
  | .comb b k =>
    match (s.block b).comb[k]? with
    | none => .next s
    | some e =>
      let pa := 64 * e.line
      let a := pa % 2 ^ 50
      if e.sent = false ∨ e.away then .next s
      else if s.own pa = false then
        let x := s.block b
        .next ((s.setBlock b { x with comb := x.comb.map (fun y => if y = e then { y with away := true } else y) }).sendPacket
          (pa / 2 ^ 50) (Config.packetVc 1) (.line a e.bytes (.comb b e.line)))
      else if ((s.block b).comb.take k).any (fun y => y.sent && s.own (64 * y.line) && homeTile (64 * y.line % 2 ^ 50) = homeTile a) then
        .next s
      else if s.vaultBusy a then .next s
      else if (s.region (regionOf a)).host then .next (s.holdAt a (.ask (.comb b e.line)))
      else .next (s.performEntry b e)

/-- A fill reaches its home tile (R278). -/
def execTileFill (cell k : Nat) (s : State) : Host.Outcome State Fault Refusal :=
  tileOp (fun x => x = .stf) false cell k s

/-- A CLRF reaches its home tile (R285). -/
def execTileClrf (cell k : Nat) (s : State) : Host.Outcome State Fault Refusal :=
  tileOp (fun x => x = .clrf) false cell k s

/-- An atomic or ALD passes the tile's pipeline (R280). -/
def execTileAtomic (cell k : Nat) (s : State) : Host.Outcome State Fault Refusal :=
  tileOp (fun x => x ≠ .ldg && x ≠ .ldf && x ≠ .stg && x ≠ .stf && x ≠ .clrf) false cell k s

/-- A NACKed request is sent again (R277, R439). -/
def execDeferredReadRetry (cell k : Nat) (s : State) : Host.Outcome State Fault Refusal :=
  tileOp (fun _ => true) true cell k s

/-- The reply of an access reaches its cell (R154, R281, R283, R286): the value is written, the flags of an AFADD are ORed
and the token fires, or the fault is deferred. A push that finds no room waits. -/
def execAccessReply (cell k : Nat) (s : State) : Host.Outcome State Fault Refusal :=
  let c := s.cell cell
  match c.accs[k]? with
  | none => .next s
  | some x =>
    let s' := s.setCell cell { c with accs := c.accs.eraseIdx k }
    match x.status with
    | .done v fl =>
      if x.kind.returns then
        let s' := s'.modCell cell (fun c => c.fireFlags s'.now fl)
        .next ((s'.asyncWrite cell x.d ⟨extend x.sx x.size v.v.toNat, v.p⟩ x.tok).getD s)
      else .next (s'.modCell cell (fun c => c.fire x.tok))
    | .failed cause =>
      if x.kind.returns then .next (s'.asyncFail cell x.d x.tok cause (ofNat x.va))
      else .next (s'.fail cell x.tok cause (ofNat x.va))
    | _ => .next s

/-- The oldest entry that a combining buffer still holds is sent (R141). -/
def execCombineFlushTimeout (block : Nat) (s : State) : Host.Outcome State Fault Refusal :=
  let x := s.block block
  .next (s.setBlock block { x with comb := sendOldest x.comb })

/-! ### Rebuilds (R272 to R274) -/

/-- MTSTAT with an n-bit count at bit lo one higher, saturating. -/
def countUp (w : Word) (lo n : Nat) : Word := if field w lo n = 2 ^ n - 1 then w else w + at_ 1 lo

/-- Another row of a group fails in byte lane b of word w. -/
def otherFails (us : SMap Upset) (w b : Nat) : Bool := us.any (fun x => x.1 ≠ w && x.2.lanes.contains b)

/-- What the recovery engine makes of word w of a group with these upsets (R273): the bits of its data that the rebuild changes, and the
upset that stays, or none where a failing byte has a failing byte in its lane in another row. A byte is rebuilt from the vertical parity
and the other 63 rows as they are stored. -/
def rebuild (us : SMap Upset) (w : Nat) (u : Upset) : Option (Word × Option Upset) :=
  if u.lanes.any (otherFails us w) then none
  else
    let lane (b : Nat) (x : Word) : Word := at_ (field x (8 * b) 8) (8 * b)
    let rest (b : Nat) : Word := (us.filter (fun x => x.1 ≠ w)).foldl (fun v x => v ^^^ lane b x.2.data) 0
    let left : Word := u.lanes.foldl (fun v b => v ^^^ lane b u.data ^^^ rest b) u.data
    let par : Byte := u.lanes.foldl (fun p b => setBit p b (popCount (left.extractLsb' (8 * b) 8) 8 % 2 = 1)) u.par
    some (u.data ^^^ left, if left = 0 ∧ par = 0 then none else some { data := left, par, presence := u.presence })

/-- A word with the upset that stays. -/
def putUpset (us : SMap Upset) (w : Nat) : Option Upset → SMap Upset
  | some u => SMap.put us w u
  | none => SMap.erase us w

/-- One failing word of a group of cell k's local store is rebuilt, or keeps its data and takes its poison bit, of which the row manager
is told. -/
def State.rebuildLocal (s : State) (k : Nat) (us : SMap Upset) (w : Nat) (u : Upset) : State :=
  let c := s.cell k
  match rebuild us w u with
  | some (d, left) =>
    s.setCell k { c with
      store := c.store.write (8 * w) 8 ((c.ldWord (8 * w)).v ^^^ d).toNat
      upsets := putUpset c.upsets w left }
  | none =>
    (s.setCell k { c with storePoison := c.storePoison.put w true, upsets := SMap.erase c.upsets w }).record (yOf k) 3 c.ident.dom k 0
      (ofNat (8 * w))

/-- A word that cannot be rebuilt keeps its data and takes its poison bit, the word becomes present if its presence bit is lost too, and
the row manager of its tile is told. -/
def State.spoil (s : State) (w : Nat) (u : Upset) : State :=
  let a := 8 * w
  let s := { s with memPoison := s.memPoison.put w true, upsets := SMap.erase s.upsets w }
  let dom := ((s.pageAt a).map (fun p => pDom p.entry)).getD 0
  let s := if a < hbmBase then
      let v := a / 0x2000000
      let b := s.block v
      (s.setBlock v { b with mtstat := countUp b.mtstat 32 16 }).record (rowOfBlock v) 3 dom (originCell v) 0 (ofNat a)
    else s.record ringRow 3 dom (256 + (a - hbmBase) / 2 ^ 36) 0 (ofNat a)
  if u.presence = false || s.isPresent a then s else (s.setPresent a true).serveDeferred a

/-- One failing word of a vault's group is rebuilt or spoiled. -/
def State.rebuildVault (s : State) (us : SMap Upset) (w : Nat) (u : Upset) : State :=
  match rebuild us w u with
  | some (d, left) =>
    let v := 8 * w / 0x2000000
    let b := s.block v
    { s.setBlock v { b with mtstat := countUp b.mtstat 48 16 } with
      mem := s.mem.write (8 * w) 8 ((s.gword (8 * w)).v ^^^ d).toNat
      upsets := putUpset s.upsets w left }
  | none => s.spoil w u

/-- The row of its group in which a word lies (R166, R272); an HBM word stands alone. -/
def rowOf (grp : ParityGroup) (w : Nat) : Nat :=
  match grp with
  | .lstore _ _ => w % 64
  | .vault _ _ _ => 8 * w / 4096 % 64
  | .hbm _ => 0

/-- A row of a group is read, in the background or by an access (R273): the recovery engine takes the group if a parity check fails there.
An HBM word that the code of its stack cannot correct is spoiled (R269). -/
def execBackgroundScrub (grp : ParityGroup) (row : Nat) (s : State) : Host.Outcome State Fault Refusal :=
  match grp with
  | .hbm _ => .next ((s.failing grp).foldl (fun s x => s.spoil x.1 x.2) s)
  | _ =>
    if (s.failing grp).all (fun x => rowOf grp x.1 ≠ row) || s.rebuilds.any (fun r => r.grp = grp) then .next s
    else .next { s with rebuilds := s.rebuilds ++ [⟨grp, s.now⟩] }

/-- A rebuild ends 80 clk after it began (R273). -/
def execParityRebuildDone (grp : ParityGroup) (s : State) : Host.Outcome State Fault Refusal :=
  match s.rebuilds.find? (fun r => r.grp = grp) with
  | some r =>
    if s.now < r.since + 80 then .next s
    else
      let fs := s.failing grp
      let s := { s with rebuilds := s.rebuilds.filter (fun x => x.grp ≠ grp) }
      match grp with
      | .lstore k n =>
        let us := (s.cell k).upsets.filter (fun x => x.1 / 64 = n)
        .next (fs.foldl (fun s x => s.rebuildLocal k us x.1 x.2) s)
      | _ =>
        let us := s.upsets.filter (fun x => groupOf x.1 = grp)
        .next (fs.foldl (fun s x => s.rebuildVault us x.1 x.2) s)
  | none => .next s

/-- Two upsets of one word. -/
def Upset.join (u v : Upset) : Upset := ⟨u.data ^^^ v.data, u.par ^^^ v.par, u.presence || v.presence⟩

/-- Stored bits of the word at an address of a vault or of HBM change by themselves (R272). -/
def State.upsetAt (s : State) (a : Nat) (u : Upset) : State :=
  if populated a = false then s
  else
    let w := a / 8
    { s with
      mem := s.mem.write (8 * w) 8 ((s.gword a).v ^^^ u.data).toNat
      upsets := SMap.put s.upsets w (u.join (SMap.get ⟨0, 0, false⟩ s.upsets w)) }

/-- Stored bits of a word of a local store change by themselves (R272). -/
def State.upsetLocal (s : State) (k w : Nat) (u : Upset) : State :=
  if 16384 ≤ w then s
  else
    let c := s.cell k
    s.setCell k { c with
      store := c.store.write (8 * w) 8 ((c.ldWord (8 * w)).v ^^^ u.data).toNat
      upsets := SMap.put c.upsets w (u.join (SMap.get ⟨0, 0, false⟩ c.upsets w)) }

/-! ### The pager (R138 to R140, R473) -/

/-- A miss in both caches sends a request word to pager unit b mod 256 of its block (R473). -/
def execTranslationMissRequest (cell : Nat) (s : State) : Host.Outcome State Fault Refusal :=
  match (s.cell cell).missing with
  | some (va, write) => .next (s.queueMiss (blockOf cell) (.cell cell) (s.cell cell).ident.dom va write)
  | none => .next s

/-- A page enters the cache of a block, tagged with a domain (R138). -/
def State.fillBlock (s : State) (b : Nat) (dom : BitVec 12) (p : Page) : State :=
  let x := s.block b
  { s.setBlock b { x with tlb := tlbPut s.fresh x.tlb { p with tag := dom } } with fresh := s.fresh + 1 }

/-- The reply of a pager unit to its oldest miss fills the cache of the block, and of the cell that missed, or refuses (R137, R138,
R473); a miss of a range that is changing is answered after the change (R139). -/
def execTranslationFill (pager : Nat) (s : State) : Host.Outcome State Fault Refusal :=
  match SMap.get [] s.misses pager with
  | [] => .next s
  | (who, va, _) :: rest =>
    if s.changing va then .next s
    else
      let s := { s with misses := SMap.put s.misses pager rest }
      match who with
      | .block b dom =>
        match s.pageOf va with
        | some p => .next (s.fillBlock b dom p)
        | none => .next (s.setBlock b { s.block b with refused := (s.block b).refused ++ [(dom, va)] })
      | .cell k =>
        let c := s.cell k
        let c := { c with missing := if c.missing.any (fun x : Nat × Bool => x.1 = va) then none else c.missing }
        match s.pageOf va with
        | some p => .next ((s.fillBlock (blockOf k) c.ident.dom p).setCell k { c with tlb := lruPut 32 c.tlb { p with tag := 0 } })
        | none => .next (s.setCell k { c with refused := some va })

/-- A page lies in part in a range. -/
def Page.inRange (p : Page) (va len : Nat) : Bool := decide (p.va < va + len) && decide (va < p.va + pSize p.entry)
def Access.inRange (x : Access) (va len : Nat) : Bool := decide (x.va < va + len) && decide (va < x.va + x.size)

/-- The cached entries that a change of a range and domain names. -/
def Change.names (x : Change) (p : Page) : Bool := p.inRange x.va x.len && pDom p.entry = x.dom

/-- An access that has been translated and not yet performed at its home tile: a deferred read is one, but for a page that moves, whose
deferred reads come back to their issuers (R139, R140). -/
def Access.inFlight (move : Bool) (x : Access) : Bool :=
  match x.status with
  | .done _ _ => false
  | .failed _ => false
  | .deferred => !move
  | _ => true

/-- The change moves a page. -/
def Change.moves (x : Change) : Bool :=
  match x.kind with
  | .move _ => true
  | _ => false

/-- The word at address a of the module lies in a page that the change names. -/
def State.changedAt (s : State) (x : Change) (a : Nat) : Bool :=
  s.pages.any (fun p => pValid p.entry && x.names p && s.own (pAddr p.entry) && decide (pAddr p.entry % 2 ^ 50 ≤ a) &&
    decide (a < pAddr p.entry % 2 ^ 50 + pSize p.entry))

/-- Some engine of block b waits at a word that the change names: for a fill, but for a page that moves, or for a region's owner. -/
def State.engineWaits (s : State) (x : Change) (b : Nat) : Bool :=
  let mine (d : Deferred) : Bool := match d with
    | .ask (.cell _ _) => false
    | .ask who => decide ((s.askedBy who).1 = b)
    | _ => false
  (!x.moves && s.deferred.any (fun t => t.2.any (fun y => mine y.2 && s.changedAt x (8 * y.1)))) ||
    s.regions.any (fun r => r.2.held.any (fun y => mine y.2 && s.changedAt x y.1))

/-- The caches that may hold an entry in the range of a change, or still have an access under way in it. -/
def State.holders (s : State) (x : Change) : List CacheId :=
  (s.cells.filter (fun c => c.2.tlb.any x.names || c.2.accs.any (fun y => y.inFlight x.moves && y.inRange x.va x.len))).map
    (fun c => .cell c.1) ++
  (s.blocks.filter (fun b => b.2.tlb.any x.names || !b.2.comb.isEmpty || s.engineWaits x b.1)).map (fun b => .block b.1)

/-- The n bytes of a page move from address a to address b with their poison and presence bits; nothing of what stood at b
stays. -/
def State.movePage (s : State) (a b n : Nat) : State :=
  let inside (x k m : Nat) : Bool := decide (x / m ≤ k) && decide (k < (x + n) / m)
  let mem := s.mem.foldl (fun m x => if inside a x.1 1 then Memory.setByte m (b + (x.1 - a)) x.2 else m)
    (s.mem.filter (fun x => !inside b x.1 1))
  let marks (w : Marks) (m : Nat) : Marks :=
    w.foldl (fun q x => if inside a x.1 m then q.put (b / m + (x.1 - a / m)) x.2 else q)
      (w.filter (fun x => !inside b x.1 m))
  { s with
    mem, memPoison := marks s.memPoison 8, present := marks s.present 8, dirty := marks s.dirty 0x10000
    upsets := s.upsets.filter (fun x => !inside b x.1 8) }

/-- A page has moved by the difference of a and b: the deferred reads of its words come back to their issuers, which send
them to the new home (R140). -/
def State.retranslate (s : State) (a b n : Nat) : State :=
  let inside (w : Nat) : Bool := decide (a / 8 ≤ w) && decide (w < (a + n) / 8)
  let mine := s.deferred.flatMap (fun t : Nat × List (Nat × Deferred) => t.2.filter (fun x => inside x.1))
  let s := { s with
    deferred := s.deferred.map (fun t : Nat × List (Nat × Deferred) => (t.1, t.2.filter (fun x => !inside x.1))) }
  mine.foldl (fun s x =>
    match x.2 with
    | .ask (.cell k q) => s.modCell k (fun c => { c with
        accs := c.accs.map (fun y =>
          if y.tok.seq = q then { y with pa := y.pa / 2 ^ 50 * 2 ^ 50 + (b + (y.pa % 2 ^ 50 - a)), status := .sent }
          else y) })
    | .ask who => s.setWord who (.nacked 0)
    | .far m (.read _ _ _ who _) => s.sendPacket m (Config.packetVc 3) (.retranslate who)
    | _ => s) s

/-- A translation change whose acknowledgements are all home takes effect, and its call is answered (R139, R140, R472). -/
def State.finishChange (s : State) (x : Change) : State :=
  let s := { s with changes := s.changes.filter (fun y => y.call ≠ x.call) }
  let hit : Page → Bool := fun p => pValid p.entry && x.names p
  let s := match x.kind with
    | .unmap => { s with pages := s.pages.filter (fun p => !hit p) }
    | .setWrite w => { s with pages := s.pages.map (fun p => if hit p then { p with entry := setBit p.entry 3 w } else p) }
    | .move pa =>
      match s.pages.find? hit with
      | some p =>
        let old := pAddr p.entry % 2 ^ 50
        let n := pSize p.entry
        let e := (p.entry &&& ~~~(at_ (2 ^ 44 - 1) 16)) ||| at_ (s.modNo.toNat * 2 ^ 34 + pa / 2 ^ 16) 16
        let s := { s with pages := s.pages.map (fun q => if hit q then { q with entry := e } else q) }
        let s := if pHostShared e && !s.pages.any (fun q => !hit q && pValid q.entry && s.own (pAddr q.entry) &&
            regionOf (pAddr q.entry % 2 ^ 50) = regionOf pa) && regionOf old ≠ regionOf pa then s.setRegion (regionOf pa) {} else s
        (s.movePage old pa n).retranslate old pa n
      | none => s
  match s.request x.call with
  | some q => s.reply q 0 0
  | none => s

/-- The changes none of whose acknowledgements is still out take effect. -/
def State.finishChanges (s : State) : State :=
  (s.changes.filter (fun x => x.waits.isEmpty)).foldl State.finishChange s

/-- The pager begins a change: the invalidations go to every cache that may hold an entry in the range (R139). -/
def State.beginChange (s : State) (x : Change) : State :=
  { s with changes := s.changes ++ [{ x with waits := s.holders x }] }.finishChanges

/-- An invalidation message reaches a cache, which removes the entries it names (R139). -/
def execTranslationInvalidate (cache : CacheId) (va len : Nat) (dom : BitVec 12) (s : State) :
    Host.Outcome State Fault Refusal :=
  let mine (x : Change) : Bool :=
    x.va = va && x.len = len && x.dom = dom && x.waits.contains cache && !x.cut.contains cache
  match s.changes.find? mine with
  | none => .next s
  | some x =>
    let s := match cache with
      | .cell k => s.modCell k (fun c => { c with tlb := c.tlb.filter (fun p => !x.names p) })
      | .block b => s.setBlock b { s.block b with tlb := (s.block b).tlb.filter (fun p => !x.names p) }
    .next { s with changes := s.changes.map (fun y => if mine y then { y with cut := cache :: y.cut } else y) }

/-- Every access that the cache translated with the removed entries has been performed at its home tile, and every element of the
engines of a block has completed (R139). -/
def State.cacheQuiet (s : State) (x : Change) (cache : CacheId) : Bool :=
  match cache with
  | .cell k =>
    (s.cell k).accs.all (fun y => !(y.inFlight x.moves && y.inRange x.va x.len)) &&
    (s.block (blockOf k)).comb.all (fun e => e.by_.all (fun z => z.cell ≠ k || !(decide (x.va ≤ z.va) && decide (z.va < x.va + x.len))))
  | .block b =>
    !s.engineWaits x b &&
    (s.block b).comb.all (fun e => e.by_.all (fun z => !(decide (x.va ≤ z.va) && decide (z.va < x.va + x.len))))

/-- A cache returns its acknowledgement to the pager (R139). -/
def execInvalidateAck (cache : CacheId) (s : State) : Host.Outcome State Fault Refusal :=
  let s := { s with changes := s.changes.map (fun x : Change =>
    if x.cut.contains cache && s.cacheQuiet x cache then
      { x with waits := x.waits.filter (fun y => y ≠ cache), cut := x.cut.filter (fun y => y ≠ cache) }
    else x) }
  .next s.finishChanges

/-! ### Host-shared regions (R142 to R146) -/

/-- The clk of 1 µs (R145), at 1.6 GHz. -/
def microsecond : Nat := 1600

/-- The address within the module that a host physical address of port p reaches, in HBM (R479). -/
def hostAddr (p addr : Nat) : Option Nat :=
  if Config.hostBase p ≤ addr ∧ addr < Config.hostBase p + (hbmTop - hbmBase) then
    some (hbmBase + (addr - Config.hostBase p))
  else none

/-- The word of the module at address a is host-shared. -/
def State.hostShared (s : State) (a : Nat) : Bool :=
  match s.pageAt a with
  | some p => pHostShared p.entry && pKind p.entry = 0
  | none => false

/-- The 64 bytes of the line of a, with the poison of its words. -/
def State.line (s : State) (a : Nat) : BitVec 512 × Bool :=
  (BitVec.ofNat 512 (s.mem.read (a / 64 * 64) 64), s.memPoison.any (a / 64 * 8) 8)

/-- The line of a takes 64 bytes. -/
def State.setLine (s : State) (a : Nat) (d : BitVec 512) : State :=
  (upto 8).foldl (fun s j => s.gwrite (a / 64 * 64 + 8 * j) 8 (field d (64 * j) 64) false) s

/-- The port returns data to the host. -/
def State.hostData (s : State) (p addr : Nat) (d : BitVec 512) (poisoned : Bool) : State :=
  let h := s.host p
  s.setHost p { h with data := h.data ++ [(addr, d, poisoned)] }

/-- Eight free words as the data of a line (log entry 2). -/
def State.freeLine (s : State) : BitVec 512 :=
  (upto 8).foldl (fun d j => d ||| (Config.freeWord (s.fresh + j)).zeroExtend 512 <<< (64 * j)) 0

/-- A host request of port p is performed at the line of address a: a read enters the port's directory (R144), and data with
a poisoned word returns with poison and records kind 11 (R446). -/
def State.performHost (s : State) (p a : Nat) (r : HostReq) : State :=
  if r.write then s.setLine a r.data
  else
    let (d, bad) := s.line a
    let h := s.host p
    let s := (s.setHost p { h with dir := h.dir.put (a / 64) true }).hostData p r.addr d bad
    if bad then s.record ringRow 11 0 (312 + p) 0 (ofNat r.addr) else s

/-- Every entry of a combining buffer for a region is sent (R144). -/
def State.flushRegion (s : State) (r : Nat) : State :=
  { s with blocks := s.blocks.map (fun x => (x.1, { x.2 with
      comb := x.2.comb.map (fun e => if s.own (64 * e.line) ∧ regionOf (64 * e.line % 2 ^ 50) = r then { e with sent := true } else e) })) }

/-- A host CXL.mem request arrives at a port whose CXL.mem is enabled (R144 to R146): it is refused outside host-shared
memory, performed while the host owns the region and no device access waits, and held otherwise. -/
def execHostMemRequest (port : Nat) (req : HostReq) (s : State) : Host.Outcome State Fault Refusal :=
  let h := s.host port
  if h.up = false ∨ h.mem = false then .next s
  else
    match hostAddr port req.addr with
    | none => .next s
    | some a =>
      if s.hostShared a = false then
        let s' := if req.write then s
          else { s.hostData port req.addr s.freeLine true with fresh := s.fresh + 8 }
        .next (s'.record ringRow 17 0 (312 + port) 0 (ofNat req.addr))
      else if (upto 8).any (fun j => s.vaultBusy (a / 64 * 64 + 8 * j)) then .next s
      else
        let r := s.region (regionOf a)
        if r.host && (r.held.isEmpty || r.since.isSome) then .next (s.performHost port a req)
        else
          let s := s.setHost port { h with accepted := h.accepted + 1 }
          .next ((s.setRegion (regionOf a) { r with reqs := r.reqs ++ [(port, h.accepted, req)] }).flushRegion (regionOf a))

/-- The entries of every combining buffer bound for a region are performed, so that it becomes HOST and the requests held are
served in arrival order (R144, R145). -/
def execOwnershipToHost (region : Nat) (s : State) : Host.Outcome State Fault Refusal :=
  let r := s.region region
  if r.host || r.since.isSome || r.reqs.isEmpty then .next s
  else if s.blocks.any (fun x => x.2.comb.any (fun e => s.own (64 * e.line) && regionOf (64 * e.line % 2 ^ 50) = region)) then .next (s.flushRegion region)
  else
    let s' := s.setRegion region { r with host := true, since := some s.now, reqs := [] }
    .next (r.reqs.foldl (fun s x =>
      match hostAddr x.1 x.2.2.addr with
      | some a => s.performHost x.1 a x.2.2
      | none => s) s')

/-- An access at address a that was held for an ownership transfer is performed (R143): of a cell, a combining buffer, an engine or
another module; a service has its word. -/
def State.performHeld (s : State) (x : Nat × Deferred) : State :=
  match x.2 with
  | .ask (.cell k n) =>
    match (s.cell k).accs.find? (fun y => y.tok.seq = n) with
    | some y => if y.status = .ownerWait then s.performAcc k y 0 else s
    | none => s
  | .ask (.comb b line) =>
    match (s.block b).comb.find? (fun e => e.line = line) with
    | some e => s.performEntry b e
    | none => s
  | .ask who => s.engineHeld who x.1
  | .far m op => (s.performFar m op).getD s
  | .service call =>
    if (s.request call).isSome then s.modSvc (fun v => { v with latched := v.latched ++ [(call, x.1, s.gword x.1)] }) else s
  | .servicePut v n => s.gwrite x.1 n v.toNat false

/-- Every snoop of the region's recorded lines is answered: the returned dirty lines are written, the region becomes ACC, and
the accesses it held are performed in arrival order (R143, R145). -/
def execBackInvalidateComplete (region : Nat) (dirty : List (Nat × BitVec 512)) (s : State) :
    Host.Outcome State Fault Refusal :=
  let r := s.region region
  if r.host = false ∨ r.since.isSome ∨ r.held.isEmpty then .next s
  else
    let known (a : Nat) : Bool := regionOf a = region && s.carrier.hosts.any (fun h => h.2.dir.has (a / 64))
    let s := (dirty.filter (fun x => known x.1)).foldl (fun s x => s.setLine x.1 x.2) s
    let hosts := s.carrier.hosts.map (fun h => (h.1, { h.2 with dir := h.2.dir.filter (fun x => regionOf (64 * x.1) ≠ region) }))
    let s := { s with carrier := { s.carrier with hosts } }
    let s := s.setRegion region { r with host := false, since := some s.now, held := [] }
    .next (r.held.foldl State.performHeld s)

/-- The minimum interval of 1 µs of a region's owner ends (R145). -/
def execOwnerHoldExpiry (region : Nat) (s : State) : Host.Outcome State Fault Refusal :=
  let r := s.region region
  match r.since with
  | some t => if t + microsecond ≤ s.now then .next (s.setRegion region { r with since := none }) else .next s
  | none => .next s

end Sys2Proof.Machine
end

