-- ==== Sys2Proof/Machine/Phase.lean ====
section
/-! DEFINITION. Phases and the return of weight (R28 to R31): the accumulator of a load's root cell. -/

namespace Sys2Proof.Machine

open Sys2Proof

/-- OPK of a PHASE word (R28). -/
def phaseOpk (v : Word) : Nat := field v 46 2

/-- The root grants a borrow request that came from a module: D grows by 2^247, and a grant word with E = 8 goes to the cell
and port that the request names (R30). The grant's sequence number is not in the spec: a free value (log entry 13). -/
def State.grantBorrow (s : State) (root m : Nat) (v : Word) : State :=
  let c := s.cell root
  let s := s.setCell root { c with phaseD := c.phaseD + 2 ^ 247 }
  let w : QWord := ⟨at_ 3 56 ||| at_ 8 48 ||| at_ 3 46, false, 7, c.ident.unit, (Config.freeWord s.fresh).extractLsb' 0 32,
    0, 0, c.ident.dom, c.ident.dom⟩
  let s := { s with fresh := s.fresh + 1 }
  let k := field v 28 18
  if m = s.modNo.toNat then { s with net := s.net ++ [⟨k, v.extractLsb' 25 3, w, none⟩] }
  else s.sendPacket m (Config.packetVc 4) (.words k (field v 25 3) (.net 0) [w])

/-- The oldest borrow request that waits at the root has room in D (R30). -/
def State.grantDue (s : State) (root : Nat) : Bool :=
  let c := s.cell root
  !c.borrows.isEmpty && decide (c.phaseD + 2 ^ 247 < 2 ^ 256)

/-- The phase has ended at the root: dispatch stops in the load, and the loader learns of it (R29, R32). -/
def State.endPhase (s : State) (root : Nat) : State :=
  let s := s.modCell root (fun c => { c with phaseEnd := true })
  let graphs := s.carrier.svc.graphs.map (fun x => (x.1, if x.2.root = root ∧ !x.2.marked ∧ !x.2.swapped ∧ !x.2.torn then { x.2 with ended := true } else x.2))
  { s with carrier := { s.carrier with svc := { s.carrier.svc with graphs } } }

/-- A phase word is discarded at the root and recorded (R31). -/
def State.phaseError (s : State) (root : Nat) (v : Word) : State :=
  s.record (yOf root) 8 (s.cell root).ident.dom root 0 v

/-- The accumulator discards a CTL word that it does not interpret (R121). -/
def State.strayCtl (s : State) (root : Nat) (v : Word) : State :=
  s.record (yOf root) 18 (s.cell root).ident.dom root 0 v

/-- A word on edge 0xFFFF reaches the root from a module (R29 to R31); one that is no PHASE word is not interpreted (R121). -/
def State.phaseWord (s : State) (root m : Nat) (w : QWord) : State :=
  let c := s.cell root
  let opk := phaseOpk w.v
  let amount := 2 ^ (255 - field w.v 48 8)
  if w.p = false ∧ w.isCtl 3 = false then s.strayCtl root w.v
  else if w.p ∨ opk = 0 ∨ opk = 3 ∨ c.phaseD = 0 ∨ field w.v 0 (if opk = 1 then 46 else 25) ≠ 0 then s.phaseError root w.v
  else if opk = 2 then
    if c.borrows.isEmpty ∧ c.phaseD + 2 ^ 247 < 2 ^ 256 then s.grantBorrow root m w.v
    else s.setCell root { c with borrows := c.borrows ++ [(m, w.v)] }
  else if c.phaseD < amount then (s.phaseError root w.v).terminate c.ident.dom
  else
    let s := s.setCell root { c with phaseD := c.phaseD - amount }
    if c.phaseD = amount then s.endPhase root else s

/-- The oldest word of a cell's phase endpoint goes to the root, if its OPK is one that the operation takes. It leaves for a
root on another module as a packet; at a root that owes a grant it waits (R30). -/
def phaseTurn (takes : Nat → Bool) (cell : Nat) (s : State) : Host.Outcome State Fault Refusal :=
  let c := s.cell cell
  let root := dstCell c.phaseq
  match c.phaseOut.drop c.phaseSent with
  | [] => .next s
  | w :: _ =>
    if takes (phaseOpk w.v) = false then .next s
    else if dstModule c.phaseq ≠ s.modNo then
      .next ((s.setCell cell { c with phaseSent := c.phaseSent + 1 }).sendPacket (dstModule c.phaseq).toNat
        (Config.packetVc 4) (.words root 0 (.cell cell 8 0) [w]))
    else if s.grantDue root then .next s
    else .next ((s.setCell cell { c with phaseOut := c.phaseOut.drop 1 }).phaseWord root s.modNo.toNat w)

/-- A return word, or one that R31 discards, reaches the root (R29, R31). -/
def execPhaseReturn (cell : Nat) (s : State) : Host.Outcome State Fault Refusal := phaseTurn (fun k => k ≠ 2) cell s

/-- A borrow request reaches the root (R30). -/
def execBorrowRequest (cell : Nat) (s : State) : Host.Outcome State Fault Refusal := phaseTurn (fun k => k = 2) cell s

/-- The oldest borrow request that waits at a root is granted once returns have made room (R30). -/
def execBorrowGrantDeferred (root : Nat) (s : State) : Host.Outcome State Fault Refusal :=
  let c := s.cell root
  match c.borrows with
  | [] => .next s
  | (m, v) :: rest =>
    if s.grantDue root then .next ((s.setCell root { c with borrows := rest }).grantBorrow root m v) else .next s

end Sys2Proof.Machine
end

