-- ==== Sys2Proof/Machine/Links.lean ====
section
/-! DEFINITION. The scale-up links (R394 to R403): training, flits and their replay, cut-through forwarding, the delivery of
packets in ESEQ order, acknowledgements, and the routing tables with their switch. -/

namespace Sys2Proof.Machine

open Sys2Proof

/-! ### Ports (R394) -/

def LinkPort.enabled (x : LinkPort) : Bool := x.ctl.getLsbD 8
def LinkPort.expected (x : LinkPort) : Nat := field x.peer 0 10

/-- A record of kind 5 of a link port, an element of space 2 that the ring supervisor supervises (R403, R427, R432). -/
def State.linkRecord (s : State) (p : Nat) (lanes : BitVec 8) : State :=
  s.record ringRow 5 0 (280 + p) lanes.toNat (ofNat p)

/-- A port goes down; the row manager is told. -/
def State.portDown (s : State) (p : Nat) : State :=
  let x := s.linkPort p
  (s.setLinkPort p { x with up := false }).linkRecord p x.failed

/-- An enabled port trains to the peer it finds: it runs on the good lanes if there are 6 and the peer is the expected one
(R394, R403). -/
def execLinkTrain (port peer : Nat) (lanes : BitVec 8) (s : State) : Host.Outcome State Fault Refusal :=
  let x := s.linkPort port
  if x.enabled = false then .next s
  else
    let good := lanes &&& x.ctl.extractLsb' 0 8 &&& ~~~x.failed
    let x := { x with good, peerMod := BitVec.ofNat 10 peer }
    if 6 ≤ popCount good 8 ∧ peer = x.expected then
      .next (s.setLinkPort port { x with up := true }).drainAll
    else .next ((s.setLinkPort port x).portDown port)

/-- Lanes of a port fail: they stay out of use, and with fewer than 6 the port is down (R394). -/
def execLossOfLink (port : Nat) (lost : BitVec 8) (s : State) : Host.Outcome State Fault Refusal :=
  let x := s.linkPort port
  let good := x.good &&& ~~~lost
  let x := { x with good, failed := x.failed ||| lost, up := x.up && decide (6 ≤ popCount good 8) }
  if lost = 0 then .next s else .next ((s.setLinkPort port x).linkRecord port x.failed)

/-- The peer asks for replay from a flit: the port sends it and every later one again; the sixteenth replay takes the port
down (R396). -/
def execLinkReplayRequest (port : Nat) (fseq : BitVec 12) (s : State) : Host.Outcome State Fault Refusal :=
  let x := s.linkPort port
  if x.up = false ∨ x.peerFrozen ∨ x.sent.all (fun f => (f.words.head?.getD 0).extractLsb' 52 12 ≠ fseq) then .next s
  else
    let back := (x.tx - fseq).toNat
    let n := x.sent.length - back
    let old := x.sent.take n
    let sent := (x.sent.drop n).map (fun f => { f with tries := f.tries + 1 })
    let s := s.setLinkPort port { x with sent := old ++ sent }
    if sent.any (fun f => decide (16 ≤ f.tries)) then .next (s.portDown port) else .next s

/-! ### Acknowledgements and discards at the source (R397, R399) -/

/-- A packet to module m on a virtual channel is no longer unacknowledged; one that stalled may leave. -/
def State.packetDone (s : State) (m : Nat) (vc : BitVec 2) (eseq : BitVec 32) : State :=
  let x := s.outStream m vc
  let s := s.setOutStream m vc { x with unacked := x.unacked.filter (fun p => p.eseq ≠ eseq) }
  s.drain m vc x.waiting.length

/-- The reply to an access of this module at another reaches who asked (R281, R399): an access takes its value, with the termination of
an accumulate page's domain by a poisoned atomic (R437), or fails with a cause. -/
def State.takeReply (s : State) (who : Asker) (cause : BitVec 8) (v : Val) (fl : BitVec 5) : State :=
  match who with
  | .cell k n =>
    match (s.cell k).accs.find? (fun x => x.tok.seq = n) with
    | some x =>
      match x.status with
      | .away _ =>
        if cause ≠ 0 then s.setAccess k n (.failed cause)
        else
          let s' := s.setAccess k n (.done v (if v.p then 0 else fl))
          if v.p ∧ x.kind.returns ∧ x.kind ≠ .ldg ∧ x.kind ≠ .ldf ∧ x.kind ≠ .ald ∧ x.pkind = 2 then s'.terminate x.pdom else s'
      | _ => s
    | none => s
  | .comb b line => s.entryReply b line cause
  | who => s.engineReply who cause v

/-- A read of this module that a full table at another has refused (R277), or whose page there has moved (R140), is sent again: at a new
translation after a move. -/
def State.takeNack (s : State) (who : Asker) (moved : Bool) : State :=
  match who with
  | .cell k n =>
    match (s.cell k).accs.find? (fun x => x.tok.seq = n) with
    | some x =>
      match x.status, moved with
      | .away m, false => s.setAccess k n (.nacked (m + 1))
      | .away _, true =>
        match s.pageOf x.va with
        | some p =>
          s.modCell k (fun c => { c with
            accs := c.accs.map (fun y => if y.tok.seq = n then { y with pa := p.addr y.va, status := .nacked 0 } else y) })
        | none => s.setAccess k n (.failed causeTrans)
      | _, _ => s
    | none => s
  | who =>
    match s.wordSt who with
    | some (.asked m) => s.setWord who (.nacked (if moved then 0 else m + 1))
    | _ => s

/-- The source of a discarded packet learns of it: an access fails with TRANS, a queue word is handled as a torn-down
delivery (R397, R435). -/
def State.packetLost (s : State) (op : PacketOp) : State :=
  let miss (who : Asker) : State := s.takeReply who causeTrans Val.zero 0
  match op with
  | .read _ _ _ who _ => miss who
  | .write _ _ _ who => miss who
  | .fill _ _ _ who => miss who
  | .clear _ who => miss who
  | .line _ _ who => miss who
  | .atomic _ _ _ _ _ _ _ _ who => miss who
  | .words _ _ src ws => ws.foldl (fun s w => s.applyAck ⟨src, w.seq, true⟩) s
  | _ => s

/-- An acknowledgement reaches the source: the oldest packet of the stream leaves its window (R399). -/
def execPacketAck (dstModule : Nat) (vc : BitVec 2) (s : State) : Host.Outcome State Fault Refusal :=
  match (s.outStream dstModule vc).unacked with
  | p :: _ => .next (s.packetDone dstModule vc p.eseq)
  | [] => .next s

/-! ### Flits (R395 to R397, R401) -/

/-- A packet is discarded in this module: its supervisor is told, and a NACK returns to its source (R397). -/
def State.discardPacket (s : State) (port : Nat) (vc : BitVec 2) (head : Word) : State :=
  let src := field head 44 10
  let eseq : BitVec 32 := head.extractLsb' 0 32
  let s := s.record ringRow 10 0 (280 + port) (field head 54 10) (eseq.zeroExtend 64)
  s.sendPacket src (Config.packetVc 3) (.discarded (field head 54 10) vc eseq)

/-- The port on which a head leaves this module: none where its packet is discarded (R397, R401). A port that is down is skipped (R394),
and the table names no other. -/
def State.forwardPort (s : State) (port : Nat) (words : List Word) : Option Nat :=
  let w1 := words.getD 1 0
  let hops := field (words.getD 2 0) 59 5 + 1
  if 31 ≤ hops then none
  else (s.route (port / 8) (w1.getLsbD 43) (field w1 54 10)).bind (fun p => if (s.linkPort p).up then some p else none)

/-- The words of a head that is forwarded: HOPS is one higher, and the head's CRC, whose polynomial is not in the spec, a free
value (log entry 9). -/
def State.forwardHead (s : State) (words : List Word) : List Word :=
  let w2 := words.getD 2 0
  let up := (w2 &&& ofNat (2 ^ 59 - 1)) ||| at_ (field w2 59 5 + 1) 59
  (words.drop 1).take 1 ++ [up] ++ (words.drop 3).take 28 ++ [Config.freeWord s.fresh &&& 0xFFFFFFFF#64]

/-- A packet for this module has arrived whole; one already delivered, or already held, is discarded (R399). -/
def State.holdPacket (s : State) (vc : BitVec 2) (head : Word) : State :=
  let m := field head 44 10
  let h : PacketHead := ⟨m, field head 40 3, head.extractLsb' 0 32⟩
  let x := s.inStream m vc
  if seqFrom x.next h.eseq = false ∨ x.held.any (fun y => y.eseq = h.eseq) then s
  else s.setInStream m vc { x with held := x.held ++ [h] }

/-- A flit of packet r on a virtual channel leaves on its port. -/
def State.forwardFlit (s : State) (r : RxPacket) (vc : BitVec 2) (ft : Nat) (stomp : Bool) (rest : List Word) : State :=
  match r.out with
  | some q => s.sendFlit q (flitCtl vc ft stomp) rest
  | none => s

def State.setRx (s : State) (port : Nat) (vc : BitVec 2) (r : Option RxPacket) : State :=
  let x := s.linkPort port
  s.setLinkPort port { x with rxs := match r with
    | some y => SMap.put x.rxs vc.toNat y
    | none => SMap.erase x.rxs vc.toNat }

/-- The receiver asks for replay from a flit. -/
def State.askReplay (s : State) (port : Nat) (fseq : BitVec 12) : State :=
  s.setLinkPort port { s.linkPort port with rx := fseq, ask := some fseq }

/-- The tail of packet r arrives at a port (R396): a stomped one is discarded, one whose payload check fails is forwarded with
STOMP and asked for again from its head, and a whole one is delivered, or goes on. -/
def State.tail (s : State) (port : Nat) (vc : BitVec 2) (r : RxPacket) (ft : Nat) (stomp ok : Bool) (rest : List Word) : State :=
  let head := r.head.getD 1 0
  let s := s.setRx port vc none
  if stomp then s.forwardFlit r vc ft true rest
  else if ok = false then (s.forwardFlit r vc ft true rest).askReplay port r.fseq
  else if field head 54 10 = s.modNo.toNat then s.holdPacket vc head
  else s.forwardFlit r vc ft false rest

/-- A head whose check holds begins a packet: one for another module is forwarded cut-through or discarded. -/
def State.head (s : State) (port : Nat) (vc : BitVec 2) (fseq : BitVec 12) (words : List Word) : State × RxPacket :=
  let w1 := words.getD 1 0
  if field w1 54 10 = s.modNo.toNat then (s, ⟨words, 1, none, fseq⟩)
  else
    match s.forwardPort port words with
    | some q => (s, ⟨words, 1, some q, fseq⟩)
    | none => (s.discardPacket port vc w1, ⟨words, 1, none, fseq⟩)

/-- A flit arrives at a port that is up (R396). -/
def execFlitReceive (port : Nat) (flit : Flit) (s : State) : Host.Outcome State Fault Refusal :=
  let x := s.linkPort port
  let w0 := flit.words.getD 0 0
  let fseq : BitVec 12 := w0.extractLsb' 52 12
  let vc : BitVec 2 := w0.extractLsb' 38 2
  let ft := field w0 35 3
  let isHead := ft = 1 || ft = 4
  if x.up = false then .next s
  else if flit.good = false ∨ fseq ≠ x.rx ∨ (isHead ∧ flit.headOk = false) then .next (s.askReplay port x.rx)
  else
    let s := s.setLinkPort port { x with rx := x.rx + 1, ask := none }
    let rest := flit.words.drop 1
    match ft with
    | 1 =>
      let (s', r) := s.head port vc fseq flit.words
      let s' := s'.setRx port vc (some r)
      .next { s'.forwardFlit r vc 1 false (s'.forwardHead flit.words) with fresh := s'.fresh + 1 }
    | 4 =>
      let (s', r) := s.head port vc fseq flit.words
      let s' := s'.tail port vc r 4 (w0.getLsbD 34) flit.payloadOk (s'.forwardHead flit.words)
      .next { s' with fresh := s'.fresh + 1 }
    | 2 =>
      match SMap.find x.rxs vc.toNat with
      | some r => .next ((s.setRx port vc (some { r with flits := r.flits + 1 })).forwardFlit r vc 2 false rest)
      | none => .next s
    | 3 =>
      match SMap.find x.rxs vc.toNat with
      | some r => .next (s.tail port vc r 3 (w0.getLsbD 34) flit.payloadOk rest)
      | none => .next s
    | 5 =>
      let q := port / 8
      let y := s.plane q
      if y.marks.contains (port, vc.toNat) then .next s
      else .next (s.setPlane q { y with marks := y.marks ++ [(port, vc.toNat)] })
    | _ => .next s

/-! ### Delivery (R399) -/

/-- What the next packet of a stream does at this module; none while it cannot be delivered yet. -/
def State.deliver (s : State) (m : Nat) (op : PacketOp) : Option State :=
  match op with
  | .reply who cause data poison fl => some (s.takeReply who cause ⟨data, poison⟩ fl)
  | .nack who => some (s.takeNack who false)
  | .retranslate who => some (s.takeNack who true)
  | .retire src seq nack => some (s.applyAck ⟨src, seq, nack⟩)
  | .discarded d vc e =>
    match (s.outStream d vc).unacked.find? (fun p => p.eseq = e) with
    | some p => some ((s.packetDone d vc e).packetLost p.op)
    | none => some s
  | .ack vc e => some (s.packetDone m vc e)
  | .words k _ (.cell a 8 n) ws =>
    match ws with
    | [w] =>
      if s.grantDue k then none
      else some ((s.phaseWord k m w).sendPacket m (Config.packetVc 3) (.retire (.cell a 8 n) 0 false))
    | _ => some s
  | .words k i src ws =>
    let dom := ((ws.head?).map (fun w => w.ddom.toNat)).getD 0
    let r := s.row (yOf k)
    if r.domState dom = 2 ∨ (r.domState dom = 3 ∧ r.spillFull dom) then none else some (s.reach (.far m src) k i ws)
  | .exchange x => some (s.takeX m x)
  | .service => some s
  | _ =>
    let a := PacketOp.addr op
    if populated a = false then
      match op with
      | .read _ _ _ who _ => some (s.farReply m who causeTrans Val.zero 0)
      | .write _ _ _ who => some (s.farReply m who causeTrans Val.zero 0)
      | .fill _ _ _ who => some (s.farReply m who causeTrans Val.zero 0)
      | .clear _ who => some (s.farReply m who causeTrans Val.zero 0)
      | .line _ _ who => some (s.farReply m who causeTrans Val.zero 0)
      | .atomic _ _ _ _ _ _ _ _ who => some (s.farReply m who causeTrans Val.zero 0)
      | _ => some s
    else if s.vaultBusy a then none
    else if s.hostHeld a then some (s.holdAt a (.far m op))
    else s.performFar m op

/-- A packet that must wait leaves its mark on a SWAPPED domain whose spill queue is full (R436). -/
def State.packetWaits (s : State) : PacketOp → State
  | .words k _ _ ws =>
    let dom := ((ws.head?).map (fun w => w.ddom.toNat)).getD 0
    if (s.row (yOf k)).domState dom = 3 then s.overflow (yOf k) dom else s
  | _ => s

/-- The target delivers the next packet of a stream in ESEQ order and acknowledges it, unless it is of KIND 3 (R399). -/
def execPacketDelivery (srcModule : Nat) (vc : BitVec 2) (op : PacketOp) (s : State) : Host.Outcome State Fault Refusal :=
  let x := s.inStream srcModule vc
  match x.held.find? (fun h => h.eseq = x.next) with
  | none => .next s
  | some h =>
    if h.kind ≠ packetKind op then .next s
    else
      match s.deliver srcModule op with
      | none => .next (s.packetWaits op)
      | some s' =>
        let s' := s'.setInStream srcModule vc { x with next := x.next + 1, held := x.held.filter (fun y => y.eseq ≠ x.next) }
        .next (if h.kind = 3 then s' else s'.sendPacket srcModule (Config.packetVc 3) (.ack vc h.eseq))

/-! ### Routing tables (R402, R403) -/

/-- DR[b] of plane q (R402): a marker has come on every virtual channel of every port of the plane that is up, since the last
switch, and no packet injected with the copy is unacknowledged. Before the first switch no marker is owed. -/
def State.drained (s : State) (q : Nat) (b : Bool) : Bool :=
  let x := s.plane q
  x.act != b &&
  (!x.switched || (upto 8).all (fun j => !(s.linkPort (8 * q + j)).up ||
    (upto 4).all (fun v => x.marks.contains (8 * q + j, v)))) &&
  s.carrier.outs.all (fun o => o.2.unacked.all (fun p => p.plane ≠ q || p.tbl != b))

/-- A route-switch marker leaves on every virtual channel of a port that is up. -/
def State.sendMarkers (s : State) (p : Nat) : State :=
  if (s.linkPort p).up then
    (upto 4).foldl (fun s v =>
      { s.sendFlit p (flitCtl (BitVec.ofNat 2 v) 5 false) (Config.freeWord (s.fresh + 30) :: s.flitBody 4) with
        fresh := s.fresh + 31 }) s
  else s

/-- A write of ACT switches the plane (R402). -/
def State.switchPlane (s : State) (q : Nat) (act : Bool) : State :=
  let x := s.plane q
  if x.act = act then s
  else (upto 8).foldl (fun s j => s.sendMarkers (8 * q + j)) (s.setPlane q { x with act, switched := true, marks := [] })

def execRouteSwitch (plane : Nat) (act : Bool) (s : State) : Host.Outcome State Fault Refusal :=
  .next (s.switchPlane plane act)

/-- A write of TDATA stores the entry that TIDX names in a copy that is free, and moves TIDX on; none where it is refused
(R402, R403). -/
def State.writeRoute (s : State) (q : Nat) (value : BitVec 12) : Option State :=
  let x := s.linkPort (8 * q)
  let copy := x.tidx.getLsbD 11
  let i := field x.tidx 0 10
  if s.drained q copy = false then none
  else
    let y := s.plane q
    let s := s.setPlane q { y with table := SMap.put y.table (1024 * b2n copy + i) (value.extractLsb' 0 4) }
    some (s.setLinkPort (8 * q) { x with
      tidx := (x.tidx &&& ~~~0x3FF#32) ||| BitVec.ofNat 32 ((i + 1) % 1024)
      tdata := value.zeroExtend 32 })

/-- A TDATA write stores a routing entry; reserved bits and a copy in use are refused (R402, R403). -/
def execRouteTableWrite (plane : Nat) (value : BitVec 12) (s : State) : Host.Outcome State Fault Refusal :=
  if value.extractLsb' 4 8 ≠ 0 then .next s else .next ((s.writeRoute plane value).getD s)

end Sys2Proof.Machine
end

