-- ==== Sys2Proof/Machine/Supervisor.lean ====
section
/-! DEFINITION. The instructions 0xE0 to 0xE4 (R458 to R463) and what the row manager does for them: PTEST's answer and the
row-manager watchdog. -/

namespace Sys2Proof.Machine

open Sys2Proof

/-- The QUIESCE marker of the cut in progress enters the window of OUT[i] (R459). -/
def Cell.forwardMarker (c : Cell) (i : Nat) : Cell :=
  let c := c.enterWindow i ⟨at_ 2 56 ||| c.qcut.zeroExtend 64, false⟩ 7 0 0
  c.setOut i { c.outEp i with fwd := true }

/-- The markers of the ports go out in order; a port already forwarded is skipped, and the task sleeps at one without room
(R450, R459). -/
def forwardOn (s : State) (c : Cell) : List Nat → Except Stop Cell
  | [] => .ok c
  | i :: is =>
    if (c.outEp i).fwd then forwardOn s c is
    else if (c.outEp i).room = 0 then .error (.waitIn s c .pushFull (.room i 1))
    else forwardOn s (c.forwardMarker i) is

/-- QFWD (R459): needs QREQ, and every port of the mask enabled. -/
def execQfwd (h : Hdr) (f : FmtX) (s : State) : Host.Outcome State Fault Refusal :=
  issue (.qfwd h f) h s fun s c => do
    let m : BitVec 8 := f.ef.extractLsb' 3 8
    legal (c.qreq && (bitsOf m 8).all (fun i => (c.outEp i).en))
    let c ← forwardOn s c (bitsOf m 8)
    return { s, c }

/-- The cell parks at PARK once its items are settled, and sleeps until then (R450, R460). -/
def parkWhenSettled (s : State) (c : Cell) (why : PCause) : Res :=
  let s' := s.setCell s.cur { c with parkWait := some why }
  if s'.settled s.cur then .error (.other (s'.parkNow s.cur why))
  else .error (.waitIn s { c with parkWait := some why } .token .settled)

/-- PARK.CUT (R450, R460): legal only in entry 17 with QREQ. -/
def execParkCut (h : Hdr) (f : FmtX) (s : State) : Host.Outcome State Fault Refusal :=
  issue (.parkCut h f) h s fun s c => do
    legal (c.sys.entry = 17 && c.qreq)
    let c ← forwardOn s c ((upto 8).filter (fun i => (c.outEp i).en))
    parkWhenSettled s c .cut

/-- PARK.SELF (R460). -/
def execParkSelf (h : Hdr) (f : FmtX) (s : State) : Host.Outcome State Fault Refusal :=
  issue (.parkSelf h f) h s fun s c => parkWhenSettled s c .self

/-- Sequence number x lies between the oldest word of OUT[i] that consumer n has not retired and SEQ (R461). -/
def Cell.unretired (c : Cell) (i n : Nat) (x : BitVec 32) : Bool :=
  let e := c.outEp i
  let first := ((e.ents.find? (fun y => !y.acked.getLsbD n)).map (fun y => y.w.seq)).getD e.seq
  decide ((x - first).toNat ≤ (e.seq - first).toNat)

/-- A rewind of consumer n of OUT[i] of cell k from a sequence number; the rewind table of a consumer on another module is
that module's. -/
def State.rewindConsumer (s : State) (k i n : Nat) (from_ : BitVec 32) : State :=
  let d := ((s.cell k).outEp i).dstOf n
  let src : Src := .cell k i n
  if dstModule d = s.modNo then s.rewind (dstCell d) (dstPort d) src from_ ((s.cell k).outEp i).seq
  else s.modWindow src (modEnts (fun x => !x.acked.getLsbD n && seqFrom from_ x.w.seq)
    (fun x => { x with arrived := setBit x.arrived n false, stored := setBit x.stored n false }))

/-- REINJ (R461): a full rewind table makes it wait (R440). -/
def execReinj (h : Hdr) (f : FmtX) (s : State) : Host.Outcome State Fault Refusal :=
  issue (.reinj h f) h s fun s c => do
    let i := field f.ef 0 3
    regsReady c [f.a, f.b, f.d]
    let a ← readG c f.a.toNat
    let b ← readG c f.b.toNat
    let n := uns a.v
    let from_ : BitVec 32 := b.v.extractLsb' 0 32
    legal ((c.outEp i).en && decide (n ≤ (c.outEp i).mcm1.toNat) && field b.v 32 32 = 0 && c.unretired i n from_)
    clean 1 a
    clean 2 b
    let d := (c.outEp i).dstOf n
    let t := dstCell d
    if dstModule d = s.modNo ∧ 16 ≤ ((s.setCell s.cur c).cell t).rewinds.length then
      .error (.wait .token (.rewindRoom t))
    let c ← writeDst c f.d (.clean (ofNat ((s.setCell s.cur c).resent (.cell s.cur i n) from_)))
    let s' := (s.setCell s.cur c).rewindConsumer s.cur i n from_
    return { s := s', c := s'.cell s.cur }

/-- A PTEST sends its request to the row manager (R462): `sel` is 0 for a domain, 1 for a cell. -/
def ptest (i : Instr) (h : Hdr) (f : FmtX) (sel limit : Nat) (s : State) : Host.Outcome State Fault Refusal :=
  issue i h s fun s c => do
    regsReady c [f.a, f.d]
    let a ← readG c f.a.toNat
    legal (uns a.v < limit)
    clean 1 a
    let c ← claimDst c f.d
    return { s
             c := { c with ptests := c.ptests ++ [(f.d, c.tok i h, ofNat (sel * 2 ^ 32 + uns a.v))] }
             async := true }

/-- PTEST.DOM (R462). -/
def execPtestDom (h : Hdr) (f : FmtX) (s : State) : Host.Outcome State Fault Refusal :=
  ptest (.ptestDom h f) h f 0 4096 s

/-- PTEST.CELL (R462). -/
def execPtestCell (h : Hdr) (f : FmtX) (s : State) : Host.Outcome State Fault Refusal :=
  ptest (.ptestCell h f) h f 1 262144 s

/-- CSTAT of a cell (R429). -/
def Cell.cstat (c : Cell) : Word := at_ c.ident.dom.toNat 12 ||| at_ c.pcause.code 8 ||| at_ c.st.code 0

/-- The row manager answers the oldest PTEST of a cell (R462). -/
def execPtestReply (cell : Nat) (s : State) : Host.Outcome State Fault Refusal :=
  let c := s.cell cell
  match c.ptests with
  | (d, t, w) :: rest =>
    let v := if field w 32 1 = 0 then (s.row (yOf cell)).quinceOf (field w 0 12) else (s.cell (field w 0 18)).cstat
    .next (((s.setCell cell { c with ptests := rest }).asyncWrite cell d (.clean v) t).getD s)
  | [] => .next s

/-- WDOG.SET (R463): the limit in µs, from now. -/
def execWdogSet (h : Hdr) (f : FmtX) (s : State) : Host.Outcome State Fault Refusal :=
  issue (.wdogSet h f) h s fun s c => do
    let a ← readG c f.a.toNat
    legal (uns a.v ≠ 0 && decide (uns a.v < 2 ^ 32))
    clean 1 a
    return { s, c := { c with wdog := some (uns a.v, s.now) } }

/-- WDOG.OFF (R463). -/
def execWdogOff (h : Hdr) (f : FmtX) (s : State) : Host.Outcome State Fault Refusal :=
  issue (.wdogOff h f) h s fun s c => .ok { s, c := { c with wdog := none } }

/-- The limit of an armed row-manager watchdog expires: the cell parks with PCAUSE HANG, and kind 6 is recorded (R463). -/
def execRmWatchdogExpiry (cell : Nat) (s : State) : Host.Outcome State Fault Refusal :=
  let c := s.cell cell
  match c.wdog with
  | some (us, t) =>
    if s.now < t + us * microsecond ∨ c.started = false ∨ c.st = .parked then .next s
    else .next ((s.park cell { c with wdog := none } .hang 0 0).record (yOf cell) 6 c.ident.dom cell 0 (ofNat c.pc))
  | none => .next s

end Sys2Proof.Machine
end

