-- ==== Sys2Proof/Machine/ConfigStream.lean ====
section
/-! DEFINITION. The configuration stream (R43 to R53): the master's context for each issuer, the fields of the spaces with
their checks (R19, R48, R226, R227, R247, R255, R299, R313, R403, R404, R406, R487, R489), code and data stores, and START
(R50, R204, R244, R290, R500). -/

namespace Sys2Proof.Machine

open Sys2Proof

/-! ### Failure codes: the low byte of the codes of R467 -/

def cfCmd : Nat := 0x81
def cfRsv : Nat := 0x82
def cfElem : Nat := 0x83
def cfRange : Nat := 0x84
def cfBusy : Nat := 0x85

abbrev Cfg := Except Nat State

/-- CF_RANGE unless the condition holds. -/
def inRange_ (b : Bool) : Except Nat Unit := if b then .ok () else .error cfRange
/-- CF_BUSY unless the condition holds. -/
def notBusy (b : Bool) : Except Nat Unit := if b then .ok () else .error cfBusy
/-- A value fits n bits (R45). -/
def fits (v : BitVec 32) (n : Nat) : Bool := decide (v.toNat < 2 ^ n)

/-! ### Cells (space 0) -/

/-- A write to a free cell makes it CONFIGURED (R167). -/
def Cell.configured (c : Cell) : Cell := if c.st = .free then { c with st := .configured } else c

/-- A configuration write finds the cell not started, or parked (R52). -/
def Cell.writable (c : Cell) : Bool := !c.started || c.st = .parked

/-- Page 0 (R48). -/
def cfgIdentity (d : Ident) (f : Nat) (v : BitVec 32) : Except Nat Ident := do
  match f with
  | 0 => inRange_ (fits v 18); return { d with unit := v.extractLsb' 0 18 }
  | 1 => inRange_ (fits v 19); return { d with units := v.extractLsb' 0 19 }
  | 2 => inRange_ (fits v 16); return { d with node := v.extractLsb' 0 16 }
  | 3 => return { d with org0 := v }
  | 4 => return { d with org1 := v }
  | 5 => return { d with org2 := v }
  | 6 => return { d with org3 := v }
  | 7 => return { d with ext0 := v }
  | 8 => return { d with ext1 := v }
  | 9 => return { d with ext2 := v }
  | 10 => return { d with ext3 := v }
  | 11 => inRange_ (fits v 12); return { d with dom := v.extractLsb' 0 12 }
  | 12 => return { d with load := d.load.extractLsb' 32 32 ++ v }
  | 13 => return { d with load := v ++ d.load.extractLsb' 0 32 }
  | _ => .error cfRange

/-- Two valid message entries that bind one port have disjoint TAGS (R20). -/
def Cell.tagsDisjoint (c : Cell) : Bool :=
  (upto 16).all (fun a => (upto 16).all (fun b =>
    decide (b ≤ a) || !c.valid a || !c.valid b || c.portOf a ≠ c.portOf b || (c.tagsOf a &&& c.tagsOf b) = 0))

/-- Page 1 (R19, R20, R22). -/
def cfgHandler (c : Cell) (f : Nat) (v : BitVec 32) : Except Nat Cell := do
  let n := f / 2
  inRange_ (decide (f < 40))
  if f % 2 = 0 then
    inRange_ (fits v 17 && (decide (n < 16) || field v 11 5 = 0))
    let c := { c with ha := SMap.put c.ha n v }
    inRange_ c.tagsDisjoint
    return c
  else
    inRange_ (fits v 16 && (decide (n < 16) || v = 0))
    let c := { c with hb := SMap.put c.hb n v }
    inRange_ c.tagsDisjoint
    return c

/-- Field g of the endpoints of port i, pages 2 and 3 (R226). -/
def cfgEndpoint (c : Cell) (i g : Nat) (v : BitVec 32) : Except Nat Cell := do
  let e := c.inEp i
  let o := c.outEp i
  match g with
  | 0 =>
    let lg := (log2capOf (field v 17 4)).toNat
    let base := field v 0 17
    inRange_ (fits v 21 && decide (6 ≤ lg) && decide (lg ≤ 16) && base % 2 ^ lg = 0 && decide (base + 2 ^ lg ≤ 0x20000))
    return c.setIn i { e with rbase := v.extractLsb' 0 17, log2cap := log2capOf (field v 17 4) }
  | 1 =>
    inRange_ (fits v 10)
    return c.setIn i { e with diven := v.getLsbD 9, en := v.getLsbD 8, acc := v.extractLsb' 0 8 }
  | 2 =>
    inRange_ (fits v 16)
    return c.setIn i { e with stk := v.extractLsb' 0 16 }
  | 3 =>
    let mc := field v 7 3
    inRange_ (fits v 12 && (!v.getLsbD 6 || mc = 0) && (!v.getLsbD 0 || !e.diven || e.en) && (upto 8).all (fun n => decide (n ≤ mc) || o.dstOf n = 0))
    return c.setOut i { o with
      lagt := v.extractLsb' 10 2, mcm1 := v.extractLsb' 7 3, path := v.getLsbD 6, prio := v.extractLsb' 4 2
      deftag := v.extractLsb' 1 3, en := v.getLsbD 0 }
  | 4 =>
    let base := field v 11 17
    let w := field v 0 11
    inRange_ (fits v 28 && base % 16 = 0 && decide (w ≤ 1024) && (!o.en || w ≠ 0) && decide (base + 16 * w ≤ 0x20000))
    return c.setOut i { o with win := v.extractLsb' 0 11, rpbase := v.extractLsb' 11 17, rph := 0 }
  | 5 => return c.setOut i { o with seq := v }
  | _ =>
    let n := g - 6
    inRange_ (fits v 31 && (decide (n ≤ o.mcm1.toNat) || v = 0))
    return c.setOut i { o with dst := SMap.put o.dst n v }

/-- Pages 2 and 3 (R226). -/
def cfgPorts (c : Cell) (page f : Nat) (v : BitVec 32) : Except Nat Cell :=
  if f < 56 then cfgEndpoint c (4 * (page - 2) + f / 14) (f % 14) v
  else if page = 2 ∧ f = 56 then .ok { c with callq := v }
  else if page = 2 ∧ f = 57 then .ok { c with phaseq := v }
  else .error cfRange

/-- Another enabled handle names the EAG (R247). -/
def State.eagNamed (s : State) (k h : Nat) (n : Nat) : Bool :=
  s.cells.any (fun x => (upto 2).any (fun j =>
    !(x.1 = k && j = h) && (SMap.get 0 x.2.eagh j).getLsbD 8 && field (SMap.get 0 x.2.eagh j) 0 8 = n))

/-- Page 4 (R227, R247). -/
def cfgChain (s : State) (k : Nat) (c : Cell) (f : Nat) (v : BitVec 32) : Except Nat Cell := do
  if f ≤ 3 then
    inRange_ (decide (v.toNat ≤ 65536))
    return { c with chain := { c.chain with lim := SMap.put c.chain.lim f v.toNat } }
  else if f = 4 then
    inRange_ (fits v 5 && (c.inEp (field v 0 3)).en)
    return { c with chain := { c.chain with port := v.extractLsb' 0 3, idx := v.getLsbD 3, mark := v.getLsbD 4 } }
  else if f ≤ 20 then return { c with semInit := SMap.put c.semInit (f - 5) v }
  else if f ≤ 22 then
    inRange_ (fits v 9 && !(v.getLsbD 8 && s.eagNamed k (f - 21) (field v 0 8)))
    return { c with eagh := SMap.put c.eagh (f - 21) (v.extractLsb' 0 12) }
  else .error cfRange

/-- A circuit lane, page 6 fields 0 to 15 (R404). -/
def cfgLane (c : Cell) (f : Nat) (v : BitVec 32) : Except Nat Cell := do
  if f < 8 then inRange_ (fits v 12 && field v 5 2 = 0 && field v 0 2 = 0 && (v.getLsbD 10 || field v 7 3 = 0))
  else inRange_ (fits v 12 && field v 3 8 = 0)
  return { c with lanes := SMap.put c.lanes f v }

/-- The slots of a mask hold cells of the load of the strip's slot-0 cell (R299). -/
def State.slotsInLoad (s : State) (st : Nat) (mask : BitVec 8) : Bool :=
  let l := (s.cell (cellOfStrip st 0)).ident.load
  (bitsOf mask 8).all (fun j =>
    let d := (s.cell (cellOfStrip st j)).ident
    d.load = l && d.units ≠ 0)

/-- The fields of the event unit, page 6 of the strip's slot-0 cell (R299). -/
def cfgEvents (s : State) (k f : Nat) (v : BitVec 32) : Cfg := do
  let st := stripOf k
  inRange_ (slotOf k = 0)
  let l := (s.cell k).ident.load
  notBusy ((upto 8).all (fun j =>
    let c := s.cell (cellOfStrip st j)
    c.writable || c.ident.load ≠ l))
  let t := s.strip st
  if f = 32 then
    inRange_ (fits v 16)
    return s.setStrip st { t with par := v }
  else if f ≤ 40 then
    inRange_ (fits v 16)
    return s.setStrip st { t with kids := SMap.put t.kids (f - 33) v }
  else if f ≤ 44 then
    let part : BitVec 8 := v.extractLsb' 0 8
    inRange_ (fits v 10 && (!v.getLsbD 9 || ((v.getLsbD 8 || part ≠ 0) && s.slotsInLoad st part)))
    let n := f - 41
    return s.setStrip st { t with bars := SMap.put t.bars n { SMap.get {} t.bars n with cfg := v } }
  else
    inRange_ (fits v 11 && (!v.getLsbD 10 || s.slotsInLoad st (v.extractLsb' 0 8)))
    let n := f - 45
    return s.setStrip st { t with evs := SMap.put t.evs n { SMap.get {} t.evs n with cfg := v } }

/-- The range base of a watchpoint is a multiple of its size, and its CTL is legal (R487). -/
def Cell.watchLegal (c : Cell) (n : Nat) : Bool :=
  let ctl := c.debugField (4 + 4 * n)
  let base := (c.debugField (5 + 4 * n)).toNat + field (c.debugField (6 + 4 * n)) 0 25 * 2 ^ 32
  let lg := field ctl 0 6
  (ctl.getLsbD 10 || !ctl.getLsbD 7) && decide (lg ≤ (if ctl.getLsbD 10 then 56 else 17)) && base % 2 ^ lg = 0

/-- Page 7 (R487). -/
def cfgDebug (c : Cell) (f : Nat) (v : BitVec 32) : Except Nat Cell := do
  inRange_ (decide (f ≤ 13))
  let width := if f = 5 ∨ f = 9 ∨ f = 12 then 32 else if f = 6 ∨ f = 10 then 25 else if f = 13 then 11 else 12
  inRange_ (fits v width && (f ≠ 12 || v = 0 || decide (256 ≤ v.toNat)))
  let c := { c with dbg := { c.dbg with f := SMap.put c.dbg.f f v } }
  inRange_ (decide (f < 4) || decide (12 ≤ f) || c.watchLegal ((f - 4) / 4))
  return c

/-- A write of field f of cell k (R47): PAGE, the vector weight and page 7 also in a started cell (R313, R487). -/
def cfgCell (s : State) (k f : Nat) (v : BitVec 32) : Cfg := do
  let c := s.cell k
  if f = 63 then
    inRange_ (fits v 3)
    return s.setCell k ({ c with page := v.extractLsb' 0 3 }).configured
  else
    let p := c.page.toNat
    notBusy (c.writable || p = 7 || (p = 5 && f = 0) || (p = 6 && decide (32 ≤ f)))
    match p with
    | 0 => return s.setCell k ({ c with ident := ← cfgIdentity c.ident f v }).configured
    | 1 => return s.setCell k (← cfgHandler c f v).configured
    | 4 => return s.setCell k (← cfgChain s k c f v).configured
    | 5 =>
      inRange_ (f = 0 && fits v 4 && v ≠ 0)
      return s.setCell k ({ c with vec := { c.vec with weight := v.extractLsb' 0 4 } }).configured
    | 6 =>
      if f < 16 then return s.setCell k (← cfgLane c f v).configured
      else if 32 ≤ f ∧ f ≤ 52 then return (← cfgEvents s k f v).modCell k Cell.configured
      else .error cfRange
    | 7 => return s.setCell k (← cfgDebug c f v).configured
    | _ => return s.setCell k (← cfgPorts c p f v).configured

/-! ### Blocks (space 1, R489) -/

def cfgBlock (s : State) (b f : Nat) (v : BitVec 32) : Cfg := do
  let x := s.block b
  if f = 56 then
    inRange_ (fits v 12 && field v 5 3 = 0 && decide (3 ≤ field v 0 5) && decide (field v 0 5 ≤ 24))
    return s.setBlock b { x with tw := SMap.put x.tw f v }
  else if f = 57 then
    inRange_ (fits v 25)
    return s.setBlock b { x with tw := SMap.put x.tw f v }
  else if f = 58 then
    inRange_ (fits v 12)
    return s.setBlock b { x with tw := SMap.put x.tw f v }
  else if f = 59 then
    inRange_ (decide (v.toNat ≤ 64))
    return s.setBlock b { x with budget := some v.toNat }
  else if f = 60 then
    inRange_ (fits v 1)
    return s.setBlock b { x with govTrc := v.getLsbD 0 }
  else
    inRange_ (f = 61 && v = 0)
    return s

/-! ### Edge engines (space 2) -/

/-- A field of an EAG (R255). -/
def cfgEag (s : State) (e f : Nat) (v : BitVec 32) : Cfg := do
  let g := s.eag e
  inRange_ (decide (f < 34) || (f = 40 && fits v 12))
  notBusy g.run.isNone
  if f = 40 then return s.setEag e { g with dom := v.extractLsb' 0 12 }
  else
    let r := f / 2
    let w := g.reg r
    let w' : Word := if f % 2 = 0 then w.extractLsb' 32 32 ++ v else v ++ w.extractLsb' 0 32
    return s.setEag e (g.setReg r w')

/-- A field of a link port (R403): the routing tables may be written at any time, a channel while it is disabled, every other field
while the port is. -/
def cfgPort (s : State) (p f : Nat) (v : BitVec 32) : Cfg := do
  let x := s.linkPort p
  let en := x.enabled
  let first := p % 8 = 0
  if f = 0 then
    inRange_ (fits v 9)
    notBusy (!en)
    return s.setLinkPort p { x with ctl := v }
  else if f = 1 then
    inRange_ (fits v 10)
    notBusy (!en)
    return s.setLinkPort p { x with peer := v }
  else if f = 2 then
    inRange_ (first && fits v 12 && !v.getLsbD 10)
    return s.setLinkPort p { x with tidx := v }
  else if f = 3 then
    inRange_ (first && fits v 4)
    match s.writeRoute (p / 8) (v.extractLsb' 0 12) with
    | some s' => return s'
    | none => .error cfBusy
  else if f = 4 then
    inRange_ (first && fits v 1)
    return s.switchPlane (p / 8) (v.getLsbD 0)
  else
    inRange_ (decide (8 ≤ f) && decide (f ≤ 23) && field v 0 20 = 0)
    notBusy (!(SMap.get 0 x.cch (f - 8)).getLsbD 31)
    return s.setLinkPort p { x with cch := SMap.put x.cch (f - 8) v }

/-- A field of the exchange arbiter (R406). An enabled group starts its heartbeat (R416) and has the circuits that a phase may take
(R412). -/
def cfgArbiter (s : State) (f : Nat) (v : BitVec 32) : Cfg := do
  if f = 0 then
    inRange_ (fits v 14)
    return { s with carrier := { s.carrier with xsel := v } }
  else
    inRange_ (decide (f ≤ 4))
    let n := field s.carrier.xsel 10 4
    let g := s.xgroup n
    notBusy (!g.en || (f = 1 && !v.getLsbD 31))
    if f = 1 then
      inRange_ (v.getLsbD 30 || decide (field v 20 10 ≤ 63))
      let g := { g with cfg := v }
      let g := if v.getLsbD 31 then
          { g with round := 0, posts := [], rounds := [], taken := false, dead := false, beatAt := s.now, reserved := g.np * g.each }
        else g
      return s.setXgroup n g
    else if f = 2 then
      inRange_ (fits v 31 && field v 0 3 = 0)
      return s.setXgroup n { g with agents := SMap.put g.agents (field s.carrier.xsel 0 10) v }
    else if f = 3 then
      inRange_ (field v 10 21 = 0 && (!v.getLsbD 31 || field v 0 10 ≠ s.modNo.toNat))
      return s.setXgroup n { g with stby := v }
    else
      inRange_ (fits v 6 && v ≠ 0 && decide (v.toNat ≤ 32))
      return s.setXgroup n { g with lanes := v }

/-- A write of field f of element e of space 2; HBM controllers and host ports have no field (R44). -/
def cfgEdge (s : State) (e f : Nat) (v : BitVec 32) : Cfg :=
  if e < 256 then cfgEag s e f v
  else if 280 ≤ e ∧ e ≤ 311 then cfgPort s (e - 280) f v
  else if e = 316 then cfgArbiter s f v
  else .error cfRange

/-! ### The master (R43 to R49) -/

/-- The context a master keeps for an issuer. -/
def masterKey (m : Master) : Nat := 1024 * m.row + m.issuer
def State.issuer (s : State) (m : Master) : Issuer := SMap.get {} s.issuers (masterKey m)
def State.setIssuer (s : State) (m : Master) (x : Issuer) : State := { s with issuers := SMap.put s.issuers (masterKey m) x }
def State.report (s : State) (m : Master) (w : Word) : State := { s with reports := s.reports ++ [((masterKey m), w)] }

/-- The elements of each space (R44). -/
def spaceSize (sp : Nat) : Nat := if sp = 0 then 262144 else if sp = 1 then 4096 else if sp = 2 then 317 else 1

/-- The space and the element that a command addresses: CF_CMD before the first BASE, CF_ELEM beyond the space. -/
def Issuer.target (x : Issuer) (off : Nat) : Except Nat (Nat × Nat) := do
  if !x.based then .error cfCmd
  let sp := x.space.toNat
  if spaceSize sp ≤ x.base + off then .error cfElem
  return (sp, x.base + off)

/-- A command of n words is carried out, or stops the stream with a FAIL report of its code and of the index of its first
word (R46, R49). A stopped stream discards it. -/
def runCommand (m : Master) (n : Nat) (act : State → Issuer → Cfg) (s : State) : Host.Outcome State Fault Refusal :=
  let x := s.issuer m
  if x.stopped then .next (s.setIssuer m { x with based := false })
  else
    let s' := s.setIssuer m { x with words := x.words + n }
    match act s' x with
    | .ok t => .next t
    | .error code =>
      .next ((s'.setIssuer m { x with words := x.words + n, stopped := true, based := false }).report m
        (at_ 2 56 ||| at_ code 48 ||| ofNat (x.words % 2 ^ 32)))

/-- A field write in the current space (R43 to R46): `wide` tells WIDE from WRITE. -/
def writeField (m : Master) (off f : Nat) (v : BitVec 32) (wide : Bool) (s : State) (x : Issuer) : Cfg := do
  let (sp, e) ← x.target off
  match sp with
  | 0 => cfgCell s e f v
  | 1 => cfgBlock s e f v
  | 2 => cfgEdge s e f v
  | _ =>
    inRange_ (!wide && (f = 0 || (f = 1 && v = 0)))
    if f = 0 then return s.report m (at_ 1 56 ||| v.zeroExtend 64)
    else return s.setIssuer m { s.issuer m with words := 0 }

/-- A WRITE of a field; in space 3 a WRITE of CLRERR also ends the stopped state, after a BASE to space 3 (R46). -/
def runWrite (m : Master) (off f : Nat) (v : BitVec 32) (s : State) : Host.Outcome State Fault Refusal :=
  let x := s.issuer m
  if x.stopped ∧ x.based ∧ x.space = 3 ∧ f = 1 ∧ v = 0 ∧ x.base + off = 0 then
    .next (s.setIssuer m { x with stopped := false, words := 0 })
  else if x.stopped then .next (s.setIssuer m { x with based := false })
  else runCommand m 1 (writeField m off f v false) s

/-- WRITE (R43). -/
def execWrite (m : Master) (offset : BitVec 10) (field : BitVec 6) (value : BitVec 12) (s : State) :
    Host.Outcome State Fault Refusal :=
  runWrite m offset.toNat field.toNat (value.zeroExtend 32) s

/-- MARK, a WRITE of field 0 in space 3 (R46). -/
def execMark (m : Master) (offset : BitVec 10) (value : BitVec 12) (s : State) : Host.Outcome State Fault Refusal :=
  runWrite m offset.toNat 0 (value.zeroExtend 32) s

/-- CLRERR, a WRITE of field 1 in space 3 (R46). -/
def execClrerr (m : Master) (offset : BitVec 10) (value : BitVec 12) (s : State) : Host.Outcome State Fault Refusal :=
  runWrite m offset.toNat 1 (value.zeroExtend 32) s

/-- BASE (R43, R44): a stopped stream takes only a BASE to space 3. -/
def execBase (m : Master) (space : BitVec 3) (element : BitVec 18) (s : State) : Host.Outcome State Fault Refusal :=
  let x := s.issuer m
  let set (x : Issuer) : Issuer := { x with based := true, space, base := element.toNat }
  if x.stopped then
    .next (s.setIssuer m (if space = 3 ∧ element = 0 then set x else { x with based := false }))
  else
    runCommand m 1 (fun s _ => do
      if 4 ≤ space.toNat then .error cfRsv
      if spaceSize space.toNat ≤ element.toNat then .error cfElem
      return s.setIssuer m (set (s.issuer m))) s

/-- WIDE (R43). -/
def execWide (m : Master) (offset : BitVec 10) (field : BitVec 6) (value : BitVec 32) (s : State) :
    Host.Outcome State Fault Refusal :=
  runCommand m 2 (writeField m offset.toNat field.toNat value true) s

/-- A first word with a reserved code or a nonzero bit that R43 marks zero (R44). -/
def execCfgReservedCommand (m : Master) (_w : BitVec 32) (s : State) : Host.Outcome State Fault Refusal :=
  runCommand m 1 (fun _ _ => .error cfCmd) s

/-- A command to a cell: legal only in space 0 (R44). -/
def cellTarget (x : Issuer) (off : Nat) : Except Nat Nat := do
  if !x.based ∨ x.space ≠ 0 then .error cfCmd
  let (_, e) ← x.target off
  return e

/-- ISTORE (R43, R52). -/
def execIstore (m : Master) (offset : BitVec 10) (index : BitVec 11) (data : Word) (s : State) :
    Host.Outcome State Fault Refusal :=
  runCommand m 3 (fun s x => do
    let k ← cellTarget x offset.toNat
    let c := s.cell k
    notBusy c.writable
    return s.setCell k (c.setCode index.toNat data).configured) s

/-- LSTORE (R43, R52): the word is written clean; while its group is rebuilt the command waits (R273). -/
def execLstore (m : Master) (offset : BitVec 10) (word : BitVec 14) (data : Word) (s : State) :
    Host.Outcome State Fault Refusal :=
  let x := s.issuer m
  if x.stopped = false ∧ x.based ∧ x.space = 0 ∧ s.storeBusyAt (x.base + offset.toNat) (8 * word.toNat) then .next s
  else
    runCommand m 3 (fun s x => do
      let k ← cellTarget x offset.toNat
      let c := s.cell k
      notBusy c.writable
      return s.setCell k (c.stWord (8 * word.toNat) ⟨data, false⟩).configured) s

/-! ### START (R50, R105, R204, R244, R290, R366, R500) -/

/-- Item n of a kind that a row manager has written since the cell became CONFIGURED keeps its value: kind 0 is the
semaphores, kind 1 the bindings of the ports. The value of sys.clk so written stands in `startAt`, which is 0 without it. -/
def Cell.keeps (c : Cell) (kind n : Nat) : Bool := c.kept.contains (kind, n)

/-- The bindings of a cell at START (R204). -/
def Cell.bindAll (c : Cell) : Cell :=
  { c with bind := (upto 8).map (fun i =>
      (i, if c.keeps 1 i then c.binding i else if (c.inEp i).en then (1 : BitVec 2) else if (c.outEp i).en then 2 else 0)) }

/-- The semaphores take SEMINIT (R244, R247). -/
def Cell.initSems (c : Cell) : Cell :=
  (upto 16).foldl (fun c n => if c.keeps 0 n then c else c.setSem n ⟨(SMap.get 0 c.semInit n).zeroExtend 40, false⟩) c

/-- The event unit's state takes its reset values for a load, and so does the strip's reservation; the lines keep their
configuration (R290, R366). -/
def Strip.fresh (t : Strip) (load : BitVec 64) : Strip :=
  { t.clearEvents with live := some load, mat := { t.mat with rsv := 0 } }

/-- The load whose cells configure the lines of a strip: that of slot 0, or where that cell is FREE of the first cell that is not
(R290, R299). -/
def State.stripLoad (s : State) (st : Nat) : Option (BitVec 64) :=
  ((upto 8).find? (fun j => (s.cell (cellOfStrip st j)).st ≠ .free)).map (fun j => (s.cell (cellOfStrip st j)).ident.load)

/-- START of a CONFIGURED cell; the first START of the strip's load in a strip resets the strip's state. Every other item holds its
reset value, or what a row manager wrote (R500); the next join of the cell is for the next group (R369). -/
def State.startCell (s : State) (k : Nat) : State :=
  let c := s.cell k
  if c.st = .configured then
    let st := stripOf k
    let t := s.strip st
    let s := if s.stripLoad st = some c.ident.load ∧ t.live ≠ some c.ident.load then s.setStrip st (t.fresh c.ident.load) else s
    let c := { c with mat := { c.mat with joined := t.mat.next } }
    s.setCell k ({ c.bindAll.initSems with st := .idle, startAt := c.startAt + ofNat s.now, kept := [], last := [] }.noteRunnable s.now)
  else s

/-- START (R43, R50). -/
def execStart (m : Master) (offset : BitVec 10) (s : State) : Host.Outcome State Fault Refusal :=
  runCommand m 1 (fun s x => do
    let k ← cellTarget x offset.toNat
    notBusy (!(s.cell k).started)
    return s.startCell k) s

end Sys2Proof.Machine
end

