-- ==== Sys2Proof/Machine/Pages.lean ====
section
/-! DEFINITION. What the pages of the register window read as (R425, R426, R428, R429), and what a write does to a page whose layout
the spec does not give: opaque constants say which item a word holds, and how its value stands in the word (log entry 32). -/

namespace Sys2Proof.Machine

open Sys2Proof

/-! ### The cell page (R428, R429) -/

/-- CCTL: a park asked for and RPL. -/
def Cell.cctl (c : Cell) : Word := at_ (b2n c.rmParkReq) 2 ||| at_ (b2n c.abortReq) 1 ||| at_ (b2n c.rplReg) 0

def SlotState.code : SlotState → Nat
  | .idle => 0 | .pending => 1 | .faulted => 2

/-- RESV and the slot states. -/
def Cell.resvSlots (c : Cell) : Word :=
  (upto 8).foldl (fun w i => w ||| at_ (b2n (c.inEp i).res.isSome) (16 + i) ||| at_ (c.slot i).code (2 * i)) 0

/-- GPOIS. -/
def Cell.gpois (c : Cell) : Word := (upto 56).foldl (fun w n => w ||| at_ (b2n (c.reg n).p) n) 0

/-- What the fault record of a slot says: the PC, the opcode and the cause of O (R77); 0 for a slot without one. -/
def Cell.faultWord (c : Cell) (j : Nat) : Word :=
  match c.faults.find? (fun r => r.slots.getLsbD j) with
  | some r => at_ r.pc 0 ||| at_ r.opb.toNat 11 ||| at_ r.cause.toNat 19
  | none => 0

/-- A fault record of a slot is written: the record that the slot has, or a new one, takes PC, opcode and cause. -/
def Cell.setFault (c : Cell) (j : Nat) (v tval : Word) : Cell :=
  let upd (r : FaultRec) : FaultRec :=
    { r with pc := field v 0 11, opb := v.extractLsb' 11 8, cause := v.extractLsb' 19 8 }
  if c.faults.any (fun r => r.slots.getLsbD j) then
    { c with faults := c.faults.map (fun r => if r.slots.getLsbD j then upd r else r) }
  else
    { c with faults := c.faults ++ [upd ⟨c.iseq, 0, 0, 0, tval, BitVec.ofNat 3 j, oneBit 8 j, false, false⟩] }

/-- Word n of the pending-read record: of each read its address, size and SX, then D and its slot (R450). -/
def Cell.pendingWord (c : Cell) (n : Nat) : Word :=
  match c.pendingReads[n / 2]? with
  | some r =>
    if n % 2 = 0 then at_ r.va 0 ||| at_ (Nat.log2 r.size) 57 ||| at_ (b2n r.sx) 59
    else at_ r.d.toNat 0 ||| at_ ((r.tok.slot.map BitVec.toNat).getD 0) 6 ||| at_ (b2n r.tok.slot.isSome) 9
  | none => 0

/-- Word n of the pending-read record is written; the word after the last read makes room for one more. -/
def Cell.setPending (c : Cell) (n : Nat) (v : Word) : Cell :=
  let rs := if n / 2 = c.pendingReads.length then c.pendingReads ++ [⟨0, 1, false, 0, ⟨none, c.iseq, c.pc, 0, 0, false, 0⟩⟩]
    else c.pendingReads
  let upd (r : PendingRead) : PendingRead :=
    if n % 2 = 0 then { r with va := field v 0 57, size := 2 ^ field v 57 2, sx := v.getLsbD 59 }
    else { r with d := v.extractLsb' 0 6, tok := { r.tok with slot := if v.getLsbD 9 then some (v.extractLsb' 6 3) else none } }
  { c with pendingReads := rs.modify (n / 2) upd }

/-- An item of the checkpoint (R442). -/
def Cell.ckptWord (c : Cell) : CkptItem → Word
  | .pc => at_ c.ckpt.entry.toNat 16 ||| at_ c.ckpt.pc 0
  | .greg n => (SMap.get Val.zero c.ckpt.g n).v
  | .gpois => (upto 56).foldl (fun w n => w ||| at_ (b2n (SMap.get Val.zero c.ckpt.g n).p) n) 0
  | .res i =>
    match SMap.get none c.ckpt.res i with
    | some n => at_ 1 16 ||| at_ n 0
    | none => 0
  | .sem n => (SMap.get ({} : Sem) c.ckpt.sems n).word
  | .loop => c.ckpt.loop
  | .lfsr => c.ckpt.lfsr.zeroExtend 64
  | .flags => c.ckpt.flags.zeroExtend 64
  | .rm => c.ckpt.rm.zeroExtend 64
  | .vl => ofNat c.ckpt.vl
  | .seq i => (SMap.get 0 c.ckpt.seqs i).zeroExtend 64
  | .empty => 0

/-- Entry k of the rewind table (R440). -/
def Cell.rewindWord (c : Cell) (k : Nat) : Word :=
  match c.rewinds[k]? with
  | some r => at_ r.port.toNat 0 ||| at_ r.punit.toNat 3 ||| at_ r.expected.toNat 21 ||| at_ r.stop.toNat 37
  | none => 0

/-- The word at an offset of the page of cell k; addresses not listed read 0. -/
def State.cellPageWord (s : State) (k off : Nat) : Word :=
  let c := s.cell k
  let i := off % 0x40 / 8
  if off < 0x20000 then ofNat (c.store.read off 8)
  else if off < 0x24000 then c.code ((off - 0x20000) / 8)
  else if off = 0x30000 then c.cctl
  else if off = 0x30008 then c.cstat
  else if off = 0x30010 then at_ c.sys.entry.toNat 16 ||| at_ (c.pc % 2048) 0
  else if 0x30108 ≤ off ∧ off ≤ 0x302B8 then (c.reg ((off - 0x30100) / 8)).v
  else if off = 0x302C0 then c.gpois
  else if off = 0x302C8 then c.resvSlots
  else if 0x30300 ≤ off ∧ off < 0x30340 then Config.pageShow 0 off (c.faultWord i)
  else if 0x30340 ≤ off ∧ off < 0x30380 then ofNat ((c.inEp i).res.getD (c.inEp i).resOld)
  else if 0x30400 ≤ off ∧ off < 0x30450 then c.sysReg k s.now (32 + (off - 0x30400) / 8)
  else if 0x30500 ≤ off ∧ off < 0x30580 then (c.sem ((off - 0x30500) / 8)).word
  else if 0x30800 ≤ off ∧ off < 0x30C00 then Config.pageShow 0 off (c.ckptWord (Config.ckptItem ((off - 0x30800) / 8)))
  else if 0x31000 ≤ off ∧ off < 0x32000 then c.epWord (off - 0x31000)
  else if 0x32000 ≤ off ∧ off < 0x32040 then (c.inEp i).qnp.zeroExtend 64
  else if 0x32040 ≤ off ∧ off < 0x32080 then (c.inEp i).qc.zeroExtend 64
  else if 0x32080 ≤ off ∧ off < 0x320C0 then (c.outEp i).odom.zeroExtend 64
  else if off = 0x320C0 then at_ (b2n c.qreq) 32 ||| c.qcut.zeroExtend 64
  else if 0x32100 ≤ off ∧ off < 0x32180 then Config.pageShow 0 off (c.rewindWord ((off - 0x32100) / 8))
  else if 0x32200 ≤ off ∧ off < 0x32300 then Config.pageShow 0 off (c.pendingWord ((off - 0x32200) / 8))
  else if 0x38000 ≤ off ∧ off < 0x38800 then
    (upto 64).foldl (fun w j => w ||| at_ (b2n (c.storePoison.has ((off - 0x38000) * 8 + j))) j) 0
  else 0

/-! ### Strip pages (R290, R366, R425) -/

/-- 64 bits of a bit vector, from bit 64j on, as a word, and replaced by a word. -/
def chunk {n : Nat} (x : BitVec n) (j : Nat) : Word := x.extractLsb' (64 * j) 64
def setChunk {n : Nat} (x : BitVec n) (j : Nat) (v : Word) : BitVec n :=
  (x &&& ~~~((BitVec.allOnes 64).setWidth n <<< (64 * j))) ||| (v.setWidth n <<< (64 * j))

/-- ACCV: the value, its poison, its function, MIX, and whether it holds one. -/
def accvWord : Option Comb → Word
  | none => 0
  | some a => at_ 1 37 ||| at_ (b2n a.mix) 36 ||| at_ a.fn.toNat 33 ||| at_ (b2n a.p) 32 ||| a.v.zeroExtend 64
def accvOf (v : Word) : Option Comb :=
  if v.getLsbD 37 then some ⟨v.extractLsb' 0 32, v.getLsbD 32, v.extractLsb' 33 3, v.getLsbD 36⟩ else none

/-- Slots in order, 4 bits each: 8 and the slot. -/
def slotsWord : List Nat → Word
  | [] => 0
  | j :: js => (slotsWord js <<< 4) ||| at_ (8 + j % 8) 0
def slotsOf (v : Word) : List Nat :=
  (upto 16).filterMap (fun i => if v.getLsbD (4 * i + 3) then some (field v (4 * i) 3) else none)

/-- Word w of a pending join: its kind and fields, its descriptors, its scale. -/
def Join.word (x : Join) (w : Nat) : Word :=
  match w with
  | 0 => at_ x.kind 0 ||| at_ x.acc 2 ||| at_ x.n 5 ||| at_ x.kb 12 ||| at_ x.int 32 ||| at_ (b2n x.cut.1) 40 ||| at_ x.cut.2.toNat 41 |||
      at_ x.w 48
  | 1 => x.a
  | 2 => x.b
  | _ => ofInt x.t

/-- The value of an item of strip st. -/
def State.stripWord (s : State) (st : Nat) : StripItem → Word
  | .gen l => ((s.strip st).bar (l % 4)).gen.zeroExtend 64
  | .arr l => ((s.strip st).bar (l % 4)).arr.zeroExtend 64
  | .accv l => accvWord ((s.strip st).bar (l % 4)).accv
  | .res l => at_ (b2n ((s.strip st).bar (l % 4)).resP) 32 ||| ((s.strip st).bar (l % 4)).res.zeroExtend 64
  | .pend l => ((s.strip st).ev (l % 8)).pend.zeroExtend 64
  | .sigd l => ((s.strip st).ev (l % 8)).sigd.zeroExtend 64
  | .fcnt l => ((s.strip st).ev (l % 8)).fcnt.zeroExtend 64
  | .hold m => slotsWord ((s.strip st).mut (m % 4)).hold.toList
  | .wq m => slotsWord ((s.strip st).mut (m % 4)).wq
  | .acc i n j => chunk ((s.cell (cellOfStrip st (i % 8))).mat.accOf (n % 8)).d (j % 256)
  | .accPoison i n j => chunk ((s.cell (cellOfStrip st (i % 8))).mat.accOf (n % 8)).p (j % 8)
  | .join i n w =>
    (((s.cell (cellOfStrip st (i % 8))).mat.entries[n]?.bind MatEntry.join).map (fun x => x.word w)).getD 0
  | .rsv => ofNat (s.stripMat st).rsv
  | .empty => 0

/-- An accumulator of slot i is written. -/
def State.writeAcc (s : State) (st i n : Nat) (f : VReg → VReg) (gone : Nat → Bool) : State :=
  s.modCell (cellOfStrip st (i % 8)) (fun c => c.setMat { c.mat.setAcc (n % 8) (f (c.mat.accOf (n % 8))) with
    bad := c.mat.bad.filter (fun x => x.1 ≠ n % 8 || !gone x.2) })

/-- An item of strip st takes a value; pending joins are only read. -/
def State.setStripItem (s : State) (st : Nat) (v : Word) : StripItem → State
  | .gen l => s.setStrip st ((s.strip st).setBar (l % 4) { (s.strip st).bar (l % 4) with gen := v.extractLsb' 0 16 })
  | .arr l => s.setStrip st ((s.strip st).setBar (l % 4) { (s.strip st).bar (l % 4) with arr := v.extractLsb' 0 8 })
  | .accv l => s.setStrip st ((s.strip st).setBar (l % 4) { (s.strip st).bar (l % 4) with accv := accvOf v })
  | .res l => s.setStrip st ((s.strip st).setBar (l % 4)
      { (s.strip st).bar (l % 4) with res := v.extractLsb' 0 32, resP := v.getLsbD 32 })
  | .pend l => s.setStrip st ((s.strip st).setEv (l % 8) { (s.strip st).ev (l % 8) with pend := v.extractLsb' 0 8 })
  | .sigd l => s.setStrip st ((s.strip st).setEv (l % 8) { (s.strip st).ev (l % 8) with sigd := v.extractLsb' 0 8 })
  | .fcnt l => s.setStrip st ((s.strip st).setEv (l % 8) { (s.strip st).ev (l % 8) with fcnt := v.extractLsb' 0 16 })
  | .hold m => s.setStrip st ((s.strip st).setMut (m % 4) { (s.strip st).mut (m % 4) with hold := (slotsOf v).head? })
  | .wq m => s.setStrip st ((s.strip st).setMut (m % 4) { (s.strip st).mut (m % 4) with wq := (slotsOf v).eraseDups })
  | .acc i n j => s.writeAcc st i n (fun r => { r with d := setChunk r.d (j % 256) v }) (fun e => e / 2 = j % 256)
  | .accPoison i n j => s.writeAcc st i n (fun r => { r with p := setChunk r.p (j % 8) v }) (fun _ => false)
  | .join _ _ _ => s
  | .rsv => s.setStrip st { s.strip st with mat := { (s.strip st).mat with rsv := field v 0 4 } }
  | .empty => s

/-! ### Quad pages (R305, R310, R356, R364, R425) -/

/-- Word w of an entry of the vector queue. -/
def VEntry.word (e : VEntry) (w : Nat) : Word :=
  match w with
  | 0 => at_ e.op.toNat 56 ||| at_ e.mode.toNat 48 ||| at_ e.vl 32 ||| e.lfsr.zeroExtend 64
  | 1 => e.ga.v
  | 2 => e.gb.v
  | 3 => e.gc.v
  | _ => e.tok.word

/-- The value of an item of quad q. -/
def State.quadWord (s : State) (q : Nat) : QuadItem → Word
  | .vreg i n j => chunk ((s.cell (cellOfQuad q (i % 4))).vec.reg n).d (j % 256)
  | .vpoison i n j => chunk ((s.cell (cellOfQuad q (i % 4))).vec.reg n).p (j % 8)
  | .mreg i n j => chunk ((s.cell (cellOfQuad q (i % 4))).vec.mask n).b (j % 8)
  | .mpoison i n j => chunk ((s.cell (cellOfQuad q (i % 4))).vec.mask n).p (j % 8)
  | .vl i => ofNat (s.cell (cellOfQuad q (i % 4))).vec.vl
  | .queue i n w => (((s.cell (cellOfQuad q (i % 4))).vec.queue[n]?).map (fun e => e.word w)).getD 0
  | .pred i n w => (((s.cell (cellOfQuad q (i % 4))).vec.preds[n]?).map (fun e => e.word w)).getD 0
  | .count i n =>
    let v := (s.cell (cellOfQuad q (i % 4))).vec
    ofNat ([v.cnta, v.cntb, v.cntc, v.cntp].getD n 0)
  | .empty => 0

/-- An item of quad q takes a value; queue entries and predicates are only read. -/
def State.setQuadItem (s : State) (q : Nat) (v : Word) : QuadItem → State
  | .vreg i n j => s.modCell (cellOfQuad q (i % 4)) (fun c =>
      { c with vec := c.vec.setReg n { c.vec.reg n with d := setChunk (c.vec.reg n).d (j % 256) v } })
  | .vpoison i n j => s.modCell (cellOfQuad q (i % 4)) (fun c =>
      { c with vec := c.vec.setReg n { c.vec.reg n with p := setChunk (c.vec.reg n).p (j % 8) v } })
  | .mreg i n j => s.modCell (cellOfQuad q (i % 4)) (fun c =>
      { c with vec := c.vec.setMask n { c.vec.mask n with b := setChunk (c.vec.mask n).b (j % 8) v } })
  | .mpoison i n j => s.modCell (cellOfQuad q (i % 4)) (fun c =>
      { c with vec := c.vec.setMask n { c.vec.mask n with p := setChunk (c.vec.mask n).p (j % 8) v } })
  | .vl i => s.modCell (cellOfQuad q (i % 4)) (fun c => { c with vec := { c.vec with vl := min 512 (uns v) } })
  | .count i n => s.modCell (cellOfQuad q (i % 4)) (fun c =>
      { c with vec := match n with
        | 0 => { c.vec with cnta := uns v }
        | 1 => { c.vec with cntb := uns v }
        | 2 => { c.vec with cntc := uns v }
        | 3 => { c.vec with cntp := uns v }
        | _ => c.vec })
  | _ => s

/-! ### Block pages (R141, R248, R274, R425, R497) -/

def State.pwr (s : State) : Power := s.carrier.pwr

/-- GOV.BUDGET of block b: what was last written, less what heat takes. -/
def State.budget (s : State) (b : Nat) : Nat := (s.block b).budget.getD s.pwr.budget - 8 * s.pwr.hot

/-- The leave that a block's governor has granted. -/
def Block.heldUnits (x : Block) : Nat := x.held.foldl (fun n l => n + l.amount) 0

/-- Word w of a copy command. -/
def CopyCmd.word (m : CopyCmd) (w : Nat) : Word :=
  match w with
  | 0 => at_ m.cell 0 ||| at_ m.form 18 ||| at_ (b2n m.se) 21 ||| at_ m.sem 22 ||| at_ m.dom.toNat 32
  | 1 => ofNat m.dst
  | 2 => ofNat m.src
  | 3 => ofNat m.len
  | 4 => ofNat m.rows
  | 5 => ofInt m.sstr
  | 6 => ofInt m.dstr
  | _ => ofNat m.bytes

/-- Word w of an entry of the combining buffer: its line, which bytes it holds, and those bytes. -/
def CombEnt.word (e : CombEnt) (w : Nat) : Word :=
  if w = 0 then ofNat e.line
  else if w = 1 then e.bytes.foldl (fun v x => v ||| at_ 1 x.1) 0
  else (upto 8).foldl (fun v j => v ||| at_ (SMap.get 0 e.bytes (8 * (w - 2) + j)).toNat (8 * j)) 0

/-- The value of an item of block b. -/
def State.blockWord (s : State) (b : Nat) : BlockItem → Word
  | .mtstat => (s.block b).mtstat
  | .copy n w => ((((s.block b).running ++ (s.block b).copyq)[n]?).map (fun m => m.word w)).getD 0
  | .governor => at_ (s.block b).heldUnits 32 ||| at_ (s.budget b) 0
  | .request n => (((s.block b).reqs[n]?).map (fun l => at_ l.amount 0 ||| at_ l.clk 16)).getD 0
  | .comb n w => (((s.block b).comb[n]?).map (fun e => e.word w)).getD 0
  | .empty => 0

/-! ### The register pages of the edge engines (R426) -/

/-- Configuration field f of edge engine e. -/
def State.edgeField (s : State) (e f : Nat) : BitVec 32 :=
  if e < 256 then
    let g := s.eag e
    if f < 34 then (g.reg (f / 2)).extractLsb' (32 * (f % 2)) 32 else if f = 40 then g.dom.zeroExtend 32 else 0
  else if 280 ≤ e ∧ e ≤ 311 then
    let x := s.linkPort (e - 280)
    match f with
    | 0 => x.ctl
    | 1 => x.peer
    | 2 => x.tidx
    | 3 => x.tdata
    | 4 => if (e - 280) % 8 = 0 then BitVec.ofNat 32 (b2n (s.plane ((e - 280) / 8)).act) else 0
    | _ => if 8 ≤ f ∧ f ≤ 23 then SMap.get 0 x.cch (f - 8) else 0
  else if e = 316 then
    let g := s.xgroup (field s.carrier.xsel 10 4)
    match f with
    | 0 => s.carrier.xsel
    | 1 => g.cfg
    | 2 => SMap.get 0 g.agents (field s.carrier.xsel 0 10)
    | 3 => g.stby
    | 4 => g.lanes
    | _ => 0
  else 0

/-- The word at an offset of the register page of edge engine e. -/
def State.edgeWord (s : State) (e off : Nat) : Word :=
  if off < 0x200 then (s.edgeField e (off / 8)).zeroExtend 64
  else if e < 256 then
    if off = 0x8000 then (s.eag e).reg 16 else if off = 0x8008 then (s.eag e).reg 17 else 0
  else if 280 ≤ e ∧ e ≤ 311 ∧ off = 0x8000 then
    let x := s.linkPort (e - 280)
    at_ x.peerMod.toNat 9 ||| at_ (b2n x.up) 8 ||| x.good.zeroExtend 64
  else 0

/-- MDLCTL (R426). -/
def Debug.mdlctl (d : Debug) : Word := at_ d.fcnt.toNat 32 ||| at_ (b2n d.fpin) 26 ||| at_ d.frow.toNat 17

/-- PDR[q]: DR[1] and DR[0] of plane q (R402, R426). -/
def State.pdr (s : State) (q : Nat) : Word := at_ (b2n (s.drained q true)) 1 ||| at_ (b2n (s.drained q false)) 0

/-- The word at an offset of the edge-engine window (R426). -/
def State.edgeWindowWord (s : State) (off : Nat) : Word :=
  if off = 0 then s.carrier.dbg.mdlctl
  else if 0x1000 ≤ off ∧ off < 0x2000 then (s.row ((off - 0x1000) / 8)).hbeat
  else if 0x2000 ≤ off ∧ off < 0x2020 then s.pdr ((off - 0x2000) / 8)
  else if 0x1000000 ≤ off ∧ (off - 0x1000000) / 0x10000 ≤ 316 then
    s.edgeWord ((off - 0x1000000) / 0x10000) ((off - 0x1000000) % 0x10000)
  else 0

end Sys2Proof.Machine
end

