-- ==== Sys2Proof/Machine/Window.lean ====
section
/-! DEFINITION. The register window of a row manager (R425 to R432, R434, R456): reads and writes of its pages, the Quince map, the
edge engines, the heartbeats and physical memory; the fault queue, MTSTAT, heartbeats and takeover; the reset of shared
control state (R439); and the request of a freeze (R493). -/

namespace Sys2Proof.Machine

open Sys2Proof

/-- What a write to a window does: it is applied, discarded with a record of kind 9, raises an access fault in the core (R425), or has
to wait. -/
inductive WinRes where
  | ok (s : State)
  | discard
  | fault
  | wait

/-! ### Endpoint state, every field writable (R229, R428) -/

/-- IST and ICFG of inbound endpoint i. HB is not stored: the head buffer is loaded from the ring (R216, R430). A word that
a larger OCC brings in has no known sender. -/
def Cell.writeIn (c : Cell) (i r : Nat) (v : Word) : Cell :=
  let e := c.inEp i
  match r with
  | 0 =>
    let occ := field v 0 13
    let n := field v 48 16
    let b := c.binding i
    { c.setIn i { e with
        res := if v.getLsbD 43 then some n else none
        resOld := n
        waiting := if v.getLsbD 47 then e.waiting else []
        tagf := v.getLsbD 46
        ovr := v.getLsbD 45
        tail := field v 28 12
        head := field v 16 12
        occ
        metas := (e.metas ++ List.replicate (occ - e.metas.length) (⟨.chain, 0⟩ : Origin)).take occ
        hb := [] } with
      bind := SMap.put c.bind i (if v.getLsbD 44 then 1 else if b = 1 then 0 else b), kept := (1, i) :: c.kept }
  | 8 => c.setIn i { e with
      en := v.getLsbD 52, stk := v.extractLsb' 36 16, diven := v.getLsbD 32, acc := v.extractLsb' 24 8
      log2cap := log2capOf (field v 17 4), rbase := v.extractLsb' 0 17 }
  | _ => c

/-- Entry k of the replay buffer of OUT[i] as the k-th of n words in its window: the words before SEQ, in order (R217,
R453). -/
def Cell.windowWord (c : Cell) (i n k : Nat) : WinEnt :=
  let e := c.outEp i
  let a := e.rpbase.toNat + 16 * k
  let w := c.ldWord a
  let side := (c.ldWord (a + 8)).v
  ⟨⟨w.v, w.p, side.extractLsb' 0 3, c.ident.unit, e.seq - BitVec.ofNat 32 (n - k), side.extractLsb' 4 2,
    side.extractLsb' 20 10, c.ident.dom, e.odom⟩, k, e.det, e.det, e.det, 0⟩

/-- The window of OUT[i] holds the first n entries of its replay buffer, sent afresh; RPH stands after them. -/
def Cell.fillWindow (c : Cell) (i n : Nat) : Cell :=
  let e := c.outEp i
  c.setOut i { e with
    ents := (upto n).map (c.windowWord i n)
    rph := if e.win = 0 then 0 else n % e.win.toNat }

/-- OST and OSEQ of outbound endpoint i. BLOCK is not stored. -/
def Cell.writeOut (c : Cell) (i r : Nat) (v : Word) : Cell :=
  let e := c.outEp i
  match r with
  | 0 =>
    let b := c.binding i
    let c := { c.setOut i { e with
        mcm1 := v.extractLsb' 36 3, nack := v.getLsbD 35, det := v.extractLsb' 27 8, deftag := v.extractLsb' 22 3
        win := v.extractLsb' 11 11 } with
      bind := SMap.put c.bind i (if v.getLsbD 25 then 2 else if b = 2 then 0 else b), kept := (1, i) :: c.kept }
    if field v 0 11 = e.inw then c else c.fillWindow i (field v 0 11)
  | 8 =>
    let seq : BitVec 32 := v.extractLsb' 0 32
    c.setOut i { e with seq, ents := e.ents.map (fun x => { x with w := { x.w with seq := x.w.seq + (seq - e.seq) } }) }
  | _ => c

/-- A write at an offset of the endpoint state range; addresses not listed hold nothing. -/
def Cell.writeEndpoint (c : Cell) (o : Nat) (v : Word) : Cell :=
  let x := c.chain
  if o < 0x200 then c.writeIn (o / 0x40) (o % 0x40) v
  else if o < 0x400 then c.writeOut ((o - 0x200) / 0x40) (o % 0x40) v
  else if o = 0x400 then
    { c with chain := { x with ranOut := false, ind := (upto 4).map (fun l => (l, field v (16 * l) 16)) } }
  else if o = 0x408 then
    { c with chain := { x with
        port := v.extractLsb' 4 3, mark := v.getLsbD 3, idx := v.getLsbD 2, done := v.getLsbD 1, run := v.getLsbD 0 } }
  else if 0x410 ≤ o ∧ o ≤ 0x428 then
    { c with chain := { x with lim := SMap.put x.lim ((o - 0x410) / 8) (field v 0 17) } }
  else if o = 0x480 then
    { c with bind := (upto 8).map (fun i => (i, v.extractLsb' (2 * i) 2)), kept := (upto 8).map (fun i => (1, i)) ++ c.kept }
  else if 0x500 ≤ o ∧ o < 0x580 then
    let n := (o - 0x500) / 8
    { c.setSem n ⟨v.extractLsb' 0 40, v.getLsbD 40⟩ with kept := (0, n) :: c.kept }
  else c

/-! ### The cell page (R428 to R431) -/

/-- sys.status with every field writable: the pending queue-arrival records can only become fewer, and PRIVL follows
id.dom. -/
def Cell.writeStatus (c : Cell) (v : Word) : Cell :=
  { c with
    sys := c.sys.write 32 v
    qreq := v.getLsbD 25
    arrivals := c.arrivals.take (field v 27 3)
    slots := (upto 8).map (fun j =>
      (j, if v.getLsbD (8 + j) then SlotState.faulted else if v.getLsbD (16 + j) then .pending else .idle)) }

/-- System register n, 32 to 41. -/
def Cell.writeSys (c : Cell) (now n : Nat) (v : Word) : Cell :=
  if n = 32 then c.writeStatus v
  else if n = 41 then { c with startAt := (if c.started then ofNat now else 0) - v }
  else { c with sys := c.sys.write n v }

/-- RESV and the slot states; a state 3, which is none, leaves a free one. -/
def Cell.writeSlots (c : Cell) (v free : Word) : Cell :=
  let c := (upto 8).foldl (fun c i =>
    let e := c.inEp i
    c.setIn i { e with
      res := if v.getLsbD (16 + i) then some (e.res.getD e.resOld) else none
      resOld := e.res.getD e.resOld }) c
  let state (j : Nat) : Nat := if field v (2 * j) 2 = 3 then field free (2 * j) 2 % 3 else field v (2 * j) 2
  { c with slots := (upto 8).map (fun j =>
      (j, if state j = 2 then SlotState.faulted else if state j = 1 then .pending else .idle)) }

/-- RES of port i. -/
def Cell.writeRes (c : Cell) (i n : Nat) : Cell :=
  let e := c.inEp i
  c.setIn i { e with res := e.res.map (fun _ => n), resOld := n }

/-- The poison bits of g1 to g55. -/
def Cell.writeGpois (c : Cell) (v : Word) : Cell :=
  (upto 56).foldl (fun c n => c.setReg n ⟨(c.reg n).v, v.getLsbD n⟩) c

/-- A field marked "while parked", at its offset (R428); none where the page has none of them there. `free` is a free value. -/
def Cell.writeParked (c : Cell) (now off : Nat) (v free : Word) : Option Cell :=
  if off < 0x20000 then some { c with store := c.store.write off 8 v.toNat }
  else if off < 0x24000 then some (c.setCode ((off - 0x20000) / 8) v)
  else if 0x38000 ≤ off ∧ off < 0x38800 then
    some { c with storePoison := (upto 64).foldl (fun m j => m.put ((off - 0x38000) * 8 + j) (v.getLsbD j)) c.storePoison }
  else if off = 0x30010 then some { c with pc := field v 0 11, sys := { c.sys with entry := v.extractLsb' 16 5 } }
  else if 0x30108 ≤ off ∧ off ≤ 0x302B8 then
    let n := (off - 0x30100) / 8
    some (c.setReg n ⟨v, (c.reg n).p⟩)
  else if off = 0x302C0 then some (c.writeGpois v)
  else if off = 0x302C8 then some (c.writeSlots v free)
  else if 0x30300 ≤ off ∧ off < 0x30340 then some (c.setFault ((off - 0x30300) / 8) (Config.pageTake 0 off v) free)
  else if 0x30340 ≤ off ∧ off < 0x30380 then some (c.writeRes ((off - 0x30340) / 8) (field v 0 16))
  else if 0x30400 ≤ off ∧ off < 0x30450 then some (c.writeSys now (32 + (off - 0x30400) / 8) v)
  else if 0x30500 ≤ off ∧ off < 0x30580 then some (c.writeEndpoint (off - 0x30000) v)
  else if 0x31000 ≤ off ∧ off < 0x32000 then some (c.writeEndpoint (off - 0x31000) v)
  else if 0x32040 ≤ off ∧ off < 0x32080 then
    let i := (off - 0x32040) / 8
    some (c.setIn i { c.inEp i with qc := v.extractLsb' 0 19 })
  else if 0x32200 ≤ off ∧ off < 0x32300 then some (c.setPending ((off - 0x32200) / 8) (Config.pageTake 0 off v))
  else none

/-- The page fields that are only read: CSTAT, the checkpoint and the rewind table. -/
def cellReadOnly (off : Nat) : Bool :=
  off = 0x30008 || decide (0x30800 ≤ off ∧ off < 0x30C00) || decide (0x32100 ≤ off ∧ off < 0x32180)

/-- CCTL (R429). -/
def State.writeCctl (s : State) (k : Nat) (v : Word) : State :=
  let s := s.modCell k (fun c => { c with rplReg := v.getLsbD 0 })
  let s := if v.getLsbD 1 then s.abort k else s
  let s := if v.getLsbD 2 then s.askPark k else s
  if v.getLsbD 3 then s.resumeCell k (v.getLsbD 0) else s

/-- A write to the page of cell k (R428 to R431). A word of a parity group in rebuild is written after the rebuild (R273). -/
def State.writeCellPage (s : State) (k off : Nat) (v : Word) : WinRes :=
  let c := s.cell k
  if off = 0x30000 then .ok (s.writeCctl k v)
  else if off = 0x320C0 then .ok (s.setCell k { c with qreq := v.getLsbD 32, qcut := v.extractLsb' 0 32 })
  else if 0x32300 ≤ off ∧ off < 0x32340 then
    match s.writeOra k ((off - 0x32300) / 8) (v.extractLsb' 0 8) with
    | some s' => .ok s'
    | none => .discard
  else if cellReadOnly off then .discard
  else if off < 0x20000 && s.storeBusyAt k off then .wait
  else if (0x32000 ≤ off ∧ off < 0x32040) ∨ (0x32080 ≤ off ∧ off < 0x320C0) then
    if c.writable = false then .discard
    else
      let i := off % 0x40 / 8
      if off < 0x32040 then .ok (s.setCell k (c.setIn i { c.inEp i with qnp := v.extractLsb' 0 19 }))
      else .ok (s.setCell k (c.setOut i { c.outEp i with odom := v.extractLsb' 0 12 }))
  else
    match c.writeParked s.now off v (Config.freeWord s.fresh) with
    | some c' =>
      if c.st ≠ .parked ∧ c.st ≠ .configured then .discard else .ok { s.setCell k c' with fresh := s.fresh + 1 }
    | none => .ok s

/-! ### The edge-engine window (R426, R427) -/

/-- The row manager of row `row` supervises structures of row y: it is that row's, or the neighbour to which supervision has passed
(R427, R456). -/
def State.supervises (s : State) (row y : Nat) : Bool := s.serves row y

/-- The row whose manager supervises an edge engine, numbered as in space 2 (R427). -/
def rowOfEngine (e : Nat) : Nat :=
  if e < 64 then 0
  else if 128 ≤ e ∧ e < 192 then 511
  else if e < 256 then 8 * (e % 64)
  else ringRow

/-- A freeze is requested; the first request is latched, and the clocks stop 64 clk after it (R493). -/
def State.requestFreeze (s : State) (pin : Bool) (row : Nat) : State :=
  let d := s.carrier.dbg
  if s.frozen ∨ d.stopAt.isSome then s
  else { s with carrier := { s.carrier with dbg := { d with
    stopAt := some (s.now + 64), fpin := pin, frow := if pin then 0 else BitVec.ofNat 9 row } } }

/-- The heartbeat of row y is written. -/
def State.beat (s : State) (y : Nat) (v : Word) : State :=
  s.setRow y { s.row y with hbeat := v, beatAt := s.now }

/-- A write of row manager `row` at an offset of the edge-engine window, from 0x7000_0000. -/
def State.writeEngineWindow (s : State) (row off : Nat) (v : Word) : WinRes :=
  if off = 0 then .ok (if v.getLsbD 0 then s.requestFreeze false row else s)
  else if 0x1000 ≤ off ∧ off < 0x2000 then
    let y := (off - 0x1000) / 8
    if s.supervises row y then .ok (s.beat y v) else .discard
  else if 0x1000000 ≤ off then
    let e := (off - 0x1000000) / 0x10000
    let f := (off - 0x1000000) % 0x10000 / 8
    if e ≤ 316 ∧ f < 64 ∧ s.supervises row (rowOfEngine e) ∧ v.toNat < 2 ^ 32 then
      match cfgEdge s e f (v.extractLsb' 0 32) with
      | .ok s' => .ok s'
      | .error _ => .discard
    else .discard
  else .discard

/-! ### The window (R425) -/

/-- The bits of a Quince entry that a row manager writes (R434). -/
def quinceMask : Word := 0x0FFFFFFFFFFF000F

/-- A Quince entry as it is written: of a state 5 to 7, which is none, a free one is left. -/
def quinceEntry (v free : Word) : Word :=
  let v := v &&& quinceMask
  if 5 ≤ field v 0 3 then (v &&& ~~~7#64) ||| ofNat (uns free % 5) else v

/-- A write to the pages of row y: cells, strips, quads, blocks of a top row, and the Quince map. What only shows is only read. -/
def State.writeRowPages (s : State) (y off : Nat) (v : Word) : WinRes :=
  if off < 0x8000000 then s.writeCellPage (512 * y + off / 0x40000) (off % 0x40000) v
  else if off < 0x9000000 then
    .ok (s.setStripItem (64 * y + (off - 0x8000000) / 0x40000) (Config.pageTake 1 (off % 0x40000) v) (Config.stripItem (off % 0x40000)))
  else if off < 0xB000000 then
    .ok (s.setQuadItem (128 * y + (off - 0x9000000) / 0x40000) (Config.pageTake 2 (off % 0x40000) v) (Config.quadItem (off % 0x40000)))
  else if off < 0xB400000 then if y % 8 = 0 then .ok s else .fault
  else if 0xC000000 ≤ off ∧ off < 0xC008000 then
    let r := s.row y
    .ok { s.setRow y { r with quince := SMap.put r.quince ((off - 0xC000000) / 8) (quinceEntry v (Config.freeWord s.fresh)) } with
      fresh := s.fresh + 1 }
  else if off = 0xC010000 ∨ off = 0xC010008 then .ok s
  else .fault

/-- A write to physical memory, untranslated and with kind checks off; it waits while the host holds the region or the word's group is
being rebuilt, and an address that does not exist faults. -/
def State.writePhysical (s : State) (pa : Nat) (v : Word) : WinRes :=
  if populated pa = false then .fault
  else if s.vaultBusy pa ∨ s.hostHeld pa then .wait
  else .ok (s.gwrite pa 8 v.toNat false)

/-- The row whose pages an address of row manager `row` names, active ones alone: its own, or under takeover its neighbours' (R425,
R427, R456); none where it is not active. -/
def State.windowRow (s : State) (row addr : Nat) : Option Nat :=
  if addr < 0x50000000 then if s.serves row row then some row else none
  else if addr < 0x60000000 then if 0 < row ∧ (s.row (row - 1)).takenBy = some row then some (row - 1) else none
  else if row < 511 ∧ (s.row (row + 1)).takenBy = some row then some (row + 1) else none

/-- A write of row manager `row` of an aligned word of its address space (R425). -/
def State.writeWindow (s : State) (row addr : Nat) (v : Word) : WinRes :=
  if 0x4000000000000 ≤ addr ∧ addr < 0x8000000000000 then s.writePhysical (addr - 0x4000000000000) v
  else if 0x40000000 ≤ addr ∧ addr < 0x70000000 then
    match s.windowRow row addr with
    | some y => s.writeRowPages y (addr % 0x10000000) v
    | none => .discard
  else if 0x70000000 ≤ addr ∧ addr < 0x80000000 then s.writeEngineWindow row (addr - 0x70000000) v
  else
    match s.setOwnWord row addr v with
    | some s' => .ok s'
    | none => .fault

/-! ### Reads (R425, R426, R428, R432, R434) -/

/-- A read of the fault queue's first word pops the oldest record, whose second word then stands in the next one; of an empty queue it
gives 0. -/
def State.popFault (s : State) (y : Nat) : Word × State :=
  let r := s.row y
  match r.fq with
  | [] => (0, s.setRow y { r with popped := 0 })
  | x :: rest => (x.1, s.setRow y { r with fq := rest, popped := x.2 })

/-- A read of MTSTAT clears it (R274). -/
def State.readMtstat (s : State) (b : Nat) : Word × State := ((s.block b).mtstat, s.setBlock b { s.block b with mtstat := 0 })

/-- A word of the pages of row y; none where an access faults. -/
def State.readRowPages (s : State) (y off : Nat) : Option (Word × State) :=
  let o := off % 0x40000
  if off < 0x8000000 then some (s.cellPageWord (512 * y + off / 0x40000) o, s)
  else if off < 0x9000000 then some (Config.pageShow 1 o (s.stripWord (64 * y + (off - 0x8000000) / 0x40000) (Config.stripItem o)), s)
  else if off < 0xB000000 then some (Config.pageShow 2 o (s.quadWord (128 * y + (off - 0x9000000) / 0x40000) (Config.quadItem o)), s)
  else if off < 0xB400000 then
    let b := 8 * y + (off - 0xB000000) / 0x10000
    let o := off % 0x10000
    if y % 8 ≠ 0 then none
    else if Config.blockItem o = .mtstat then some (s.readMtstat b)
    else some (Config.pageShow 3 o (s.blockWord b (Config.blockItem o)), s)
  else if 0xC000000 ≤ off ∧ off < 0xC008000 then some ((s.row y).quinceOf ((off - 0xC000000) / 8), s)
  else if off = 0xC010000 then some (s.popFault y)
  else if off = 0xC010008 then some ((s.row y).popped, s)
  else none

/-- What a read does: it gives a word, faults, or has to wait. -/
inductive WinRead where
  | ok (v : Word) (s : State)
  | fault
  | wait

/-- A read of row manager `row` of an aligned word of its address space (R425). A window that is not active reads 0. -/
def State.readWindow (s : State) (row addr : Nat) : WinRead :=
  if 0x4000000000000 ≤ addr ∧ addr < 0x8000000000000 then
    let pa := addr - 0x4000000000000
    if populated pa = false then .fault
    else if s.vaultBusy pa ∨ s.hostHeld pa then .wait
    else .ok (s.gword pa).v s
  else if 0x40000000 ≤ addr ∧ addr < 0x70000000 then
    match s.windowRow row addr with
    | some y =>
      if addr % 0x10000000 < 0x8000000 ∧ addr % 0x40000 < 0x20000 ∧
          s.storeBusyAt (512 * y + addr % 0x10000000 / 0x40000) (addr % 0x40000) then .wait
      else
        match s.readRowPages y (addr % 0x10000000) with
        | some (v, s') => .ok v s'
        | none => .fault
    | none => .ok 0 s
  else if 0x70000000 ≤ addr ∧ addr < 0x80000000 then .ok (s.edgeWindowWord (addr - 0x70000000)) s
  else
    match s.ownWord row addr with
    | some w => .ok w s
    | none => .fault

/-- The structure that a discarded write names: its domain and its cell or engine number (R432). -/
def State.writeTarget (s : State) (row addr : Nat) : BitVec 12 × Nat :=
  let y := if addr < 0x50000000 then row else if addr < 0x60000000 then row - 1 else row + 1
  let off := addr % 0x10000000
  if addr < 0x70000000 then
    if off < 0x8000000 then
      let k := 512 * y + off / 0x40000
      ((s.cell k).ident.dom, k)
    else (0, 512 * y)
  else if 0x71000000 ≤ addr then (0, (addr - 0x71000000) / 0x10000)
  else (0, 0)

/-- A discarded write is recorded in the writer's fault queue (R426, R430, R431). -/
def State.discardWrite (s : State) (row addr : Nat) : State :=
  let (dom, k) := s.writeTarget row addr
  s.record row 9 dom k 0 (ofNat addr)

/-- A row manager's write of an aligned word (R425 to R431). A misaligned store and an access fault trap in its core. -/
def execRmWindowWrite (row addr : Nat) (data : Word) (s : State) : Host.Outcome State Fault Refusal :=
  if addr % 8 ≠ 0 then .next (s.hartTrap row 6 (ofNat addr))
  else
    match s.writeWindow row addr data with
    | .ok s' => .next s'
    | .discard => .next (s.discardWrite row addr)
    | .fault => .next (s.hartTrap row 7 (ofNat addr))
    | .wait => .next s

/-- A read of the fault queue's first word pops the oldest record (R432). -/
def execFaultQueuePop (row : Nat) (s : State) : Host.Outcome State Fault Refusal := .next (s.popFault row).2

/-- A read of MTSTAT clears it (R274). -/
def execMtstatReadClear (block : Nat) (s : State) : Host.Outcome State Fault Refusal := .next (s.readMtstat block).2

/-! ### Heartbeats and takeover (R10, R456) -/

/-- A row manager increments its heartbeat every 100 µs; one whose row is taken over has been reset. -/
def execHeartbeatTick (row : Nat) (s : State) : Host.Outcome State Fault Refusal :=
  let r := s.row row
  if r.takenBy.isSome ∨ s.now < r.beatAt + 100 * microsecond then .next s else .next (s.beat row (r.hbeat + 1))

/-- Row manager y exists, has not been taken over, and has not missed three heartbeats. -/
def State.managerAlive (s : State) (y : Nat) : Bool :=
  decide (y < 512) && (s.row y).takenBy.isNone && decide (s.now < (s.row y).beatAt + 300 * microsecond)

/-- A neighbour that works and has seen three heartbeats missed takes the row over, and resets the failed core. -/
def execRowManagerTakeover (row next : Nat) (s : State) : Host.Outcome State Fault Refusal :=
  let r := s.row row
  if (next + 1 = row ∨ next = row + 1) ∧ row < 512 ∧ s.managerAlive next ∧ r.takenBy = none ∧
      r.beatAt + 300 * microsecond ≤ s.now then
    .next (s.setRow row { r with takenBy := some next, hart := {} })
  else .next s

/-! ### Shared control state (R439) -/

/-- The requests that stand in a tile are NACKed with retry. -/
def State.nackTile (s : State) (b : Nat) : State :=
  s.cells.foldl (fun s x => s.modCell x.1 (fun c => { c with accs := c.accs.map (fun a : Access =>
    if a.status = .sent ∧ s.own a.pa ∧ homeTile (a.pa % 2 ^ 50) = b then { a with status := .nacked 0 } else a) })) s

/-- The packets that a port is receiving are discarded, and asked for again from the head of the oldest (R439). -/
def State.resetPort (s : State) (p : Nat) : State :=
  let x := s.linkPort p
  let back (r : RxPacket) : Nat := (x.rx - r.fseq).toNat
  match x.rxs with
  | [] => s
  | y :: ys =>
    let old := ys.foldl (fun m z => if m < back z.2 then back z.2 else m) (back y.2)
    (s.setLinkPort p { x with rxs := [] }).askReplay p (x.rx - BitVec.ofNat 12 old)

/-- A shared unit is drained and reset (R439). The words in a mesh router are sent again from the windows that still hold
them, and the items of a copy engine by the commands that issued them, which are kept: neither is state of its own. -/
def execSharedControlError (unit : SharedUnit) (s : State) : Host.Outcome State Fault Refusal :=
  match unit with
  | .router _ => .next s
  | .copyEngine _ => .next s
  | .tile b => .next (s.nackTile b)
  | .crossbar => .next ((upto 32).foldl State.resetPort s)

/-! ### Repairs (R394, R455) -/

/-- Every cell of logical row or column n is free or parked (R455). -/
def State.lineIdle (s : State) (row : Bool) (n : Nat) : Bool :=
  s.cells.all (fun x => (if row then yOf x.1 else xOf x.1) ≠ n || x.2.st = .free || x.2.st = .parked)

/-- The cells of a logical row or column return to the free set. -/
def unretire (m : Marks) (row : Bool) (n : Nat) : Marks := m.filter (fun x => (if row then yOf x.1 else xOf x.1) ≠ n)

/-- A page lies in part on a channel of an HBM stack. -/
def State.onChannel (s : State) (p : Page) (stack ch : Nat) : Bool :=
  let a := pAddr p.entry % 2 ^ 50
  pValid p.entry && s.own (pAddr p.entry) && decide (hbmBase ≤ a) && (a - hbmBase) / 2 ^ 36 = stack &&
  (upto (pSize p.entry / 64)).any (fun j => Config.hbmChannel (a + 64 * j) = ch)

/-- A repair action; one whose preconditions fail does nothing (R455). The latest remap stands first, and every remap of the
module's life counts. -/
def execInServiceRepair (action : Repair) (s : State) : Host.Outcome State Fault Refusal :=
  let v := s.carrier.svc
  match action with
  | .retireCell k => .next (s.modSvc (fun v => { v with retired := v.retired.put k true }))
  | .remapRow l p =>
    if s.lineIdle true l ∧ v.rowMap.length < 8 then
      .next (s.modSvc (fun v => { v with rowMap := (l, p) :: v.rowMap, retired := unretire v.retired true l }))
    else .next s
  | .remapCol l p =>
    if s.lineIdle false l ∧ v.colMap.length < 8 then
      .next (s.modSvc (fun v => { v with colMap := (l, p) :: v.colMap, retired := unretire v.retired false l }))
    else .next s
  | .spareChannel stack ch =>
    if v.spared.any (fun x => x.1 = stack) ∨ s.pages.any (fun p => s.onChannel p stack ch) then .next s
    else .next (s.modSvc (fun v => { v with spared := v.spared ++ [(stack, ch)] }))
  | .spareLane p lane =>
    let x := s.linkPort p
    let good := x.good &&& ~~~oneBit 8 lane
    if x.enabled = true ∧ 6 ≤ popCount good 8 then
      .next (s.setLinkPort p { x with good, failed := oneBit 8 lane, up := decide (x.peerMod.toNat = x.expected) })
    else .next s

end Sys2Proof.Machine
end

