-- ==== Sys2Proof/Machine/HartExec.lean ====
section
/-! DEFINITION. The instructions of a row manager's core (R7, R424): RV64I, M, A, F, D and C with Zicsr and Zifencei, in machine and user
mode, as the RISC-V manuals give them (log entry 63), over the address space of R425. -/

namespace Sys2Proof.Machine

open Sys2Proof

/-- Why an instruction does not complete: an exception with its cause and value, or an access that has to wait. -/
inductive HartStop where
  | trap (cause : Nat) (tval : Word)
  | wait

abbrev HartRes (α : Type) := Except HartStop α

/-! ### Memory (R425) -/

/-- n bytes at an aligned address of row manager y, zero-extended. -/
def State.hartLoad (s : State) (y a n : Nat) : WinRead :=
  match s.readWindow y (a / 8 * 8) with
  | .ok w s' => .ok (ofNat (uns w / 2 ^ (8 * (a % 8)) % 2 ^ (8 * n))) s'
  | r => r

/-- The low n bytes of a value at an aligned address of row manager y. Every region takes 8 bytes at a time: a narrower store leaves the
others as they read. -/
def State.hartStore (s : State) (y a n : Nat) (v : Word) : WinRes :=
  let mask : Word := ofNat ((2 ^ (8 * n) - 1) * 2 ^ (8 * (a % 8)))
  if n = 8 then s.writeWindow y a v
  else
    match s.readWindow y (a / 8 * 8) with
    | .ok w _ => s.writeWindow y (a / 8 * 8) ((w &&& ~~~mask) ||| ((v <<< (8 * (a % 8))) &&& mask))
    | .fault => .fault
    | .wait => .wait

/-- The mode under which the core's data accesses run: MPRV takes that of MPP. -/
def Hart.dataMachine (h : Hart) : Bool :=
  if h.machine && h.mstatus.getLsbD 17 then decide (field h.mstatus 11 2 = 3) else h.machine

/-- A load of n bytes. -/
def hartRead (s : State) (y : Nat) (a : Word) (n : Nat) : HartRes (Word × State) :=
  let h := (s.row y).hart
  if uns a % n ≠ 0 then .error (.trap 4 a)
  else if h.pmpOk h.dataMachine (uns a) n 0 = false then .error (.trap 5 a)
  else
    match s.hartLoad y (uns a) n with
    | .ok v s' => .ok (v, s')
    | .fault => .error (.trap 5 a)
    | .wait => .error .wait

/-- A store of n bytes. -/
def hartWrite (s : State) (y : Nat) (a : Word) (n : Nat) (v : Word) : HartRes State :=
  let h := (s.row y).hart
  if uns a % n ≠ 0 then .error (.trap 6 a)
  else if h.pmpOk h.dataMachine (uns a) n 1 = false then .error (.trap 7 a)
  else
    match s.hartStore y (uns a) n v with
    | .ok s' => .ok s'
    | .discard => .ok (s.discardWrite y (uns a))
    | .fault => .error (.trap 7 a)
    | .wait => .error .wait

/-- Two bytes of code: boot ROM and SRAM hold code. -/
def hartFetch (s : State) (y : Nat) (a : Word) : HartRes (BitVec 16) :=
  let h := (s.row y).hart
  if !(decide (uns a < 0x10000) || inSram (uns a) 2) || !h.pmpOk h.machine (uns a) 2 2 then .error (.trap 1 a)
  else
    match s.hartLoad y (uns a) 2 with
    | .ok v _ => .ok (v.extractLsb' 0 16)
    | _ => .error (.trap 1 a)

/-! ### Compressed instructions: each stands for a 32-bit one -/

def rvR (f7 rs2 rs1 f3 rd op : Nat) : BitVec 32 :=
  BitVec.ofNat 32 (f7 * 2 ^ 25 + rs2 * 2 ^ 20 + rs1 * 2 ^ 15 + f3 * 2 ^ 12 + rd * 2 ^ 7 + op)
def rvI (imm : BitVec 12) (rs1 f3 rd op : Nat) : BitVec 32 := rvR (imm.toNat / 32) (imm.toNat % 32) rs1 f3 rd op
def rvS (imm : BitVec 12) (rs2 rs1 f3 op : Nat) : BitVec 32 := rvR (imm.toNat / 32) rs2 rs1 f3 (imm.toNat % 32) op
def rvB (imm : BitVec 13) (rs1 f3 : Nat) : BitVec 32 :=
  rvR (field imm 12 1 * 64 + field imm 5 6) 0 rs1 f3 (field imm 1 4 * 2 + field imm 11 1) 0x63
def rvJ (imm : BitVec 21) (rd : Nat) : BitVec 32 :=
  BitVec.ofNat 32 (field imm 20 1 * 2 ^ 31 + field imm 1 10 * 2 ^ 21 + field imm 11 1 * 2 ^ 20 + field imm 12 8 * 2 ^ 12 + rd * 2 ^ 7 + 0x6F)

/-- Quadrant 0. -/
def rvcLoads (c : BitVec 16) : Option (BitVec 32) :=
  let r := 8 + field c 2 3
  let b := 8 + field c 7 3
  let d : BitVec 12 := BitVec.ofNat 12 (field c 10 3 * 8 + field c 5 2 * 64)
  let w : BitVec 12 := BitVec.ofNat 12 (field c 10 3 * 8 + field c 6 1 * 4 + field c 5 1 * 64)
  match field c 13 3 with
  | 0 =>
    let i : BitVec 12 := BitVec.ofNat 12 (field c 11 2 * 16 + field c 7 4 * 64 + field c 6 1 * 4 + field c 5 1 * 8)
    if i = 0 then none else some (rvI i 2 0 r 0x13)
  | 1 => some (rvI d b 3 r 0x07)
  | 2 => some (rvI w b 2 r 0x03)
  | 3 => some (rvI d b 3 r 0x03)
  | 5 => some (rvS d r b 3 0x27)
  | 6 => some (rvS w r b 2 0x23)
  | 7 => some (rvS d r b 3 0x23)
  | _ => none

/-- Quadrant 1. -/
def rvcArith (c : BitVec 16) : Option (BitVec 32) :=
  let rd := field c 7 5
  let r := 8 + field c 7 3
  let r2 := 8 + field c 2 3
  let sh := field c 12 1 * 32 + field c 2 5
  let i : BitVec 12 := (BitVec.ofNat 6 sh).signExtend 12
  match field c 13 3 with
  | 0 => some (rvI i rd 0 rd 0x13)
  | 1 => if rd = 0 then none else some (rvI i rd 0 rd 0x1B)
  | 2 => some (rvI i 0 0 rd 0x13)
  | 3 =>
    if sh = 0 then none
    else if rd = 2 then
      let i : BitVec 10 := BitVec.ofNat 10
        (field c 12 1 * 512 + field c 6 1 * 16 + field c 5 1 * 64 + field c 3 2 * 128 + field c 2 1 * 32)
      some (rvI (i.signExtend 12) 2 0 2 0x13)
    else some (BitVec.ofNat 32 (((BitVec.ofNat 6 sh).signExtend 20).toNat * 2 ^ 12 + rd * 2 ^ 7 + 0x37))
  | 4 =>
    match field c 10 2 with
    | 0 => some (rvI (BitVec.ofNat 12 sh) r 5 r 0x13)
    | 1 => some (rvI (BitVec.ofNat 12 (0x400 + sh)) r 5 r 0x13)
    | 2 => some (rvI i r 7 r 0x13)
    | _ =>
      match field c 12 1, field c 5 2 with
      | 0, 0 => some (rvR 0x20 r2 r 0 r 0x33)
      | 0, 1 => some (rvR 0 r2 r 4 r 0x33)
      | 0, 2 => some (rvR 0 r2 r 6 r 0x33)
      | 0, 3 => some (rvR 0 r2 r 7 r 0x33)
      | 1, 0 => some (rvR 0x20 r2 r 0 r 0x3B)
      | 1, 1 => some (rvR 0 r2 r 0 r 0x3B)
      | _, _ => none
  | 5 =>
    let i : BitVec 12 := BitVec.ofNat 12 (field c 12 1 * 2048 + field c 11 1 * 16 + field c 9 2 * 256 + field c 8 1 * 1024 +
      field c 7 1 * 64 + field c 6 1 * 128 + field c 3 3 * 2 + field c 2 1 * 32)
    some (rvJ (i.signExtend 21) 0)
  | n =>
    let i : BitVec 9 := BitVec.ofNat 9 (field c 12 1 * 256 + field c 10 2 * 8 + field c 5 2 * 64 + field c 3 2 * 2 + field c 2 1 * 32)
    some (rvB (i.signExtend 13) r (n - 6))

/-- Quadrant 2. -/
def rvcStack (c : BitVec 16) : Option (BitVec 32) :=
  let rd := field c 7 5
  let rs2 := field c 2 5
  let dl : BitVec 12 := BitVec.ofNat 12 (field c 12 1 * 32 + field c 5 2 * 8 + field c 2 3 * 64)
  let wl : BitVec 12 := BitVec.ofNat 12 (field c 12 1 * 32 + field c 4 3 * 4 + field c 2 2 * 64)
  let ds : BitVec 12 := BitVec.ofNat 12 (field c 10 3 * 8 + field c 7 3 * 64)
  let ws : BitVec 12 := BitVec.ofNat 12 (field c 9 4 * 4 + field c 7 2 * 64)
  match field c 13 3 with
  | 0 => some (rvI (BitVec.ofNat 12 (field c 12 1 * 32 + rs2)) rd 1 rd 0x13)
  | 1 => some (rvI dl 2 3 rd 0x07)
  | 2 => if rd = 0 then none else some (rvI wl 2 2 rd 0x03)
  | 3 => if rd = 0 then none else some (rvI dl 2 3 rd 0x03)
  | 4 =>
    if field c 12 1 = 0 then
      if rs2 = 0 then (if rd = 0 then none else some (rvI 0 rd 0 0 0x67)) else some (rvR 0 rs2 0 0 rd 0x33)
    else if rs2 = 0 then (if rd = 0 then some 0x00100073 else some (rvI 0 rd 0 1 0x67))
    else some (rvR 0 rs2 rd 0 rd 0x33)
  | 5 => some (rvS ds rs2 2 3 0x27)
  | 6 => some (rvS ws rs2 2 2 0x23)
  | _ => some (rvS ds rs2 2 3 0x23)

def rvc (c : BitVec 16) : Option (BitVec 32) :=
  match field c 0 2 with
  | 0 => rvcLoads c
  | 1 => rvcArith c
  | _ => rvcStack c

/-! ### Control and status registers -/

/-- misa: MXL 2 and the letters A, C, D, F, I, M, U. -/
def misa : Word := at_ 2 62 ||| ofNat (2 ^ 0 + 2 ^ 2 + 2 ^ 3 + 2 ^ 5 + 2 ^ 8 + 2 ^ 12 + 2 ^ 20)

/-- Floating point is off. -/
def Hart.fpOff (h : Hart) : Bool := decide (field h.mstatus 13 2 = 0)

/-- The value of register n; none for one that the core does not have, or not in its mode. -/
def State.csr (s : State) (y n : Nat) : Option Word :=
  let h := (s.row y).hart
  let counter (i : Nat) (v : Word) : Option Word := if h.machine || h.mcounteren.getLsbD i then some v else none
  let cycle := Config.hartCycles s.now + h.cycleBase
  if 3 ≤ n / 256 % 4 ∧ h.machine = false then none
  else if 0xC03 ≤ n ∧ n ≤ 0xC1F then (if h.machine then some 0 else none)
  else if (0xB03 ≤ n ∧ n ≤ 0xB1F) ∨ (0x320 ≤ n ∧ n ≤ 0x33F) then some 0
  else if 0x3B0 ≤ n ∧ n ≤ 0x3BF then some (SMap.get 0 h.pmpaddr (n - 0x3B0))
  else
    match n with
    | 0x001 => if h.fpOff then none else some (ofNat (field h.fcsr 0 5))
    | 0x002 => if h.fpOff then none else some (ofNat (field h.fcsr 5 3))
    | 0x003 => if h.fpOff then none else some (h.fcsr.zeroExtend 64)
    | 0xC00 => counter 0 cycle
    | 0xC01 => counter 1 (s.mtime h)
    | 0xC02 => counter 2 h.instret
    | 0xF11 => some (Config.hartId n)
    | 0xF12 => some (Config.hartId n)
    | 0xF13 => some (Config.hartId n)
    | 0xF14 => some (ofNat y)
    | 0xF15 => some 0
    | 0x300 => some h.status
    | 0x301 => some misa
    | 0x304 => some h.mie
    | 0x305 => some h.mtvec
    | 0x306 => some h.mcounteren
    | 0x30A => some 0
    | 0x340 => some h.mscratch
    | 0x341 => some h.mepc
    | 0x342 => some h.mcause
    | 0x343 => some h.mtval
    | 0x344 => some (s.mip y)
    | 0x3A0 => some ((upto 8).foldl (fun v i => v ||| at_ (SMap.get 0 h.pmpcfg i).toNat (8 * i)) 0)
    | 0x3A2 => some ((upto 8).foldl (fun v i => v ||| at_ (SMap.get 0 h.pmpcfg (8 + i)).toNat (8 * i)) 0)
    | 0xB00 => some cycle
    | 0xB02 => some h.instret
    | _ => none

/-- An entry of pmpcfg as it is written: a locked one stays, and W without R is not kept. -/
def pmpEntry (old new : BitVec 8) : BitVec 8 :=
  if old.getLsbD 7 then old
  else
    let v := new &&& 0x9F#8
    if v.getLsbD 1 && !v.getLsbD 0 then v &&& ~~~2#8 else v

/-- A word of pmpcfg, from entry `first` on, is written. -/
def Hart.setPmpcfg (h : Hart) (first : Nat) (v : Word) : Hart :=
  let put1 (m : SMap (BitVec 8)) (i : Nat) : SMap (BitVec 8) :=
    SMap.put m (first + i) (pmpEntry (SMap.get 0 m (first + i)) (v.extractLsb' (8 * i) 8))
  { h with pmpcfg := (upto 8).foldl put1 h.pmpcfg }

/-- The address of PMP entry i is written: not of a locked entry, nor below a locked range. -/
def Hart.setPmpaddr (h : Hart) (i : Nat) (v : Word) : Hart :=
  let c (j : Nat) : BitVec 8 := SMap.get 0 h.pmpcfg j
  if (c i).getLsbD 7 || (decide (i < 15) && (c (i + 1)).getLsbD 7 && field (c (i + 1)) 3 2 = 1) then h
  else { h with pmpaddr := SMap.put h.pmpaddr i ((v.extractLsb' 0 54).zeroExtend 64) }

/-- A register is written; what is read-only in it stays. -/
def State.setCsr (s : State) (y n : Nat) (v : Word) : State :=
  let h := (s.row y).hart
  let put (h : Hart) : State := s.setHart y h
  if 0x3B0 ≤ n ∧ n ≤ 0x3BF then put (h.setPmpaddr (n - 0x3B0) v)
  else
    match n with
    | 0x001 => put { h with fcsr := (h.fcsr &&& 0xE0#8) ||| (v.extractLsb' 0 8 &&& 0x1F#8), mstatus := h.mstatus ||| at_ 3 13 }
    | 0x002 => put { h with fcsr := (h.fcsr &&& 0x1F#8) ||| (v.extractLsb' 0 8 <<< 5), mstatus := h.mstatus ||| at_ 3 13 }
    | 0x003 => put { h with fcsr := v.extractLsb' 0 8, mstatus := h.mstatus ||| at_ 3 13 }
    | 0x300 => put { h with mstatus := mstatusOf v }
    | 0x304 => put { h with mie := v &&& 0x888#64 }
    | 0x305 => put { h with mtvec := v &&& ~~~2#64 }
    | 0x306 => put { h with mcounteren := v &&& 7#64 }
    | 0x340 => put { h with mscratch := v }
    | 0x341 => put { h with mepc := v &&& ~~~1#64 }
    | 0x342 => put { h with mcause := v }
    | 0x343 => put { h with mtval := v }
    | 0x3A0 => put (h.setPmpcfg 0 v)
    | 0x3A2 => put (h.setPmpcfg 8 v)
    | 0xB00 => put { h with cycleBase := v - Config.hartCycles s.now }
    | 0xB02 => put { h with instret := v }
    | _ => s

/-! ### Integer operations -/

/-- A 32-bit result, sign-extended. -/
def wordResult (v : Word) : Word := (v.extractLsb' 0 32).signExtend 64

/-- OP and OP-IMM by funct3; `alt` is SUB or SRA, and sh the shift distance. -/
def rvAlu (f3 : Nat) (alt : Bool) (a b : Word) (sh : Nat) : Word :=
  match f3 with
  | 0 => if alt then a - b else a + b
  | 1 => a <<< sh
  | 2 => ofBool (decide (sgn a < sgn b))
  | 3 => ofBool (decide (uns a < uns b))
  | 4 => a ^^^ b
  | 5 => if alt then a.sshiftRight sh else a >>> sh
  | 6 => a ||| b
  | _ => a &&& b

/-- OP-32 and OP-IMM-32: addition and shifts of words. -/
def rvAluW (f3 : Nat) (alt : Bool) (a b : Word) (sh : Nat) : Option Word :=
  let w : BitVec 32 := a.extractLsb' 0 32
  match f3 with
  | 0 => some (wordResult (if alt then a - b else a + b))
  | 1 => some ((w <<< sh).signExtend 64)
  | 5 => some ((if alt then w.sshiftRight sh else w >>> sh).signExtend 64)
  | _ => none

/-- The M extension. -/
def rvMul (f3 : Nat) (a b : Word) : Word :=
  match f3 with
  | 0 => a * b
  | 1 => mulhS a b
  | 2 => ofInt ((sgn a * (uns b : Int)) / 2 ^ 64)
  | 3 => mulhN a b
  | 4 => divS a b
  | 5 => divN a b
  | 6 => remS a b
  | _ => remN a b

/-- Its operations on words. -/
def rvMulW (f3 : Nat) (a b : Word) : Option Word :=
  let sx (v : Word) : Word := wordResult v
  let zx (v : Word) : Word := (v.extractLsb' 0 32).zeroExtend 64
  match f3 with
  | 0 => some (wordResult (a * b))
  | 4 => some (wordResult (divS (sx a) (sx b)))
  | 5 => some (if zx b = 0 then BitVec.allOnes 64 else wordResult (divN (zx a) (zx b)))
  | 6 => some (wordResult (remS (sx a) (sx b)))
  | 7 => some (wordResult (remN (zx a) (zx b)))
  | _ => none

/-- The value that an atomic operation leaves, from the old value and the operand, both sign-extended; none for a code that is none. -/
def rvAmo (f5 : Nat) (a b : Word) (n : Nat) : Option Word :=
  let z (v : Word) : Nat := uns v % 2 ^ (8 * n)
  match f5 with
  | 0x01 => some b
  | 0x00 => some (a + b)
  | 0x04 => some (a ^^^ b)
  | 0x0C => some (a &&& b)
  | 0x08 => some (a ||| b)
  | 0x10 => some (if sgn b < sgn a then b else a)
  | 0x14 => some (if sgn a < sgn b then b else a)
  | 0x18 => some (if z b < z a then b else a)
  | 0x1C => some (if z a < z b then b else a)
  | _ => none

/-! ### Floating point -/

/-- The rounding mode of RISC-V as the module numbers it (R104). -/
def rvMode (rm : Nat) : BitVec 3 := BitVec.ofNat 3 (if rm = 2 then 3 else if rm = 3 then 2 else rm)

/-- The mode of an instruction: DYN takes fcsr's; a reserved one is illegal. -/
def Hart.mode (h : Hart) (f3 : Nat) : Option (BitVec 3) :=
  let rm := if f3 = 7 then field h.fcsr 5 3 else f3
  if 5 ≤ rm then none else some (rvMode rm)

def rvFmt (fmt : Nat) : Fmt := if fmt = 1 then Fmt.f64 else Fmt.f32

/-- A register as a pattern of a format: a single that is not NaN-boxed is the canonical NaN. -/
def Hart.fpat (h : Hart) (fmt n : Nat) : Nat :=
  let v := uns (h.freg n)
  if fmt = 1 then v else if v / 2 ^ 32 = 2 ^ 32 - 1 then v % 2 ^ 32 else Fmt.f32.nan

/-- A register takes a pattern, a single NaN-boxed, and fcsr the flags. -/
def Hart.putFp (h : Hart) (fmt n bits : Nat) (fl : Flags) : Hart :=
  let h := h.setFreg n (if fmt = 1 then ofNat bits else ofNat (bits + (2 ^ 32 - 1) * 2 ^ 32))
  { h with fcsr := h.fcsr ||| fl.zeroExtend 8 }
def Hart.putInt (h : Hart) (n : Nat) (v : Word) (fl : Flags) : Hart :=
  let h := h.setReg n v
  if fl = 0 then h else { h with fcsr := h.fcsr ||| fl.zeroExtend 8, mstatus := h.mstatus ||| at_ 3 13 }

def rvNv (b : Bool) : Flags := if b then Flags.nv else Flags.none

/-- Addition, subtraction, multiplication, division and square root, by code. -/
def rvArith (f : Fmt) (code : Nat) (m : BitVec 3) (a b : Nat) : Option (Nat × Flags) :=
  let x := f.decode a
  let y := f.decode b
  let fin (r : Num) (fl : Flags) (ops : List Nat) : Option (Nat × Flags) :=
    let (v, g) := roundTo f m false 0 r
    some (v, fl ||| g ||| f.snanFlag ops)
  match code with
  | 0 => let (r, i) := Num.add m x y; fin r (rvNv i) [a, b]
  | 1 => let (r, i) := Num.add m x y.negate; fin r (rvNv i) [a, b]
  | 2 => let (r, i) := Num.mul x y; fin r (rvNv i) [a, b]
  | 3 => let (r, fl) := Num.div x y; fin r fl [a, b]
  | 0x0B => let (r, fl) := Num.sqrt x; fin r fl [a]
  | _ => none

/-- a × b + c, the product and the addend negated where asked. -/
def rvFma (f : Fmt) (m : BitVec 3) (np nc : Bool) (a b c : Nat) : Nat × Flags :=
  let (p, i) := Num.mul (f.decode a) (f.decode b)
  let z := f.decode c
  let (r, j) := Num.add m (if np then p.negate else p) (if nc then z.negate else z)
  let (v, g) := roundTo f m false 0 r
  (v, g ||| rvNv (i || j) ||| f.snanFlag [a, b, c])

/-- The lesser, or the greater, of two: -0 is less than +0, and a NaN gives the other. -/
def rvMinMax (f : Fmt) (big : Bool) (a b : Nat) : Nat × Flags :=
  let x := f.decode a
  let y := f.decode b
  let less := x.lt y || (x.isZero && y.isZero && x.neg && !y.neg)
  let v := if x.isNaN && y.isNaN then f.nan else if x.isNaN then b else if y.isNaN then a else if less != big then a else b
  (v, f.snanFlag [a, b])

/-- FLE, FLT and FEQ, by funct3. -/
def rvCompare (f : Fmt) (f3 a b : Nat) : Option (Bool × Flags) :=
  let x := f.decode a
  let y := f.decode b
  let nan := x.isNaN || y.isNaN
  match f3 with
  | 0 => some (x.lt y || x.eqv y, rvNv nan)
  | 1 => some (x.lt y, rvNv nan)
  | 2 => some (x.eqv y, f.snanFlag [a, b])
  | _ => none

/-- FCLASS. -/
def rvClass (f : Fmt) (a : Nat) : Nat :=
  let x := f.decode a
  let sub := decide (a / 2 ^ f.fb % 2 ^ f.eb = 0)
  if x.isNaN then (if f.isSNaN a then 2 ^ 8 else 2 ^ 9)
  else if x.isInf then (if x.neg then 2 ^ 0 else 2 ^ 7)
  else if x.isZero then (if x.neg then 2 ^ 3 else 2 ^ 4)
  else if sub then (if x.neg then 2 ^ 2 else 2 ^ 5)
  else if x.neg then 2 ^ 1 else 2 ^ 6

/-- The integer type of a conversion, by rs2. -/
def rvInt (n : Nat) : ITy := ⟨if n < 2 then 32 else 64, n % 2 = 0⟩

/-- A floating-point value as an integer: a NaN gives the greatest. -/
def rvToInt (f : Fmt) (n : Nat) (m : BitVec 3) (a : Nat) : Word × Flags :=
  let t := rvInt n
  let x := f.decode a
  let (v, fl) := if x.isNaN then (t.wrap t.max, Flags.nv) else toIntTy t m true 0 x
  (if n < 2 then wordResult (ofNat v) else ofNat v, fl)

/-- The sign of one pattern, or its complement, or the product of both signs, with the magnitude of the other. -/
def rvSign (f : Fmt) (f3 a b : Nat) : Option Nat :=
  let top := 2 ^ (f.width - 1)
  let sa := decide (top ≤ a)
  let sb := decide (top ≤ b)
  let set (s : Bool) : Nat := a % top + if s then top else 0
  match f3 with
  | 0 => some (set sb)
  | 1 => some (set (!sb))
  | 2 => some (set (sa != sb))
  | _ => none

/-- OP-FP: the core after it; none where the encoding is illegal. -/
def Hart.opFp (h : Hart) (w : BitVec 32) : Option Hart :=
  let rd := field w 7 5
  let f3 := field w 12 3
  let rs1 := field w 15 5
  let rs2 := field w 20 5
  let fmt := field w 25 2
  let f := rvFmt fmt
  let a := h.fpat fmt rs1
  let b := h.fpat fmt rs2
  if 2 ≤ fmt then none
  else
    match field w 27 5 with
    | 0x04 => (rvSign f f3 a b).map (fun v => h.putFp fmt rd v 0)
    | 0x05 => if 2 ≤ f3 then none else let (v, fl) := rvMinMax f (f3 = 1) a b; some (h.putFp fmt rd v fl)
    | 0x08 =>
      if rs2 ≠ 1 - fmt then none
      else (h.mode f3).map (fun m =>
        let src := h.fpat rs2 rs1
        let (v, fl) := roundTo f m false 0 ((rvFmt rs2).decode src)
        h.putFp fmt rd v (fl ||| (rvFmt rs2).snanFlag [src]))
    | 0x14 => (rvCompare f f3 a b).map (fun x => h.putInt rd (ofBool x.1) x.2)
    | 0x18 => if 4 ≤ rs2 then none else (h.mode f3).map (fun m => let (v, fl) := rvToInt f rs2 m a; h.putInt rd v fl)
    | 0x1A =>
      if 4 ≤ rs2 then none
      else (h.mode f3).map (fun m =>
        let (v, fl) := roundTo f m false 0 (Num.ofInt ((rvInt rs2).val (uns (h.reg rs1))))
        h.putFp fmt rd v fl)
    | 0x1C =>
      if rs2 ≠ 0 then none
      else if f3 = 1 then some (h.setReg rd (ofNat (rvClass f a)))
      else if f3 = 0 then some (h.setReg rd (if fmt = 1 then h.freg rs1 else wordResult (h.freg rs1)))
      else none
    | 0x1E => if rs2 ≠ 0 ∨ f3 ≠ 0 then none else some (h.putFp fmt rd (uns (h.reg rs1) % 2 ^ f.width) 0)
    | code =>
      if code = 0x0B ∧ rs2 ≠ 0 then none
      else (h.mode f3).bind (fun m => (rvArith f code m a b).map (fun x => h.putFp fmt rd x.1 x.2))

/-! ### One instruction -/

/-- The instruction is illegal. -/
def rvIllegal {α : Type} (w : BitVec 32) : HartRes α := .error (.trap 2 (w.zeroExtend 64))

/-- SYSTEM with a register. -/
def hartCsr (s : State) (y : Nat) (w : BitVec 32) : HartRes State := do
  let h := (s.row y).hart
  let f3 := field w 12 3
  let n := field w 20 12
  let writes := f3 % 4 = 1 ∨ field w 15 5 ≠ 0
  let v := if f3 < 4 then h.reg (field w 15 5) else ofNat (field w 15 5)
  match s.csr y n with
  | none => rvIllegal w
  | some old =>
    if writes ∧ 0xC00 ≤ n then rvIllegal w
    else
      let new := match f3 % 4 with
        | 1 => v
        | 2 => old ||| v
        | _ => old &&& ~~~v
      let s := if writes then s.setCsr y n new else s
      .ok (s.setHart y ((s.row y).hart.setReg (field w 7 5) old))

/-- SYSTEM without one, at the next pc `next`. -/
def hartSystem (s : State) (y : Nat) (w : BitVec 32) (next : Word) : HartRes State :=
  let h := (s.row y).hart
  if w = 0x00000073 then .error (.trap (if h.machine then 11 else 8) 0)
  else if w = 0x00100073 then .error (.trap 3 h.pc)
  else if w = 0x30200073 ∧ h.machine then .ok (s.setHart y h.mret)
  else if w = 0x10500073 ∧ (h.machine || !h.mstatus.getLsbD 21) then .ok (s.setHart y { h with pc := next })
  else rvIllegal w

/-- LR, SC and the atomic operations, which SRAM alone supports. -/
def hartAtomic (s : State) (y : Nat) (w : BitVec 32) : HartRes State := do
  let h := (s.row y).hart
  let n := if field w 12 3 = 2 then 4 else 8
  let f5 := field w 27 5
  let a := h.reg (field w 15 5)
  let b := h.reg (field w 20 5)
  let sx (v : Word) : Word := if n = 4 then wordResult v else v
  if field w 12 3 ≠ 2 ∧ field w 12 3 ≠ 3 then rvIllegal w
  else if f5 = 2 then
    if field w 20 5 ≠ 0 then rvIllegal w
    else if uns a % n = 0 ∧ inSram (uns a) n = false then .error (.trap 5 a)
    else
      let (v, s) ← hartRead s y a n
      let h := (s.row y).hart
      return s.setHart y { h.setReg (field w 7 5) (sx v) with reserved := some (uns a) }
  else if uns a % n = 0 ∧ inSram (uns a) n = false then .error (.trap 7 a)
  else if f5 = 3 then
    if h.reserved = some (uns a) then
      let s ← hartWrite s y a n b
      let h := (s.row y).hart
      return s.setHart y { h.setReg (field w 7 5) 0 with reserved := none }
    else if uns a % n ≠ 0 then .error (.trap 6 a)
    else return s.setHart y { h.setReg (field w 7 5) 1 with reserved := none }
  else
    match rvAmo f5 0 0 n with
    | none => rvIllegal w
    | some _ =>
      if uns a % n ≠ 0 then .error (.trap 6 a)
      else if h.pmpOk h.dataMachine (uns a) n 0 = false then .error (.trap 7 a)
      else
        let (v, s) ← hartRead s y a n
        let s ← hartWrite s y a n ((rvAmo f5 (sx v) (sx b) n).getD 0)
        return s.setHart y ((s.row y).hart.setReg (field w 7 5) (sx v))

/-- A load or a floating-point load. -/
def hartLoadOp (s : State) (y : Nat) (w : BitVec 32) (fp : Bool) : HartRes State := do
  let h := (s.row y).hart
  let f3 := field w 12 3
  let a := h.reg (field w 15 5) + (w.extractLsb' 20 12).signExtend 64
  let n := 2 ^ (f3 % 4)
  if fp then
    if h.fpOff ∨ (f3 ≠ 2 ∧ f3 ≠ 3) then rvIllegal w
    else
      let (v, s) ← hartRead s y a n
      return s.setHart y ((s.row y).hart.putFp (f3 - 2) (field w 7 5) (uns v) 0)
  else if f3 = 7 then rvIllegal w
  else
    let (v, s) ← hartRead s y a n
    return s.setHart y ((s.row y).hart.setReg (field w 7 5) (extend (f3 < 4) n (uns v)))

/-- A store or a floating-point store. -/
def hartStoreOp (s : State) (y : Nat) (w : BitVec 32) (fp : Bool) : HartRes State :=
  let h := (s.row y).hart
  let f3 := field w 12 3
  let imm : BitVec 12 := BitVec.ofNat 12 (field w 25 7 * 32 + field w 7 5)
  let a := h.reg (field w 15 5) + imm.signExtend 64
  if (fp ∧ (h.fpOff ∨ (f3 ≠ 2 ∧ f3 ≠ 3))) ∨ 4 ≤ f3 then rvIllegal w
  else hartWrite s y a (2 ^ f3) (if fp then h.freg (field w 20 5) else h.reg (field w 20 5))

/-- The integer instructions that leave a value in rd, by opcode; none where the encoding is illegal. -/
def Hart.alu (h : Hart) (w : BitVec 32) : Option Word :=
  let f3 := field w 12 3
  let f7 := field w 25 7
  let a := h.reg (field w 15 5)
  let b := h.reg (field w 20 5)
  let i : Word := (w.extractLsb' 20 12).signExtend 64
  match field w 0 7 with
  | 0x37 => some ((w &&& 0xFFFFF000#32).signExtend 64)
  | 0x17 => some (h.pc + (w &&& 0xFFFFF000#32).signExtend 64)
  | 0x13 =>
    let top := field w 26 6
    if (f3 = 1 ∧ top ≠ 0) ∨ (f3 = 5 ∧ top ≠ 0 ∧ top ≠ 0x10) then none
    else some (rvAlu f3 (f3 = 5 && top = 0x10) a i (field w 20 6))
  | 0x1B => if (f3 = 1 ∧ f7 ≠ 0) ∨ (f3 = 5 ∧ f7 ≠ 0 ∧ f7 ≠ 0x20) then none else rvAluW f3 (f3 = 5 && f7 = 0x20) a i (field w 20 5)
  | 0x33 =>
    if f7 = 1 then some (rvMul f3 a b)
    else if f7 = 0 ∨ (f7 = 0x20 ∧ (f3 = 0 ∨ f3 = 5)) then some (rvAlu f3 (f7 = 0x20) a b (uns b % 64))
    else none
  | 0x3B =>
    if f7 = 1 then rvMulW f3 a b
    else if f7 = 0 ∨ (f7 = 0x20 ∧ (f3 = 0 ∨ f3 = 5)) then rvAluW f3 (f7 = 0x20) a b (uns b % 32)
    else none
  | _ => none

/-- The condition of a branch, by funct3. -/
def rvBranch (f3 : Nat) (a b : Word) : Option Bool :=
  match f3 with
  | 0 => some (decide (a = b))
  | 1 => some (decide (a ≠ b))
  | 4 => some (decide (sgn a < sgn b))
  | 5 => some (decide (sgn b ≤ sgn a))
  | 6 => some (decide (uns a < uns b))
  | 7 => some (decide (uns b ≤ uns a))
  | _ => none

/-- The core of row y runs an instruction word; `next` is the address after it. -/
def hartExec (s : State) (y : Nat) (w : BitVec 32) (next : Word) : HartRes State := do
  let h := (s.row y).hart
  let rd := field w 7 5
  let on (s : State) : State := s.setHart y { (s.row y).hart with pc := next }
  match field w 0 7 with
  | 0x03 => return on (← hartLoadOp s y w false)
  | 0x07 => return on (← hartLoadOp s y w true)
  | 0x23 => return on (← hartStoreOp s y w false)
  | 0x27 => return on (← hartStoreOp s y w true)
  | 0x2F => return on (← hartAtomic s y w)
  | 0x0F => if 2 ≤ field w 12 3 then rvIllegal w else return on s
  | 0x6F =>
    let imm : BitVec 21 := BitVec.ofNat 21 (field w 31 1 * 2 ^ 20 + field w 12 8 * 2 ^ 12 + field w 20 1 * 2 ^ 11 + field w 21 10 * 2)
    return s.setHart y { h.setReg rd next with pc := h.pc + imm.signExtend 64 }
  | 0x67 =>
    if field w 12 3 ≠ 0 then rvIllegal w
    else return s.setHart y { h.setReg rd next with
      pc := (h.reg (field w 15 5) + (w.extractLsb' 20 12).signExtend 64) &&& ~~~1#64 }
  | 0x63 =>
    let imm : BitVec 13 := BitVec.ofNat 13 (field w 31 1 * 2 ^ 12 + field w 7 1 * 2 ^ 11 + field w 25 6 * 32 + field w 8 4 * 2)
    match rvBranch (field w 12 3) (h.reg (field w 15 5)) (h.reg (field w 20 5)) with
    | some true => return s.setHart y { h with pc := h.pc + imm.signExtend 64 }
    | some false => return on s
    | none => rvIllegal w
  | 0x73 =>
    if field w 12 3 = 0 then hartSystem s y w next
    else if field w 12 3 = 4 then rvIllegal w
    else return on (← hartCsr s y w)
  | 0x53 =>
    match (if h.fpOff then none else h.opFp w) with
    | some h' => return on (s.setHart y h')
    | none => rvIllegal w
  | op =>
    if op = 0x43 ∨ op = 0x47 ∨ op = 0x4B ∨ op = 0x4F then
      let fmt := field w 25 2
      match (if h.fpOff ∨ 2 ≤ fmt then none else h.mode (field w 12 3)) with
      | some m =>
        let k := (op - 0x43) / 4
        let (v, fl) := rvFma (rvFmt fmt) m (2 ≤ k) (k = 1 || k = 3) (h.fpat fmt (field w 15 5)) (h.fpat fmt (field w 20 5))
          (h.fpat fmt (field w 27 5))
        return on (s.setHart y (h.putFp fmt rd v fl))
      | none => rvIllegal w
    else
      match h.alu w with
      | some v => return on (s.setHart y (h.setReg rd v))
      | none => rvIllegal w

/-- The core of row y fetches at its pc and runs what it fetches. -/
def hartRun (s : State) (y : Nat) : HartRes State := do
  let pc := (s.row y).hart.pc
  let lo ← hartFetch s y pc
  if field lo 0 2 = 3 then
    let hi ← hartFetch s y (pc + 2)
    hartExec s y (hi ++ lo) (pc + 4)
  else
    match rvc lo with
    | some w => hartExec s y w (pc + 2)
    | none => rvIllegal (lo.zeroExtend 32)

/-- A turn of the core of row y: it takes an interrupt, or runs one instruction and counts it, or takes an exception. A core whose row
has been taken over is held in reset (R456). -/
def State.hartTurn (s : State) (y : Nat) : State :=
  if 512 ≤ y ∨ (s.row y).takenBy.isSome then s
  else
    match s.interrupt y with
    | some n => s.setHart y ((s.row y).hart.trap true n 0)
    | none =>
      match hartRun s y with
      | .ok s' => s'.setHart y { (s'.row y).hart with instret := (s'.row y).hart.instret + 1 }
      | .error (.trap cause v) => s.hartTrap y cause v
      | .error .wait => s

end Sys2Proof.Machine
end

