-- ==== Sys2Proof/Machine/Agents.lean ====
section
/-! DEFINITION. What agents of the machine do by themselves that no row of the opcode table names: the words of a copy and of a
generator, the slots of a quad, the circuits between modules, a failing arbiter, and stored bits that change by themselves. -/

namespace Sys2Proof.Machine

open Sys2Proof

/-- The primary arbiter of an enabled group fails (R416): the group waits for its standby; one without a standby ends with its
domain (R438). -/
def State.arbiterFails (s : State) (gn : Nat) : State :=
  let g := s.xgroup gn
  if g.en = false ∨ g.dead then s
  else
    let s := s.setXgroup gn { g with dead := true }
    if g.hasStandby || g.taken then s
    else
      match (upto g.np).findSome? (s.agentCell g) with
      | some k => s.terminate (s.cell k).ident.dom
      | none => s

/-- What the turn of an agent does. -/
def State.agentActs (s : State) : AgentTurn → State
  | .copyWord b n w => s.copyWord b n w
  | .eagFetch e ahead => s.eagFetch e ahead
  | .slot q x rf => s.takeSlot q x rf
  | .circuitWords p c ws => s.circuitWords p c ws
  | .circuitAck p c nack => s.circuitAck p c nack
  | .circuitError src => s.circuitError src
  | .arbiterFails g => s.arbiterFails g
  | .accUpset k n e data => s.accUpset k n e data
  | .upset a u => s.upsetAt a u
  | .upsetLocal k w u => s.upsetLocal k w u
  | .hart y => s.hartTurn y

/-- An agent's turn; while the clocks of the module stand still, nothing happens. -/
def State.agentTurn (s : State) (a : AgentTurn) : State := if s.halted s.now then s else s.agentActs a

end Sys2Proof.Machine
end

