-- ==== Sys2Proof/Machine/Alloc.lean ====
section
/-! DEFINITION. Records that a service reads and writes (R470), and the functions of the allocator and the pager (R134, R139,
R140, R471, R472). -/

namespace Sys2Proof.Machine

open Sys2Proof

/-! ### Records in global memory (R470) -/

/-- The page by which a domain may read, or write, va as plain memory (R130, R137). -/
def State.plainPage (s : State) (dom : BitVec 12) (va : Nat) (write : Bool) : Option Page :=
  match s.pageOf va with
  | some p => if entryOk p.entry dom write && pKind p.entry = 0 && s.own (pAddr p.entry) then some p else none
  | none => none

/-- The physical address at which a service finds va. -/
def Page.place (p : Page) (va : Nat) : Nat := p.addr va % 2 ^ 50

/-- The word at address a that a service got for a call when the region of a came back from the host (R143). -/
def State.latch (s : State) (call : CallId) (a : Nat) : Option Val :=
  (s.carrier.svc.latched.find? (fun x => x.1 = call && x.2.1 = a)).map (fun x => x.2.2)

/-- The words, of n from va, that lie in regions that the host holds and that the service has still to get for a call (R143). -/
def State.recordHeld (s : State) (call : CallId) (dom : BitVec 12) (va n : Nat) : List Nat :=
  (upto n).filterMap (fun j =>
    match s.plainPage dom (va + 8 * j) false with
    | some p =>
      let a := p.place (va + 8 * j)
      if s.hostHeld a && (s.latch call a).isNone then some a else none
    | none => none)

/-- n words from va, for a call; none where one of them cannot be read, or is poisoned. -/
def State.readRecord (s : State) (call : CallId) (dom : BitVec 12) (va n : Nat) : Option (List Word) :=
  (upto n).mapM (fun j =>
    match s.plainPage dom (va + 8 * j) false with
    | some p =>
      let a := p.place (va + 8 * j)
      let w := (s.latch call a).getD (s.gword a)
      if w.p then none else some w.v
    | none => none)

/-- A service goes on with n words from va, or waits for those of them that the host holds (R143). -/
def State.withRecord (s : State) (call : CallId) (dom : BitVec 12) (va n : Nat) (body : Option (List Word) → Answer) : Answer :=
  match s.recordHeld call dom va n with
  | [] => body (s.readRecord call dom va n)
  | as => .later (as.foldl (fun s a => s.holdAt a (.service call)) s)

/-- The low n bytes of a word that a service writes at va; a word that the domain may not write stays, and one whose region the host
holds is written at the transfer (R143). -/
def State.putBytes (s : State) (dom : BitVec 12) (va n : Nat) (v : Word) : State :=
  match s.plainPage dom va true with
  | some p => if s.hostHeld (p.place va) then s.holdAt (p.place va) (.servicePut v n) else s.gwrite (p.place va) n v.toNat false
  | none => s

/-- A word that a service writes at va. -/
def State.writeRecord (s : State) (dom : BitVec 12) (va : Nat) (v : Word) : State := s.putBytes dom va 8 v

/-- n bytes of record words from va. -/
def State.writeRecords (s : State) (dom : BitVec 12) (va : Nat) (ws : List Word) : State :=
  (ws.zip (List.range ws.length)).foldl (fun s x => s.writeRecord dom (va + 8 * x.2) x.1) s

/-! ### Places (R472) -/

/-- n bytes at address a lie in a place: 0 HBM, 1 the vault of block b, 2 a vault, 3 host-shared HBM. -/
def inPlace (place b a n : Nat) : Bool :=
  if place = 0 ∨ place = 3 then decide (hbmBase ≤ a) && decide (a + n ≤ hbmTop)
  else populated a && decide (a % 0x2000000 + n ≤ 0x1800000) && decide (a < 0x2000000000) &&
    (place = 2 || decide (a / 0x2000000 = b))

/-- The bytes of a place. -/
def placeBytes (place : Nat) : Nat :=
  if place = 1 then 0x1800000 else if place = 2 then 4096 * 0x1800000 else hbmTop - hbmBase

/-- The free bytes of a place: those that no page and no service takes. -/
def State.freeBytes (s : State) (place b : Nat) : Nat :=
  placeBytes place - Config.serviceBytes place -
    (s.pages.filter (fun p => pValid p.entry && s.own (pAddr p.entry) &&
      inPlace place b (pAddr p.entry % 2 ^ 50) (pSize p.entry))).foldl (fun n p => n + pSize p.entry) 0

/-- The address lies in an HBM stack that did not train, which is not used (R37, R498). -/
def State.stackFailed (s : State) (a : Nat) : Bool :=
  decide (hbmBase ≤ a) && s.carrier.svc.failedStacks.contains ((a - hbmBase) / 2 ^ 36)

/-- No page uses any of n bytes at address a of the module, and no page is on its way there (R140). -/
def State.unused (s : State) (a n : Nat) : Bool :=
  !s.stackFailed a && !s.stackFailed (a + n - 1) &&
  s.pages.all (fun p => !(s.own (pAddr p.entry) && decide (pAddr p.entry % 2 ^ 50 < a + n) &&
    decide (a < pAddr p.entry % 2 ^ 50 + pSize p.entry))) &&
  s.changes.all (fun x => match x.kind with
    | .move pa => !(decide (pa < a + n) && decide (a < pa + x.len))
    | _ => true)

/-- The 2 MiB ranges of n bytes at address a hold host-shared pages alone, or none (R142). -/
def State.sharesOk (s : State) (a n : Nat) (hs : Bool) : Bool :=
  s.pages.all (fun p =>
    let b := pAddr p.entry % 2 ^ 50
    !(pValid p.entry && s.own (pAddr p.entry) && decide (regionOf b ≤ regionOf (a + n - 1)) &&
      decide (regionOf a ≤ regionOf (b + pSize p.entry - 1))) || pHostShared p.entry = hs)

/-- No page contains any of n bytes at virtual address va. -/
def State.unmapped (s : State) (va n : Nat) : Bool :=
  s.pages.all (fun p => !(decide (p.va < va + n) && decide (va < p.va + pSize p.entry)))

/-- A page that the allocator may take: free, aligned, and in its place. -/
def State.pageFree (s : State) (place b n : Nat) (c : PageChoice) : Bool :=
  c.pa % n = 0 && c.va % n = 0 && decide (c.va + n ≤ 2 ^ 57) && inPlace place b c.pa n && s.unused c.pa n &&
  s.sharesOk c.pa n (place = 3) && s.unmapped c.va n

/-- The pages of one allocation: contiguous from the first in virtual memory, each free, no two of one physical page; those of
host-shared memory fill whole regions of 2 MiB (R142). -/
def State.choiceOk (s : State) (place b n : Nat) (cs : List PageChoice) : Bool :=
  cs.all (s.pageFree place b n) &&
  (cs.zip (List.range cs.length)).all (fun x => decide (x.1.va = (cs.head?.map PageChoice.va).getD 0 + n * x.2)) &&
  decide (cs.map PageChoice.pa).Nodup &&
  (place ≠ 3 || (cs.zip (List.range cs.length)).all (fun x =>
    let i := x.2 % (0x200000 / n)
    decide (0x200000 ≤ n) || (decide (x.1.pa % 0x200000 = n * i) &&
      (i = 0 || ((cs.drop (x.2 - 1)).head?.map (fun y => decide (y.pa + n = x.1.pa))).getD false))))

/-! ### Pages -/

/-- A translation entry (R136) of this module, with W = 1 and G = 0. -/
def State.newEntry (s : State) (kind size pa : Nat) (dom : BitVec 12) (hs : Bool) : Word :=
  at_ kind 62 ||| at_ size 60 ||| at_ (s.modNo.toNat * 2 ^ 34 + pa / 2 ^ 16) 16 ||| at_ dom.toNat 4 ||| 8 |||
    at_ (b2n hs) 2 ||| 1

/-- n bytes at address a read 0 and are clean, their words are empty (R134), and nothing is wrong with their parity. -/
def State.clearBytes (s : State) (a n : Nat) : State :=
  let out (k m : Nat) : Bool := !(decide (a / m ≤ k) && decide (k < (a + n) / m))
  { s with
    mem := s.mem.filter (fun x => out x.1 1)
    memPoison := s.memPoison.filter (fun x => out x.1 8)
    present := s.present.filter (fun x => out x.1 8)
    upsets := s.upsets.filter (fun x => out x.1 8) }

/-- The pages of a choice are mapped for a domain and initialised (R134, R472); a host-shared region enters ACC (R142). -/
def State.mapPages (s : State) (kind size : Nat) (dom : BitVec 12) (hs : Bool) (cs : List PageChoice) : State :=
  cs.foldl (fun s c =>
    let s := s.clearBytes c.pa (pageSize size)
    let s := if hs then
        (upto (max 1 (pageSize size / 0x200000))).foldl (fun s j => s.setRegion (regionOf c.pa + j) {}) s
      else s
    { s with pages := s.pages ++ [⟨c.va, s.newEntry kind size c.pa dom hs, 0⟩] }) s

/-! ### Allocator: service 0 -/

/-- A change that this call began is in progress. -/
def State.callChanging (s : State) (id : CallId) : Bool := s.changes.any (fun x => x.call = id)

/-- ALLOC (R134, R471, R472). `choice` is where the allocator puts the pages; an empty one is its answer that there is no
room, which it gives for pages of 64 KiB only when too few bytes are free or host-shared pages bind whole ranges (log entry 14). -/
def execAlloc (call : CallId) (choice : List PageChoice) (s : State) : Host.Outcome State Fault Refusal :=
  serve call 0 0 false
    (fun v =>
      let place := field v 57 3
      field v 48 9 = 0 && field v 0 48 ≠ 0 && field v 62 2 ≠ 3 && field v 60 2 ≠ 3 && decide (place < 4) &&
      (place = 0 || place = 3 || field v 60 2 ≠ 2) && (place ≠ 3 || field v 62 2 = 0))
    (fun s x =>
      let place := field x.arg 57 3
      let size := field x.arg 60 2
      let n := pageSize size
      let b := blockOf x.cell
      let round := if place = 3 then max n 0x200000 else n
      let len := (field x.arg 0 48 + round - 1) / round * round
      if choice.isEmpty then
        if s.freeBytes place b < len ∨ size ≠ 0 ∨ place = 3 ∨ s.pages.any (fun p => pHostShared p.entry) then .reply s svNoMem 0
        else .later s
      else if choice.length * n ≠ len ∨ s.choiceOk place b n choice = false then .later s
      else
        let va := (choice.head?.map PageChoice.va).getD 0
        let s := s.mapPages (field x.arg 62 2) size x.dom (place = 3) choice
        .reply (s.modSvc (fun v => { v with allocs := v.allocs ++ [⟨x.dom, va, len⟩] })) 0 (ofNat va)) s

/-- FREE (R139, R471, R472): it replies when the change is complete. -/
def execFree (call : CallId) (s : State) : Host.Outcome State Fault Refusal :=
  serve call 0 1 false (fun _ => true)
    (fun s x =>
      if s.callChanging call then .later s
      else
        match s.carrier.svc.allocs.find? (fun a => a.dom = x.dom && a.va = uns x.arg) with
        | none => .reply s svArg 0
        | some a =>
          let s := s.modSvc (fun v => { v with allocs := v.allocs.filter (fun y => y ≠ a) })
          .later (s.beginChange { call, va := a.va, len := a.len, dom := a.dom, kind := .unmap, waits := [] })) s

/-- AVAIL (R471, R472). -/
def execAvail (call : CallId) (s : State) : Host.Outcome State Fault Refusal :=
  serve call 0 2 false (fun v => v &&& ~~~(at_ 3 57) = 0)
    (fun s x => .reply s 0 (ofNat (s.freeBytes (field x.arg 57 3) (blockOf x.cell)))) s

/-! ### Pager: service 1 -/

/-- The page of the caller's domain that holds va (R472). -/
def State.callerPage (s : State) (x : Request) (va : Nat) : Option Page :=
  s.pages.find? (fun p => p.holds va && pValid p.entry && pDom p.entry = x.dom)

/-- PROT (R139, R471). -/
def execProt (call : CallId) (s : State) : Host.Outcome State Fault Refusal :=
  serve call 1 0 false (fun v => field v 57 6 = 0)
    (fun s x =>
      if s.callChanging call then .later s
      else
        match s.callerPage x (field x.arg 0 57) with
        | none => .reply s svArg 0
        | some p => .later (s.beginChange { call, va := p.va, len := pSize p.entry, dom := x.dom,
                                            kind := .setWrite (x.arg.getLsbD 63), waits := [] })) s

/-- MIGRATE (R140, R471, R472): `pa` is the new place of the page. A host-shared page stays in HBM, and no other page becomes
one (R137). -/
def execMigrate (call : CallId) (pa : Nat) (s : State) : Host.Outcome State Fault Refusal :=
  serve call 1 1 false (fun v => field v 60 4 = 0 && decide (field v 57 3 < 4))
    (fun s x =>
      if s.callChanging call then .later s
      else
        let place := field x.arg 57 3
        match s.callerPage x (field x.arg 0 57) with
        | none => .reply s svArg 0
        | some p =>
          let n := pSize p.entry
          let vault := decide (place = 1 ∨ place = 2)
          if (vault && (pSizeCode p.entry = 2 || pHostShared p.entry)) || (place = 3 && !pHostShared p.entry) then
            .reply s svArg 0
          else if s.freeBytes place (blockOf x.cell) < n then .reply s svNoMem 0
          else if pa % n ≠ 0 ∨ inPlace place (blockOf x.cell) pa n = false ∨ s.unused pa n = false ∨
              s.sharesOk pa n (pHostShared p.entry) = false then .later s
          else .later (s.beginChange { call, va := p.va, len := n, dom := x.dom, kind := .move pa, waits := [] })) s

/-- ENTRY (R471). -/
def execEntry (call : CallId) (s : State) : Host.Outcome State Fault Refusal :=
  serve call 1 2 false (fun v => field v 57 7 = 0)
    (fun s x =>
      match s.callerPage x (field x.arg 0 57) with
      | none => .reply s svArg 0
      | some p => .reply s 0 p.entry) s

end Sys2Proof.Machine
end

