-- ==== Sys2Proof/Machine/ReadOut.lean ====
section
/-! DEFINITION. The stream that Medlar reads out of a frozen module (R494). Where the spec gives a class no layout or length the answer is
none. -/

namespace Sys2Proof.Machine

open Sys2Proof

/-! ### The read-out stream (R494) -/

/-- Words that a cell's page gives for the classes 0 and 1. -/
def storeWords : Nat := 0x24000 / 8
def pageWords : Nat := 0x40000 / 8
def cellWords (m : BitVec 8) : Nat :=
  (if m.getLsbD 1 then storeWords else 0) + (if m.getLsbD 0 then pageWords - storeWords else 0)

/-- Words of the strip, quad and block pages of row y. -/
def stripWords (m : BitVec 8) : Nat := if m.getLsbD 2 then 64 * pageWords else 0
def quadWords (m : BitVec 8) : Nat := if m.getLsbD 3 then 128 * pageWords else 0
def blockWords (m : BitVec 8) (y : Nat) : Nat := if m.getLsbD 4 ∧ y % 8 = 0 then 64 * (0x10000 / 8) else 0

/-- Words of row y: its header, the pages of its cells, strips, quads, and of the blocks whose top row it is. -/
def rowWords (m : BitVec 8) (y : Nat) : Nat := 1 + 512 * cellWords m + stripWords m + quadWords m + blockWords m y

/-- Word n of row y. Read-out changes no state. -/
def State.rowWord (s : State) (m : BitVec 8) (y n : Nat) : Word :=
  let page (n base : Nat) (f : Nat → Nat → Word) : Word := f (base + n / pageWords) (8 * (n % pageWords))
  if n = 0 then at_ y 55 ||| m.zeroExtend 64
  else if n < 1 + 512 * cellWords m then
    let i := (n - 1) % cellWords m
    s.cellPageWord (512 * y + (n - 1) / cellWords m) (8 * (if m.getLsbD 1 then i else i + storeWords))
  else
    let n := n - (1 + 512 * cellWords m)
    if n < stripWords m then page n (64 * y) (fun st o => Config.pageShow 1 o (s.stripWord st (Config.stripItem o)))
    else
      let n := n - stripWords m
      if n < quadWords m then page n (128 * y) (fun q o => Config.pageShow 2 o (s.quadWord q (Config.quadItem o)))
      else
        let n := n - quadWords m
        let o := 8 * (n % (0x10000 / 8))
        Config.pageShow 3 o (s.blockWord (8 * y + n / (0x10000 / 8)) (Config.blockItem o))

/-- Word n of the stream from row y on, over r rows and then the edge engines. The router and trace classes have no stated size,
so that nothing after the first row is placed with them. -/
def State.streamFrom (s : State) (m : BitVec 8) : Nat → Nat → Nat → Option Word
  | 0, _, n => if m.getLsbD 6 ∧ n < 317 * (0x10000 / 8) then some (s.edgeWord (n / (0x10000 / 8)) (8 * (n % (0x10000 / 8)))) else none
  | r + 1, y, n =>
    if n < rowWords m y then some (s.rowWord m y n)
    else if m.getLsbD 5 ∨ m.getLsbD 7 then none
    else s.streamFrom m r (y + 1) (n - rowWords m y)

/-- Word n of the stream that MDLSEL selects. -/
def State.streamWord (s : State) (n : Nat) : Option Word :=
  let sel := s.carrier.dbg.sel
  s.streamFrom (sel.extractLsb' 0 8) (field sel 46 9 + 1) (field sel 55 9) n

end Sys2Proof.Machine
end

