-- ==== Sys2Proof/Machine/Wake.lean ====
section
/-! DEFINITION. The conditions on which a task sleeps (R24), the wake when one is met, and the stall reason that a sample shows
(R360, R371, R490). -/

namespace Sys2Proof.Machine

open Sys2Proof

/-- The condition that a sleeping task of cell k waits for is met. -/
def State.waitMet (s : State) (k : Nat) (on : WaitCond) : Bool :=
  let c := s.cell k
  let t := s.strip (stripOf k)
  let j := slotOf k
  match on with
  | .slots m => c.pendingMask &&& m = 0
  | .reg n => !c.busy.contains n
  | .head p n => decide (n < (c.inEp p).occ)
  | .anyHead m => (bitsOf m 8).any c.hasHead
  | .room p n => decide (n ≤ (c.outEp p).room)
  | .phaseRoom => decide (c.phaseOut.length < 16)
  | .flushed p r n => c.flushedTo p r n
  | .copyRoom => decide (c.copies.length < 4)
  | .callRoom => decide (c.calls.length < 4)
  | .accRoom => decide (c.accs.length < 32)
  | .fence sc n => s.fenceMet k c sc.toNat n (c.step - 1)
  | .sem n v => decide (v ≤ (c.sem n).value.toNat)
  | .evEpisode n =>
    let b := t.bar n
    SMap.find b.arrived j ≠ some b.gen.toNat && !b.arr.getLsbD j && !t.arriving n j
  | .evPend n => (t.ev n).pend.getLsbD j
  | .evSig n => !(t.ev n).sigd.getLsbD j && !t.signalling n j
  | .evMutex m => (t.mut m).hold = some j && !t.locking m j
  | .vqRoom => decide (c.vec.queue.length < 16)
  | .vports m => m &&& c.vports = 0
  | .vreg rd wr => c.vregClear rd wr
  | .matRoom n => decide (c.mat.entries.length + n ≤ 16)
  | .matDone _ => c.mat.entries.isEmpty
  | .page va => (s.lookup k c va).isSome || c.refused = some va
  | .rebuilds => !s.storeBusy k 0 0x20000
  | .rewindRoom n => decide ((s.cell n).rewinds.length < 16)
  | .settled => s.settled k

/-- The condition is met, and the task resumes at the instruction on which it slept (R24); a wait on a semaphore is traced (R267). -/
def execTaskWake (cell : Nat) (s : State) : Host.Outcome State Fault Refusal :=
  let c := s.cell cell
  match c.wait with
  | some (_, on) =>
    if c.st = .asleep ∧ s.waitMet cell on then
      let s := match on with
        | .sem n t => s.trace cell 7 (at_ n 40 ||| at_ (t % 2 ^ 40) 0)
        | _ => s
      .next (s.setCell cell { c with st := .running, wait := none })
    else .next s
  | none => .next s

/-! ### What a sample shows (R490) -/

/-- The number of a stall reason. -/
def Stall.code : Stall → Nat
  | .none => 0 | .popEmpty => 1 | .pushFull => 2 | .token => 3 | .semaphore => 4 | .event => 5 | .gang => 6 | .leave => 7
  | .vqueue => 8 | .translation => 9 | .deferred => 10

/-- The stage-C burst of instruction n of cell k waits for leave (R358). -/
def State.burstWaits (s : State) (k n : Nat) : Bool :=
  (s.quad (quadOf k)).stageC.any (fun b => b.cell = k && b.seq = n && b.asked && !b.granted)

/-- The reason that a predicate gives to a cell that waits on it: leave while its burst waits, predicate in stages B and C, and token
before and after (R360). -/
def State.predicateReason (s : State) (k : Nat) (e : VEntry) : Nat :=
  if s.burstWaits k e.tok.seq then 7 else if e.lanes.any (fun x => x.stage = .none) then 11 else 3

/-- A copy of the cell that waits for leave (R39). -/
def State.copyWaits (s : State) (k : Nat) (p : Tok → Bool) : Bool :=
  (s.block (blockOf k)).copyq.any (fun m => m.cell = k && m.leave = 1 && p m.tok)

/-- What the cell waits for at slots of a mask, or at a register: a predicate past hand-off, a joined group, a copy that waits for
leave, a deferred read or an access that its home tile holds, and else a token. -/
def State.tokenReason (s : State) (k : Nat) (m : BitVec 8) (reg : Option Nat) : Nat :=
  let c := s.cell k
  let of_ (t : Tok) : Bool := t.slot.any (fun x => m.getLsbD x.toNat)
  let acc (a : Access) : Bool := of_ a.tok || reg.any (fun n => a.d.toNat = n && a.kind ≠ .stg && a.kind ≠ .stf && a.kind ≠ .clrf)
  match c.vec.preds.find? (fun e => of_ e.tok && s.predicateReason k e ≠ 3) with
  | some e => s.predicateReason k e
  | none =>
    match c.mat.entries.find? (fun e => of_ e.tok && e.join.isSome) with
    | some e => if e.join.any (fun x => (s.stripMat (stripOf k)).waiting x.j) then 7 else 6
    | none =>
      if s.copyWaits k of_ then 7
      else if c.accs.any (fun a => acc a && a.status = .ownerWait) then 9
      else if c.accs.any (fun a => acc a && a.kind = .ldf && a.waitsFill) then 10
      else 3

/-- The cell waits for predicates that write one of the vector registers. -/
def State.predReason (s : State) (k : Nat) (regs : List Nat) : Nat :=
  let es := (s.cell k).vec.preds.filter (fun e => regs.any (fun n => (predWrites e.x).contains n))
  match es.find? (fun e => s.predicateReason k e ≠ 3) with
  | some e => s.predicateReason k e
  | none => 3

/-- The stall reason of cell k. A cell that runs issues; one without a task is idle. -/
def State.sampleReason (s : State) (k : Nat) : Nat :=
  let c := s.cell k
  match c.st with
  | .parked => 13
  | .running => 0
  | .asleep =>
    match c.wait with
    | some (_, .slots m) => s.tokenReason k m none
    | some (_, .reg n) => s.tokenReason k 0 (some n)
    | some (_, .vreg rd wr) => s.predReason k (rd ++ wr)
    | some (_, .matDone _) =>
      if c.mat.entries.any (fun e => e.join.any (fun x => (s.stripMat (stripOf k)).waiting x.j)) then 7 else 6
    | some (why, _) => why.code
    | none => 0
  | _ => 12

end Sys2Proof.Machine
end

