-- ==== Sys2Proof/Machine/Debug.lean ====
section
/-! DEFINITION. The Medlar freeze and its read-out by the TAP (R493 to R495), PC samples and timestamps (R490 to R492). -/

namespace Sys2Proof.Machine

open Sys2Proof

def State.dbg (s : State) : Debug := s.carrier.dbg
def State.setDbg (s : State) (d : Debug) : State := { s with carrier := { s.carrier with dbg := d } }

/-! ### The freeze (R493) -/

/-- Pin MDL_FRZ_N goes low. -/
def execFreezePin (s : State) : Host.Outcome State Fault Refusal := .next (s.requestFreeze true 0)

/-- A row manager writes 1 to MDLCTL.FREEZE. -/
def execMdlctlFreeze (row : Nat) (s : State) : Host.Outcome State Fault Refusal := .next (s.requestFreeze false row)

/-- Every link port that is up sends its peer a notice: FROZEN, or THAWED (R493, R495). -/
def State.sendNotices (s : State) (frozen : Bool) : State :=
  (upto 32).foldl (fun s p =>
    let x := s.linkPort p
    if x.up then s.setLinkPort p { x with notice := frozen } else s) s

/-- 64 clk after the request every clock stops: the links send FROZEN, and HBM refreshes itself. -/
def execFreezeStop (s : State) : Host.Outcome State Fault Refusal :=
  let d := s.dbg
  match d.stopAt with
  | some t =>
    if t ≤ s.now then .next { (s.sendNotices true).setDbg { d with stopAt := none, fcnt := d.fcnt + 1, shifted := 0 } with frozen := true }
    else .next s
  | none => .next s

/-- A FROZEN notice of the peer arrives: nothing is counted towards it until it thaws. -/
def execFrozenNotice (port : Nat) (s : State) : Host.Outcome State Fault Refusal :=
  let x := s.linkPort port
  if x.up then .next (s.setLinkPort port { x with peerFrozen := true }) else .next s

/-- A THAWED notice of the peer arrives (R495). -/
def execThawedNotice (port : Nat) (s : State) : Host.Outcome State Fault Refusal :=
  let x := s.linkPort port
  if x.up then .next (s.setLinkPort port { x with peerFrozen := false }) else .next s

/-! ### The TAP (R494, R495) -/

/-- The instruction register takes a code. -/
def State.tap (s : State) (code : BitVec 8) : State := s.setDbg { s.dbg with ir := code }

/-- The boundary-scan register captures the pins and is shifted out (R494): free values (log entry 18). -/
def State.scanPins (s : State) (code : BitVec 8) : State :=
  let w := Config.freeWord s.fresh
  { s.setDbg { s.dbg with ir := code, scan := w, out := w } with fresh := s.fresh + 1 }

/-- EXTEST and SAMPLE/PRELOAD select the boundary-scan register. -/
def execExtest (s : State) : Host.Outcome State Fault Refusal := .next (s.scanPins 0x00)
def execSamplePreload (s : State) : Host.Outcome State Fault Refusal := .next (s.scanPins 0x02)

/-- IDCODE shifts out the identity code: part 0x5A71 in bits [27:12] and bit 0 set, as IEEE 1149.1 places them; the rest is not in
the spec (log entry 18). -/
def idcodeWord : BitVec 32 := (Config.idcode &&& 0xF0000FFF#32) ||| 0x05A71001#32

def execIdcode (s : State) : Host.Outcome State Fault Refusal :=
  .next (s.setDbg { s.dbg with ir := 0x01, out := idcodeWord.zeroExtend 64 })

/-- BYPASS selects the one-bit register, which captures 0 (R7: IEEE 1149.1). -/
def execBypass (s : State) : Host.Outcome State Fault Refusal :=
  .next (s.setDbg { s.dbg with ir := 0xFF, bypass := false, out := 0 })

/-- MDLSEL selects rows and classes; the stream begins anew. -/
def execMdlsel (data : Word) (s : State) : Host.Outcome State Fault Refusal :=
  .next (s.setDbg { s.dbg with ir := 0x10, sel := data, shifted := 0 })

/-- MDLLANES moves the stream to the Bramble lanes, or back. -/
def execMdllanes (on : Bool) (s : State) : Host.Outcome State Fault Refusal :=
  .next (s.setDbg { s.dbg with ir := 0x12, lanes := on })

/-- MDLREAD shifts out the next word of the stream, and zeros while the module is not frozen. -/
def execMdlread (s : State) : Host.Outcome State Fault Refusal :=
  let d := { s.dbg with ir := 0x11 }
  if s.frozen then
    .next (s.setDbg { d with
      out := (s.streamWord d.shifted).getD (Config.readOut d.fcnt.toNat d.shifted), shifted := d.shifted + 1 })
  else .next (s.setDbg { d with out := 0 })

/-- MDLRESUME restarts every clock, and the links send THAWED; it alone ends a freeze (R495). -/
def execMdlresume (s : State) : Host.Outcome State Fault Refusal :=
  .next (if s.frozen then { (s.sendNotices false).tap 0x13 with frozen := false } else s.tap 0x13)

/-! ### Trace (R490 to R492) -/

/-- A cell whose SAMP divides its sys.clk emits a SAMPLE record. -/
def execPcSample (cell : Nat) (s : State) : Host.Outcome State Fault Refusal :=
  let c := s.cell cell
  let n := (c.debugField 12).toNat
  if n = 0 ∨ (c.clk s.now).toNat % n ≠ 0 then .next s
  else
    .next (s.pushTrace (yOf cell) 2 cell c.ident.dom
      (at_ (s.sampleReason cell) 28 ||| at_ c.st.code 24 ||| at_ c.sys.entry.toNat 16 ||| at_ (c.pc % 2048) 0))

/-- Every row emits a TIME record each 2^28 clk of the module timestamp. -/
def execTraceTime (row : Nat) (s : State) : Host.Outcome State Fault Refusal :=
  if s.stampAt.isSome ∧ s.stamp % 2 ^ 28 = 0 then .next (s.pushTrace row 1 (512 * row) 0 (ofNat s.stamp)) else .next s

end Sys2Proof.Machine
end

