-- ==== Sys2Proof/Machine/Xmss.lean ====
section
/-! DEFINITION. SHAKE256 and XMSS-SHAKE256_20_256 (R483, R485). R7 names RFC 8391 and SP 800-208 without restating them: what they say is
taken from those standards (log entry 16). A byte string is a list of bytes; an integer in it has its most significant byte first. -/

namespace Sys2Proof.Machine

open Sys2Proof

/-- 8 bytes as a word, little-endian. -/
def bytesWord (bs : List Byte) : Word := bs.foldr (fun b v => (v <<< 8) ||| b.zeroExtend 64) 0

/-! ### SHAKE256 -/

abbrev Lanes := List Word

/-- The constants of iota. -/
def keccakRound : Lanes :=
  [0x0000000000000001, 0x0000000000008082, 0x800000000000808A, 0x8000000080008000, 0x000000000000808B, 0x0000000080000001,
   0x8000000080008081, 0x8000000000008009, 0x000000000000008A, 0x0000000000000088, 0x0000000080008009, 0x000000008000000A,
   0x000000008000808B, 0x800000000000008B, 0x8000000000008089, 0x8000000000008003, 0x8000000000008002, 0x8000000000000080,
   0x000000000000800A, 0x800000008000000A, 0x8000000080008081, 0x8000000000008080, 0x0000000080000001, 0x8000000080008008]

/-- The distances of rho, of lane x + 5y. -/
def keccakShift : List Nat :=
  [0, 1, 62, 28, 27, 36, 44, 6, 55, 20, 3, 10, 43, 25, 39, 41, 45, 15, 21, 8, 18, 2, 61, 56, 14]

def lane (a : Lanes) (x y : Nat) : Word := a.getD (x % 5 + 5 * (y % 5)) 0

def keccakTheta (a : Lanes) : Lanes :=
  let c := (upto 5).map (fun x => lane a x 0 ^^^ lane a x 1 ^^^ lane a x 2 ^^^ lane a x 3 ^^^ lane a x 4)
  (upto 25).map (fun i => lane a (i % 5) (i / 5) ^^^ lane c (i % 5 + 4) 0 ^^^ (lane c (i % 5 + 1) 0).rotateLeft 1)

/-- Rho and pi: lane (x, y) of the result comes from lane (x + 3y, x). -/
def keccakMove (a : Lanes) : Lanes :=
  (upto 25).map (fun i =>
    let x := (i % 5 + 3 * (i / 5)) % 5
    (lane a x (i % 5)).rotateLeft (keccakShift.getD (x + 5 * (i % 5)) 0))

def keccakChi (a : Lanes) : Lanes :=
  (upto 25).map (fun i => lane a (i % 5) (i / 5) ^^^ (~~~(lane a (i % 5 + 1) (i / 5)) &&& lane a (i % 5 + 2) (i / 5)))

def keccak (a : Lanes) : Lanes :=
  keccakRound.foldl (fun a c => (keccakChi (keccakMove (keccakTheta a))).zipWith (· ^^^ ·) (c :: List.replicate 24 0)) a

/-- The 136 bytes of a block are mixed in. -/
def absorb (a : Lanes) (block : List Byte) : Lanes :=
  keccak (a.zipWith (· ^^^ ·) ((upto 17).map (fun i => bytesWord ((block.drop (8 * i)).take 8)) ++ List.replicate 8 0))

/-- n blocks of a padded message, from the first. -/
def absorbAll : Nat → Lanes → List Byte → Lanes
  | 0, a, _ => a
  | n + 1, a, m => absorbAll n (absorb a (m.take 136)) (m.drop 136)

/-- The first 32 bytes of SHAKE256. -/
def shake256 (m : List Byte) : List Byte :=
  let n := m.length / 136 + 1
  let gap := 136 * n - m.length
  let pad : List Byte := if gap = 1 then [0x9F] else 0x1F :: (List.replicate (gap - 2) 0 ++ [0x80])
  let a := absorbAll n (List.replicate 25 0) (m ++ pad)
  (upto 32).map (fun i => BitVec.ofNat 8 (uns (a.getD (i / 8) 0) / 2 ^ (8 * (i % 8))))

/-! ### The keyed functions and addresses -/

/-- v in n bytes. -/
def toByte (v n : Nat) : List Byte := (upto n).map (fun i => BitVec.ofNat 8 (v / 256 ^ (n - 1 - i)))

/-- A byte string as an integer. -/
def ofBytes (bs : List Byte) : Nat := bs.foldl (fun v b => 256 * v + b.toNat) 0

def xorBytes (a b : List Byte) : List Byte := a.zipWith (· ^^^ ·) b

/-- F, H, H_msg and PRF are SHAKE256 under a code, 0 to 3. -/
def keyed (code : Nat) (key m : List Byte) : List Byte := shake256 (toByte code 32 ++ key ++ m)

/-- An address: layer and tree 0, the type, three words of it, and the key-and-mask word. -/
def hashAddress (type a b c mask : Nat) : List Byte :=
  toByte 0 12 ++ toByte type 4 ++ toByte a 4 ++ toByte b 4 ++ toByte c 4 ++ toByte mask 4

def prf (seed adrs : List Byte) : List Byte := keyed 3 seed adrs

/-! ### WOTS+ -/

/-- `steps` steps of chain i of leaf l, from step `start`. -/
def wotsChain (seed : List Byte) (l i : Nat) : (start steps : Nat) → List Byte → List Byte
  | _, 0, x => x
  | j, n + 1, x =>
    wotsChain seed l i (j + 1) n
      (keyed 0 (prf seed (hashAddress 0 l i j 0)) (xorBytes x (prf seed (hashAddress 0 l i j 1))))

/-- The 67 digits of a digest: 64 of it and 3 of the checksum. -/
def wotsDigits (m : List Byte) : List Nat :=
  let d := m.flatMap (fun b => [b.toNat / 16, b.toNat % 16])
  let c := d.foldl (fun s x => s + (15 - x)) 0
  d ++ [c / 256 % 16, c / 16 % 16, c % 16]

/-! ### Trees -/

/-- The hash of two nodes at a tree address. -/
def hashPair (seed : List Byte) (type a height index : Nat) (l r : List Byte) : List Byte :=
  let p (mask : Nat) : List Byte := prf seed (hashAddress type a height index mask)
  keyed 1 (p 0) (xorBytes l (p 1) ++ xorBytes r (p 2))

/-- One level of the tree over a leaf's chains, from node `index` on. -/
def ltreeLevel (seed : List Byte) (l height : Nat) : (index : Nat) → List (List Byte) → List (List Byte)
  | i, a :: b :: rest => hashPair seed 1 l height i a b :: ltreeLevel seed l height (i + 1) rest
  | _, rest => rest

/-- `levels` levels of it. -/
def ltree (seed : List Byte) (l : Nat) : (height levels : Nat) → List (List Byte) → List Byte
  | _, 0, ns => ns.headD []
  | h, n + 1, ns => ltree seed l (h + 1) n (ltreeLevel seed l h 0 ns)

/-- From a node at a height up the authentication path. -/
def authPath (seed : List Byte) (l : Nat) : (height : Nat) → List Byte → List (List Byte) → List Byte
  | _, node, [] => node
  | h, node, a :: rest =>
    let next (x y : List Byte) : List Byte := hashPair seed 2 0 h (l / 2 ^ (h + 1)) x y
    authPath seed l (h + 1) (if l / 2 ^ h % 2 = 0 then next node a else next a node) rest

/-! ### Signatures (R483) -/

/-- Bytes 32i to 32i + 31 after the first k. -/
def part32 (bs : List Byte) (k i : Nat) : List Byte := (bs.drop (k + 32 * i)).take 32

/-- The digest of a message under a randomiser and a root. -/
def messageDigest (r root : List Byte) (l : Nat) (m : List Byte) : List Byte := keyed 2 (r ++ root ++ toByte l 32) m

/-- A signature of 2,820 bytes verifies under a public key of 68: OID, root and seed. -/
def xmssOk (key sig m : List Byte) : Bool :=
  let root := part32 key 4 0
  let seed := part32 key 4 1
  let l := ofBytes (sig.take 4)
  let digits := wotsDigits (messageDigest (part32 sig 4 0) root l m)
  let ends := digits.zipIdx.map (fun d => wotsChain seed l d.2 d.1 (15 - d.1) (part32 sig 36 d.2))
  let leaf := ltree seed l 0 7 ends
  decide (ofBytes (key.take 4) = 0x12) && decide (l < 2 ^ 20) &&
  decide (authPath seed l 0 leaf ((upto 20).map (part32 sig 2180)) = root)

/-- The signature over m with leaf l of the identity key: its secrets are constants (log entry 16). -/
def identitySign (l : Nat) (m : List Byte) : List Byte :=
  let secret (k i : Nat) : List Byte := (upto 32).map (Config.identityKey k l i)
  let root := (upto 32).map (Config.identityKey 0 0 0)
  let seed := (upto 32).map (Config.identityKey 0 0 1)
  let digits := wotsDigits (messageDigest (secret 1 0) root l m)
  toByte l 4 ++ secret 1 0 ++ digits.zipIdx.flatMap (fun d => wotsChain seed l d.2 0 d.1 (secret 2 d.2)) ++
    (upto 20).flatMap (secret 3)

/-- The bytes of a list of words, each with its lowest byte first. -/
def wordBytes (ws : List Word) : List Byte := ws.flatMap (fun w => (upto 8).map (fun i => w.extractLsb' (8 * i) 8))

/-- A digest as four words, byte 0 at the lowest address. -/
def digestWords (m : List Byte) : List Word :=
  let d := shake256 m
  (upto 4).map (fun j => bytesWord ((d.drop (8 * j)).take 8))

/-! ### Firmware images (R483) -/

/-- n bytes of a firmware image from byte k, little-endian. -/
def imageField (bs : List Byte) (k n : Nat) : Nat :=
  ((bs.drop k).take n).foldr (fun b v => b.toNat + 256 * v) 0

/-- The body of a firmware image. -/
def imageBody (bs : List Byte) : List Byte := (bs.drop 132).take (imageField bs 16 8)

end Sys2Proof.Machine
end

