-- ==== Sys2Proof/Machine/Loader.lean ====
section
/-! DEFINITION. The loader's reading of a load: the load parameter block and its checks (R476 to R478), the layout of rings and
windows (R205 to R208), the placement, and the configuration of every unit (R13, R16, R91, R94). -/

namespace Sys2Proof.Machine

open Sys2Proof

/-! ### Status codes of a load (R467) -/

def ldFormat : Nat := 0x100
def ldZeroUnits : Nat := 0x101
def ldUnitRange : Nat := 0x102
def ldNoFit : Nat := 0x103
def ldShape : Nat := 0x104
def ldPair : Nat := 0x105
def ldQsize : Nat := 0x106
def ldParam : Nat := 0x107
def ldEdge : Nat := 0x108
def ldEntry : Nat := 0x109
def ldPlace : Nat := 0x10A

/-! ### The load parameter block (R476, R477) -/

/-- A block as read: its first six words, its entries, and whether reading met an entry of unknown type or wrong length, which
then follows the entries. -/
structure Lpb where
  head : List Word
  entries : List (List Word)
  whole : Bool

def Lpb.word (b : Lpb) (i : Nat) : Word := b.head.getD i 0
def Lpb.dom (b : Lpb) : BitVec 12 := (b.word 2).extractLsb' 52 12
def Lpb.entryEdge (b : Lpb) : Nat := field (b.word 2) 32 16
def Lpb.flog2 (b : Lpb) : Nat := field (b.word 2) 24 5
def Lpb.target (b : Lpb) : Nat := field (b.word 4) 0 32
/-- Every word of the block, in order. -/
def Lpb.all (b : Lpb) : List Word := b.head ++ b.entries.flatten

def entryHead (e : List Word) : Word := e.headD 0
def entryType (e : List Word) : Nat := field (entryHead e) 56 8
/-- Bits [47:32] of an entry's header: a node, parameter, region or edge. -/
def entryIndex (e : List Word) : Nat := field (entryHead e) 32 16

/-- The length that a type has; 0 for an unknown type. -/
def entryLen (w : Word) : Nat :=
  match field w 56 8 with
  | 1 => 1
  | 2 => 1
  | 3 => 2
  | 4 => if field w 29 3 = 4 then 2 else 1
  | 5 => 1
  | 6 => 17
  | 7 => 4
  | 8 => 1
  | _ => 0

/-- The entries in a list of words. -/
def splitEntries : Nat → List Word → List (List Word)
  | 0, _ => []
  | n + 1, ws => ws.take (entryLen (ws.headD 0)) :: splitEntries n (ws.drop (entryLen (ws.headD 0)))

/-- A block that was read before. -/
def Lpb.ofWords (ws : List Word) : Lpb := ⟨ws.take 6, splitEntries (field (ws.headD 0) 40 16) (ws.drop 6), true⟩

/-- n entries from va, for a call; none where one cannot be read. -/
def State.readEntries (s : State) (call : CallId) (dom : BitVec 12) : Nat → Nat → Option (List (List Word) × Bool)
  | 0, _ => some ([], true)
  | n + 1, va =>
    match s.readRecord call dom va 1 with
    | some [w] =>
      let len := field w 48 8
      if entryLen w = 0 ∨ len ≠ entryLen w then some ([], false)
      else
        match s.readRecord call dom va len, s.readEntries call dom n (va + 8 * len) with
        | some ws, some (es, ok) => some (ws :: es, ok)
        | _, _ => none
    | _ => none

/-- The block at va, for a call; none where it cannot be read. -/
def State.readBlock (s : State) (call : CallId) (dom : BitVec 12) (va : Nat) : Option Lpb :=
  match s.readRecord call dom va 6 with
  | some ws =>
    match s.readEntries call dom (field (ws.getD 0 0) 40 16) (va + 48) with
    | some (es, ok) => some ⟨ws, es, ok⟩
    | none => none
  | none => none

/-! ### A load -/

/-- What the loader works on: the block, the image, its own choices, and the domain, graph ID and serial of the load. -/
structure Plan where
  b : Lpb
  img : Image
  pl : Placement
  dom : BitVec 12
  graph : BitVec 32
  serial : BitVec 32
  /-- the module that configures -/
  mod : Nat

/-- The entries of a type, each with its index. -/
def Plan.ofType (p : Plan) (t : Nat) : List (List Word × Nat) :=
  (p.b.entries.zip (List.range p.b.entries.length)).filter (fun x : List Word × Nat => entryType x.1 = t)

/-- The latest entry of a type with an index. -/
def Plan.find (p : Plan) (t i : Nat) : Option (List Word × Nat) :=
  ((p.ofType t).filter (fun x : List Word × Nat => entryIndex x.1 = i)).getLast?

def Plan.nodes (p : Plan) : Nat := p.img.nodes.length
def Plan.edges (p : Plan) : List (EdgeDesc × Nat) := p.img.edges.zip (List.range p.img.edges.length)

/-- The unit count of node n: that of its UNITS entry, or the image's. -/
def Plan.unitsOf (p : Plan) (n : Nat) : Nat :=
  match p.find 1 n with
  | some x => field (entryHead x.1) 0 19
  | none => (p.img.nodes[n]?.map NodeDesc.units).getD 0

/-- The units of the nodes before node n. -/
def Plan.base (p : Plan) (n : Nat) : Nat := (upto n).foldl (fun a m => a + p.unitsOf m) 0

/-- The place of unit u of node n in the system. -/
def Plan.placeOf (p : Plan) (n u : Nat) : Nat := p.pl.cells.getD (p.base n + u) 0

/-- The cell of unit u of node n in its module, and whether that is the module that configures. -/
def Plan.cellOf (p : Plan) (n u : Nat) : Nat := p.placeOf n u % 262144
def Plan.here (p : Plan) (n u : Nat) : Bool := p.placeOf n u / 262144 = p.mod

/-- The units of the load, node by node. -/
def Plan.allUnits (p : Plan) : List (Nat × Nat) :=
  (upto p.nodes).flatMap (fun n => (upto (p.unitsOf n)).map (fun u => (n, u)))

/-- Every unit of the load on this module, with its cell. -/
def Plan.units (p : Plan) : List (Nat × Nat × Nat) :=
  (p.allUnits.filter (fun x => p.here x.1 x.2)).map (fun x => (x.1, x.2, p.cellOf x.1 x.2))

/-- The cells of the load on this module. -/
def Plan.cells (p : Plan) : List Nat := p.units.map (fun x => x.2.2)

/-- Parameter j: that of its PARAM entry, or its default (R94). -/
def Plan.param (p : Plan) (j : Nat) : Word :=
  match p.find 3 j with
  | some x => x.1.getD 1 0
  | none => p.img.params.getD j 0

/-- The host queue that replaces an edge's producer (DIR 0) or consumer (DIR 1). -/
def Plan.hostOf (p : Plan) (dir : Bool) (e : Nat) : Option (Nat × Nat) :=
  ((p.ofType 8).find? (fun x : List Word × Nat =>
      entryIndex x.1 = e && (entryHead x.1).getLsbD 31 = dir)).map
    (fun x : List Word × Nat => (field (entryHead x.1) 28 2, field (entryHead x.1) 24 4))

/-- The EAG entries in order, each with its generator. -/
def Plan.eagEntries (p : Plan) : List (List Word × Nat) :=
  ((p.ofType 6).map (fun x : List Word × Nat => x.1)).zip p.pl.eags

/-- The EAG entry, with its generator, that produces an edge. -/
def Plan.eagOf (p : Plan) (e : Nat) : Option (List Word × Nat) :=
  p.eagEntries.find? (fun x : List Word × Nat => field (entryHead x.1) 0 13 = e + 1)

/-- The edges that end at port i of node n, each with its number and the index of the consumer (R205). -/
def Plan.into (p : Plan) (n i : Nat) : List (EdgeDesc × Nat) :=
  p.edges.filter (fun x : EdgeDesc × Nat => x.1.dests.contains (n, i))

/-- The edge that leaves port i of node n. -/
def Plan.outOf (p : Plan) (n i : Nat) : Option (EdgeDesc × Nat) :=
  p.edges.find? (fun x : EdgeDesc × Nat => x.1.fromNode = n && x.1.fromPort = i)

/-- The consumer unit of producer unit u (R206). -/
def Plan.pairOf (p : Plan) (src dst u : Nat) : Nat :=
  if p.unitsOf src = 0 then 0 else u * p.unitsOf dst / p.unitsOf src

/-! ### Layout of rings and replay buffers (R207) -/

/-- The ring size of port i of node n: the largest cap of the edges that end there. -/
def Plan.capOf (p : Plan) (n i : Nat) : Nat := (p.into n i).foldl (fun m x => max m x.1.cap) 0

/-- The base of the ring of port i, and of the ports before it. -/
def Plan.ringBase (p : Plan) (n : Nat) : Nat → Nat
  | 0 => let c := p.capOf n 0; if c = 0 then 0x20000 else 0x20000 / c * c - c
  | i + 1 =>
    let top := p.ringBase n i
    let c := p.capOf n (i + 1)
    if c = 0 then top else (top - c) / c * c

/-- The window of port i of node n. -/
def Plan.winOf (p : Plan) (n i : Nat) : Nat := ((p.outOf n i).map (fun x => x.1.window)).getD 0

/-- The base of the replay buffer of port i. -/
def Plan.replayBase (p : Plan) (n : Nat) : Nat → Nat
  | 0 => (p.ringBase n 7 - 16 * p.winOf n 0) / 16 * 16
  | i + 1 => (p.replayBase n i - 16 * p.winOf n (i + 1)) / 16 * 16

/-! ### Symbols bound at load (R94) -/

/-- The value of a symbol's use. -/
def Plan.symbol (p : Plan) (u : SymbolUse) : Word :=
  if u.global then ofNat (p.pl.vas.getD u.symbol 0 + u.offset) else p.param u.symbol + ofNat u.offset

/-- The value fits the field it fills (R57, IMM29 is signed); lo, hi and a whole word take any value. -/
def Plan.symbolFits (p : Plan) (u : SymbolUse) : Bool :=
  let v := (p.symbol u).toNat
  u.part ≠ 0 || decide (v < 2 ^ 28) || decide (2 ^ 64 - 2 ^ 28 ≤ v)

/-- A code or data word with the symbol's value in place: IMM29 whole, lo or hi, or the word. -/
def Plan.patch (p : Plan) (u : SymbolUse) (w : Word) : Word :=
  let v := p.symbol u
  if u.part = 3 then v
  else
    let x := if u.part = 2 then field v 29 29 else field v 0 29
    (w &&& ~~~(ofNat (2 ^ 29 - 1))) ||| ofNat x

/-- Word j of a list of words of node n (of region n), with its symbols bound. -/
def Plan.bound (p : Plan) (n j : Nat) (site : BitVec 2) (w : Word) : Word :=
  (p.img.uses.filter (fun u => u.node = n && u.index = j && u.site = site)).foldl (fun w u => p.patch u w) w

/-! ### The checks of R478: a status code, and the entry at fault where there is one -/

/-- The first failure of a list. -/
def firstFail : List (Bool × Nat × Option Nat) → Option (Nat × Option Nat)
  | [] => none
  | (bad, r) :: xs => if bad then some r else firstFail xs

/-- A word of an entry that its type does not allow (R477). -/
def Plan.entryBad (p : Plan) (e : List Word) : Bool :=
  let w := entryHead e
  let i := entryIndex e
  match entryType e with
  | 1 => decide (p.nodes ≤ i)
  | 2 => decide (p.nodes ≤ i) || decide (2 < field w 28 4)
  | 3 => decide (p.img.params.length ≤ i)
  | 4 =>
    match p.img.regions[i]? with
    | none => true
    | some r => decide (4 < field w 29 3) || (field w 29 3 = 4 &&
        (decide (p.nodes ≤ field w 0 16) || r.size ≠ p.unitsOf (field w 0 16) * uns (e.getD 1 0)))
  | 5 => decide (p.nodes ≤ i)
  | 6 => decide (p.unitsOf i ≤ field w 14 17) || decide (p.img.edges.length < field w 0 13) ||
      ((e.getD 1 0).getLsbD 63 && decide (p.img.regions.length ≤ field (e.getD 1 0) 48 15))
  | 7 => decide (p.nodes ≤ i)
  | _ => decide (p.img.edges.length ≤ i)

/-- Zero fields of words 0 to 5, and TARGET (R476). -/
def Lpb.fixedOk (b : Lpb) (replace : Bool) : Bool :=
  field (b.word 0) 56 8 = 1 && field (b.word 0) 0 40 = 0 && field (b.word 1) 57 7 = 0 &&
  field (b.word 2) 48 4 = 0 && field (b.word 2) 29 3 = 0 && field (b.word 2) 0 24 = 0 &&
  field (b.word 4) 32 32 = 0 && (replace || b.target = 0) && b.word 5 = 0

/-- Check 1: LD_FORMAT. -/
def Plan.checkFormat (p : Plan) (replace : Bool) : Option (Nat × Option Nat) :=
  if p.b.fixedOk replace = false then some (ldFormat, none)
  else
    match (p.b.entries.zip (List.range p.b.entries.length)).find? (fun x : List Word × Nat => p.entryBad x.1) with
    | some x => some (ldFormat, some x.2)
    | none =>
      if p.b.whole = false then some (ldFormat, some p.b.entries.length)
      else if p.img.wellFormed = false then some (ldFormat, none)
      else none

/-- An edge touches node n. -/
def Plan.touched (p : Plan) (n : Nat) : Bool :=
  p.img.edges.any (fun e => e.fromNode = n || e.dests.any (fun d => d.1 = n))

/-- Check 2: LD_UNITRANGE, then LD_ZEROUNITS. -/
def Plan.checkUnits (p : Plan) : Option (Nat × Option Nat) :=
  let at' (n : Nat) : Option Nat := (p.find 1 n).map (fun x => x.2)
  match (upto p.nodes).find? (fun n => decide (262145 ≤ p.unitsOf n)) with
  | some n => some (ldUnitRange, at' n)
  | none =>
    match (upto p.nodes).find? (fun n => p.unitsOf n = 0 && p.touched n) with
    | some n => some (ldZeroUnits, at' n)
    | none => none

/-- The unit grid of node n: as declared, or the count (R12). -/
def Plan.gridOf (p : Plan) (n : Nat) : List Nat :=
  match (p.img.nodes[n]?.map NodeDesc.grid).getD [] with
  | [] => [p.unitsOf n]
  | g => g

/-- An edge breaks R206: LD_PAIR. -/
def Plan.pairBad (p : Plan) (x : EdgeDesc × Nat) : Bool :=
  if (p.hostOf true x.2).isSome then false
  else if (p.hostOf false x.2).isSome then x.1.dests.any (fun d => p.unitsOf d.1 ≠ 1)
  else x.1.dests.any (fun d => decide (p.unitsOf x.1.fromNode < p.unitsOf d.1))

/-- An edge breaks R205, or a queue or generator that has one consumer would have more (R257, R477): LD_EDGE. -/
def Plan.edgeBad (p : Plan) (x : EdgeDesc × Nat) : Bool :=
  let e := x.1
  !(decide (64 ≤ e.cap) && decide (e.cap ≤ 65536) && e.cap = 2 ^ Nat.log2 e.cap && decide (1 ≤ e.window) &&
    decide (e.window ≤ 1024) && decide (e.prio ≤ 3) && e.tags ≠ 0 && decide (1 ≤ e.dests.length) && decide (e.dests.length ≤ 8) &&
    (!e.circuit || (e.dests.length = 1 && e.dests.all (fun d => p.unitsOf d.1 = p.unitsOf e.fromNode))) &&
    (e.dests.length = 1 || ((p.hostOf false x.2).isNone && (p.eagOf x.2).isNone)) &&
    ((p.hostOf true x.2).map (fun q => q.2)) ≠ some 15 && ((p.hostOf false x.2).map (fun q => q.2)) ≠ some 15)

/-- A declared message does not fit (R215): LD_QSIZE. -/
def Plan.sizeBad (p : Plan) (x : EdgeDesc × Nat) : Bool :=
  x.1.lens.any (fun n => decide (x.1.window < n) || x.1.dests.any (fun d => decide (p.capOf d.1 d.2 / 16 < n)))

/-- The entry edge, or the fan-out, is refused (R476): LD_ENTRY. -/
def Plan.entryRefused (p : Plan) : Bool :=
  match p.img.edges[p.b.entryEdge]? with
  | none => true
  | some e => e.dests.any (fun d => d.1 ≠ e.fromNode) || decide (18 < p.b.flog2) || decide (p.unitsOf e.fromNode < 2 ^ p.b.flog2)

/-- Check 3, in its order. -/
def Plan.checkGraph (p : Plan) : Option (Nat × Option Nat) :=
  firstFail [
    ((upto p.nodes).any (fun n => p.unitsOf n ≠ 0 && (p.gridOf n).foldl (· * ·) 1 ≠ p.unitsOf n), ldShape, none),
    (p.edges.any p.pairBad, ldPair, none),
    (p.edges.any p.edgeBad, ldEdge, none),
    (p.edges.any p.sizeBad, ldQsize, none),
    (p.img.uses.any (fun u => !p.symbolFits u), ldParam, none),
    (p.entryRefused, ldEntry, none)]

/-- Cells of block b on which loads are placed (R464). -/
def blockCells (b : Nat) : Nat := if b % 64 = 63 then 48 else 64

/-- A PLACE or REGION entry that no free region can meet. -/
def Plan.placeBad (p : Plan) (e : List Word) : Bool :=
  let w := entryHead e
  match entryType e with
  | 2 =>
    let n := p.unitsOf (entryIndex e)
    let b0 := field w 16 12
    let st := field w 4 12
    (field w 28 4 = 1 && decide (8 < n)) ||
    (field w 28 4 = 2 && (upto n).any (fun u => decide (4096 ≤ b0 + u * st) ||
      (st = 0 && decide (blockCells b0 ≤ u))))
  | 4 =>
    match p.img.regions[entryIndex e]? with
    | none => false
    | some r =>
      let place := field w 29 3
      ((place = 1 || place = 2 || place = 4) && r.page = 2) || (place = 3 && r.kind ≠ 0) ||
      (place = 4 && uns (e.getD 1 0) % pageSize r.page.toNat ≠ 0)
  | _ => false

/-- Check 4: LD_PLACE. -/
def Plan.checkPlace (p : Plan) : Option (Nat × Option Nat) :=
  ((p.b.entries.zip (List.range p.b.entries.length)).find? (fun x : List Word × Nat => p.placeBad x.1)).map
    (fun x => (ldPlace, some x.2))

/-- A domain is in use: some row knows it. -/
def State.domUsed (s : State) (d : Nat) : Bool := d = 0 || s.rows.any (fun r => r.2.domState d ≠ 0)

/-- Check 5: LD_NOFIT, when everything that the loader has found free does not suffice. -/
def Plan.checkFit (p : Plan) (s : State) : Option (Nat × Option Nat) :=
  if p.pl.fits = false || decide (261120 * Config.systemModules < p.allUnits.length) || (p.b.dom = 0 && (upto 4096).all s.domUsed) then
    some (ldNoFit, none)
  else none

/-- Checks 1 to 5 of R478. -/
def Plan.check (p : Plan) (s : State) (replace : Bool) : Option (Nat × Option Nat) :=
  (p.checkFormat replace).or (p.checkUnits.or (p.checkGraph.or (p.checkPlace.or (p.checkFit s))))

/-- Nodes of count 0 that no edge touches are dropped, once the units have been checked (R478). -/
def Plan.dropped (p : Plan) (status : Nat) : Nat :=
  if status = ldFormat ∨ status = ldUnitRange ∨ status = ldZeroUnits then 0
  else ((upto p.nodes).filter (fun n => p.unitsOf n = 0)).length

/-! ### The loader's choices are ones it may make -/

/-- The cells meet the PLACE entries (R477). -/
def Plan.placed (p : Plan) : Bool :=
  (p.ofType 2).all (fun x : List Word × Nat =>
    let n := entryIndex x.1
    let w := entryHead x.1
    let us := upto (p.unitsOf n)
    if field w 28 4 = 1 then us.all (fun u => p.placeOf n u / 8 = p.placeOf n 0 / 8 && slotOf (p.cellOf n u) = u)
    else if field w 28 4 = 2 then us.all (fun u => blockOf (p.cellOf n u) = field w 16 12 + u * field w 4 12)
    else true)

/-- The unit that the entry edge leaves: the root of the load (R476). -/
def Plan.rootNode (p : Plan) : Nat := (p.img.edges[p.b.entryEdge]?.map EdgeDesc.fromNode).getD 0

/-- The agents of every exchange group: of a module group in distinct sectors of this module, of a system group on distinct modules
(R406). -/
def Plan.agentsOk (p : Plan) : Bool :=
  (p.ofType 7).all (fun x : List Word × Nat =>
    let n := entryIndex x.1
    let us := upto (p.unitsOf n)
    if (x.1.getD 1 0).getLsbD 30 then decide (us.map (fun u => p.placeOf n u / 262144)).Nodup
    else us.all (p.here n) && decide (us.map (fun u => sectorOf (p.cellOf n u))).Nodup)

/-- The tag of what the load binds (R433). -/
def Plan.tag (p : Plan) : BitVec 12 × BitVec 64 := (p.dom, p.graph ++ p.serial)

/-- The lanes and the channels that the loader chose are bound by nobody (R405, R412). -/
def Plan.circuitsFree (p : Plan) (s : State) : Bool :=
  p.pl.fields.all (fun x =>
    if 262144 ≤ x.1 then !((s.linkPort (x.1 - 262144)).chan (x.2.1 - 8)).getLsbD 31
    else decide (16 ≤ x.2.1) || !((s.cell x.1).lane x.2.1).getLsbD 11)

/-- Every unit has a free cell of its own, outside the service columns and not retired (R13, R455, R464), the root one on this
module; the lanes are free, and the agents of the groups lie where R406 says. -/
def Plan.cellsOk (p : Plan) (s : State) : Bool :=
  p.pl.cells.length = p.allUnits.length && decide p.pl.cells.Nodup &&
  p.pl.cells.all (fun k => decide (k / 262144 < 1024) && decide (xOf (k % 262144) < 510)) && p.here p.rootNode 0 &&
  p.cells.all (fun k => (s.cell k).st = .free && !s.carrier.svc.retired.has k) &&
  p.circuitsFree s && p.placed && p.agentsOk

/-- Every EAG entry has a generator that is idle and named by no cell (R247). -/
def Plan.eagsOk (p : Plan) (s : State) : Bool :=
  p.pl.eags.length = (p.ofType 6).length && decide p.pl.eags.Nodup &&
  p.pl.eags.all (fun e => decide (e < 256) && (s.eag e).run.isNone && s.cells.all (fun x =>
    (upto 2).all (fun h => !((SMap.get 0 x.2.eagh h).getLsbD 8 && field (SMap.get 0 x.2.eagh h) 0 8 = e))))

/-- The size of region r in whole pages. -/
def Plan.regionLen (p : Plan) (r : Nat) : Nat :=
  match p.img.regions[r]? with
  | none => 0
  | some x =>
    let n := pageSize x.page.toNat
    let n' := if ((p.find 4 r).map (fun e => field (entryHead e.1) 29 3)) = some 3 then max n 0x200000 else n
    (x.size + n' - 1) / n' * n'

/-- The pages of region r among the loader's choices. -/
def Plan.regionPages (p : Plan) (r : Nat) : List PageChoice :=
  let cnt (r : Nat) : Nat := p.regionLen r / pageSize ((p.img.regions[r]?.map (fun x => x.page.toNat)).getD 0)
  (p.pl.pages.drop ((upto r).foldl (fun a q => a + cnt q) 0)).take (cnt r)

/-- The pages of region r lie where its REGION entry says (R472, R477); `b` is the caller's block. -/
def Plan.regionOk (p : Plan) (s : State) (b r : Nat) : Bool :=
  match p.img.regions[r]? with
  | none => true
  | some x =>
    let n := pageSize x.page.toNat
    let cs := p.regionPages r
    cs.length * n = p.regionLen r && (cs.head?.map PageChoice.va).getD 0 = p.pl.vas.getD r 0 &&
    match p.find 4 r with
    | none => s.choiceOk 0 b n cs || s.choiceOk 2 b n cs
    | some e =>
      let w := entryHead e.1
      let place := field w 29 3
      if place = 4 then
        let slice := max 1 (uns (e.1.getD 1 0))
        s.choiceOk 2 b n cs && (cs.zip (List.range cs.length)).all (fun c =>
          p.here (field w 0 16) (c.2 * n / slice) &&
          decide (c.1.pa / 0x2000000 = blockOf (p.cellOf (field w 0 16) (c.2 * n / slice))))
      else s.choiceOk place b n cs

/-- Ranges, each a start and a length, no two of which meet. -/
def apart : List (Nat × Nat) → Bool
  | [] => true
  | x :: xs => xs.all (fun y => decide (x.1 + x.2 ≤ y.1) || decide (y.1 + y.2 ≤ x.1)) && apart xs

/-- The pages of every region, none of which meets another. -/
def Plan.regionsOk (p : Plan) (s : State) (b : Nat) : Bool :=
  p.pl.vas.length = p.img.regions.length && (upto p.img.regions.length).all (p.regionOk s b) &&
  let all := (upto p.img.regions.length).flatMap (fun r =>
    let n := pageSize ((p.img.regions[r]?.map (fun x => x.page.toNat)).getD 0)
    (p.regionPages r).map (fun c => (c.pa, c.va, n)))
  apart (all.map (fun x => (x.1, x.2.2))) && apart (all.map (fun x => (x.2.1, x.2.2)))

/-! ### The configuration of a unit -/

/-- Origin and extent of unit u of a node in dimensions d on (R16). -/
def originExtent : List Nat → List Nat → Nat → List (Nat × Nat)
  | [], _, _ => []
  | e :: es, gs, rest =>
    let g := max 1 (gs.headD 1)
    let t := (e + g - 1) / g
    let o := min (rest % g * t) e
    (o, min t (e - o)) :: originExtent es (gs.drop 1) (rest / g)

/-- The identity registers of unit u of node n (R17). -/
def Plan.ident (p : Plan) (n u : Nat) : Ident :=
  let sh := ((p.img.nodes[n]?.map NodeDesc.shape).getD [] ++ [1, 1, 1, 1]).take 4
  let oe := originExtent sh (p.gridOf n) u
  let o (d : Nat) : BitVec 32 := BitVec.ofNat 32 (oe.getD d (0, 1)).1
  let x (d : Nat) : BitVec 32 := BitVec.ofNat 32 (oe.getD d (0, 1)).2
  { unit := BitVec.ofNat 18 u, units := BitVec.ofNat 19 (p.unitsOf n), node := BitVec.ofNat 16 n
    org0 := o 0, org1 := o 1, org2 := o 2, org3 := o 3, ext0 := x 0, ext1 := x 1, ext2 := x 2, ext3 := x 3
    dom := p.dom, load := p.graph ++ p.serial }

/-- An endpoint in the DST layout (R226): port of a cell counted through the system. -/
def edst (place port : Nat) : BitVec 32 := BitVec.ofNat 32 (place * 8 + port)

/-- The producer streams into port i of unit u of node n from other cells and from EAGs: QNP (R447). -/
def Plan.streams (p : Plan) (n i u : Nat) : Nat :=
  (p.into n i).foldl (fun a x =>
    if (p.hostOf false x.2).isSome || (p.hostOf true x.2).isSome then a
    else if (p.eagOf x.2).isSome then a + 1
    else if x.1.fromNode = n then a
    else a + ((upto (p.unitsOf x.1.fromNode)).filter (fun v => p.pairOf x.1.fromNode n v = u)).length) 0

/-- The lowest tag of a set (R205). -/
def lowestTag (t : BitVec 8) : BitVec 3 := BitVec.ofNat 3 ((bitsOf t 8).headD 0)

/-- IN[i] of unit u of node n (R207, R208, R226). -/
def Plan.inbound (p : Plan) (n u i : Nat) (e : InEp) : InEp :=
  let es := (p.into n i).filter (fun x : EdgeDesc × Nat => (p.hostOf true x.2).isNone)
  if es.isEmpty then e
  else { e with
    en := true, diven := (p.outOf n i).isSome
    acc := es.foldl (fun m x => m ||| x.1.tags) 0
    log2cap := BitVec.ofNat 5 (Nat.log2 (p.capOf n i)), rbase := BitVec.ofNat 17 (p.ringBase n i)
    qnp := BitVec.ofNat 19 (p.streams n i u) }

/-- OUT[i] of unit u of node n (R206, R226, R477); the window starts empty, with SEQ 0. -/
def Plan.outbound (p : Plan) (n u i : Nat) (o : OutEp) : OutEp :=
  match p.outOf n i with
  | none => o
  | some (e, id) =>
    if (p.hostOf false id).isSome || (p.eagOf id).isSome then o
    else
      let host := p.hostOf true id
      let target (d : Nat × Nat) : BitVec 32 := edst (p.placeOf d.1 (p.pairOf n d.1 u)) d.2
      { o with
        en := true, path := e.circuit, prio := BitVec.ofNat 2 e.prio, deftag := lowestTag e.tags
        mcm1 := if host.isSome then 0 else BitVec.ofNat 3 (e.dests.length - 1)
        win := BitVec.ofNat 11 e.window, rpbase := BitVec.ofNat 17 (p.replayBase n i)
        dst := if host.isSome then [] else (upto e.dests.length).zip (e.dests.map target)
        odom := if host.isSome then 0 else p.dom
        edge := BitVec.ofNat 16 id, hostQ := host }

/-- The code of node n in the instruction store (R89). -/
def Plan.code (p : Plan) (n : Nat) (c : Cell) : Cell :=
  let ws := (p.img.nodes[n]?.map NodeDesc.code).getD []
  (ws.zip (List.range ws.length)).foldl (fun c x => c.setCode x.2 (p.bound n x.2 0 x.1)) c

/-- The local data of node n, clean (R90, R91). -/
def Plan.data (p : Plan) (n : Nat) (c : Cell) : Cell :=
  let bs := (p.img.nodes[n]?.map NodeDesc.data).getD []
  (upto ((bs.length + 7) / 8)).foldl (fun c j =>
    c.stWord (8 * j) (.clean (p.bound n j 1 (bytesWord ((bs.drop (8 * j)).take 8))))) c

/-- The root: unit 0 of the node of the entry edge (R476). -/
def Plan.root (p : Plan) : Nat := p.cellOf p.rootNode 0

/-- The generators that unit u of node n holds, by handle (R247, R477). -/
def Plan.handles (p : Plan) (n u : Nat) : SMap (BitVec 12) :=
  (p.eagEntries.filter (fun x : List Word × Nat =>
      entryIndex x.1 = n && field (entryHead x.1) 14 17 = u)).foldl
    (fun m x => SMap.put m (field (entryHead x.1) 13 1) (BitVec.ofNat 12 (0x100 + x.2))) []

/-- The cell of unit u of node n, CONFIGURED; a handler field that the master refuses gives its code. -/
def Plan.configure (p : Plan) (c : Cell) (n u : Nat) : Except Nat Cell := do
  let k := p.cellOf n u
  let c := { c with st := .configured, ident := p.ident n u }
  let c ← ((p.img.nodes[n]?.map NodeDesc.handlers).getD []).foldlM (fun c h => do
    let c ← cfgHandler c (2 * h.entry + 1) h.hb
    cfgHandler c (2 * h.entry) h.ha) c
  let c := { c with
    ins := (upto 8).map (fun i => (i, p.inbound n u i (c.inEp i)))
    outs := (upto 8).map (fun i => (i, p.outbound n u i (c.outEp i)))
    callq := 0x80000000#32 ||| edst (262144 * p.mod + 512 * yOf k + 511) 0
    phaseq := 0x80000000#32 ||| edst (p.placeOf p.rootNode 0) 0
    eagh := p.handles n u }
  return p.data n (p.code n c)

/-! ### The configuration of a load -/

/-- The registers of a generator (R255, R477): BASE, those given, QDST of the edge it produces, and its domain. -/
def Plan.generator (p : Plan) (x : List Word × Nat) : Eag :=
  let w := entryHead x.1
  let b := x.1.getD 1 0
  let base := if b.getLsbD 63 then p.pl.vas.getD (field b 48 15) 0 + field b 0 48 else field b 0 48
  let g : Eag := { regs := (0, ofNat base) :: (upto 15).map (fun j => (j + 1, x.1.getD (j + 2) 0)), dom := p.dom }
  match field w 0 13 with
  | 0 => g
  | e1 + 1 =>
    match p.img.edges[e1]? with
    | some e =>
      let g := { g with edge := BitVec.ofNat 16 e1 }
      match e.dests with
      | d :: _ =>
        g.setReg 11 ((edst (p.placeOf d.1 (p.pairOf e.fromNode d.1 (field w 14 17))) d.2).zeroExtend 64)
      | [] => g
    | none => g

/-- The barrier lines of an entry, on every strip of its node on this module (R299, R477). -/
def Plan.barrier (p : Plan) (s : State) (e : List Word) : Cfg :=
  let w := entryHead e
  let n := entryIndex e
  let v : BitVec 32 := BitVec.ofNat 32 (0x200 + 0x100 * field w 21 1 + field w 22 8)
  ((((upto (p.unitsOf n)).filter (p.here n)).map (fun u => stripOf (p.cellOf n u))).eraseDups).foldlM
    (fun s st => cfgEvents s (cellOfStrip st 0) (41 + field w 30 2) v) s

/-- An exchange group (R406, R477): participant u is unit u of the node. -/
def Plan.group (p : Plan) (s : State) (e : List Word) : Cfg := do
  let n := entryIndex e
  let grp := field (entryHead e) 28 4
  let sel (part : Nat) : BitVec 32 := BitVec.ofNat 32 (grp * 1024 + part)
  let w (i : Nat) : BitVec 32 := (e.getD i 0).extractLsb' 0 32
  let s ← cfgArbiter s 0 (sel 0)
  let s ← cfgArbiter s 4 (w 3)
  let s ← cfgArbiter s 3 (w 2)
  let s ← (upto (p.unitsOf n)).foldlM (fun s u => do
    let s ← cfgArbiter s 0 (sel u)
    cfgArbiter s 2 (edst (p.placeOf n u) 0)) s
  cfgArbiter s 1 (w 1)

/-- The fields that the loader adds for circuits and trees (R299, R403, R404): a lane or a channel takes the tag of the load (R433). -/
def Plan.addField (p : Plan) (s : State) (x : Nat × Nat × BitVec 32) : Cfg :=
  if 262144 ≤ x.1 then do
    inRange_ (decide (x.1 < 262144 + 32) && decide (8 ≤ x.2.1) && decide (x.2.1 ≤ 23))
    let q := x.1 - 262144
    let s ← cfgPort s q x.2.1 x.2.2
    return s.setLinkPort q { s.linkPort q with chanTag := SMap.put (s.linkPort q).chanTag (x.2.1 - 8) p.tag }
  else if x.2.1 < 16 then do
    let c ← cfgLane (s.cell x.1) x.2.1 x.2.2
    return s.setCell x.1 { c with laneTag := SMap.put c.laneTag x.2.1 p.tag }
  else cfgEvents s x.1 x.2.1 x.2.2

/-- The cells on whose lanes the loader has put something. -/
def Plan.laneCells (p : Plan) : List Nat := (p.pl.fields.map (fun x => x.1)).filter (fun k => decide (k < 262144))

/-- Lane use of a cell that R405 refuses: a lane or a port that feeds two outgoing lanes, a lane that both delivers and feeds, a
circuit port that feeds none. -/
def Cell.lanesOk (c : Cell) : Bool :=
  let clo (j : Nat) : BitVec 32 := SMap.get 0 c.lanes j
  let on := (upto 8).filter (fun j => (clo j).getLsbD 11)
  let src (j : Nat) : Nat := if (clo j).getLsbD 10 then 100 + field (clo j) 7 3 else 2 * field (clo j) 3 2 + field (clo j) 2 1
  decide (on.map src).Nodup &&
  on.all (fun j => (clo j).getLsbD 10 || !(SMap.get 0 c.lanes (8 + src j)).getLsbD 11) &&
  (upto 8).all (fun i => !(c.outEp i).en || !(c.outEp i).path || (on.map src).contains (100 + i))

/-- The tree of a strip is followed to its root in at most n steps. -/
def State.rooted (s : State) (st : Nat) : Nat → Bool
  | 0 => false
  | n + 1 =>
    match (s.strip st).parent with
    | none => true
    | some p => s.rooted p n

/-- The strips whose slot 0 is a cell of the load form trees of their own: each link is written at both its ends, no strip has two
parents, and there is no cycle (R296). -/
def Plan.treesOk (p : Plan) (s : State) : Bool :=
  let sts := (p.cells.filter (fun k => slotOf k = 0)).map stripOf
  sts.all (fun st =>
    let t := s.strip st
    decide t.children.Nodup && t.children.all (fun c => sts.contains c && (s.strip c).parent = some st) &&
    (match t.parent with
    | none => true
    | some q => sts.contains q && (s.strip q).children.contains st) &&
    s.rooted st (sts.length + 1))

/-- R21: a port that message entries bind accepts at arrival no tag that none of them has. -/
def Cell.tagsCovered (c : Cell) : Bool :=
  (upto 16).all (fun a => !c.valid a ||
    (((upto 16).filter (fun b => c.valid b && c.portOf b = c.portOf a)).foldl (fun m b => m ||| c.tagsOf b) 0
      &&& (c.inEp (c.portOf a)).acc) = (c.inEp (c.portOf a)).acc)

/-- The host queue of an edge is bound (R477, R479). -/
def Plan.bindHost (p : Plan) (s : State) (x : EdgeDesc × Nat) : State :=
  match p.hostOf false x.2, x.1.dests with
  | some (port, q), d :: _ =>
    let h := SMap.get ({} : HostQueue) s.hostq (16 * port + q)
    let h := { h with bound := true, dom := p.dom, dst := edst (p.placeOf d.1 0) d.2, win := x.1.window, edge := BitVec.ofNat 16 x.2
                      prio := BitVec.ofNat 2 x.1.prio }
    { s with hostq := SMap.put s.hostq (16 * port + q) h }
  | _, _ => s

/-- The rows of cells ks know domain d as RUNNING (R434). -/
def State.runRows (s : State) (d : BitVec 12) (ks : List Nat) : State :=
  (ks.map yOf).eraseDups.foldl (fun s y => s.setRow y ((s.row y).setDom d.toNat 1)) s

/-- The rows of the load's cells know its domain as RUNNING (R434). -/
def Plan.running (p : Plan) (s : State) : State := s.runRows p.dom p.cells

/-- Every unit, engine and line of the load is configured, or the first code at which a configuration master refuses the
stream (R13, R49). -/
def Plan.apply (p : Plan) (s : State) : Cfg := do
  let s ← p.units.foldlM (fun s x => do return s.setCell x.2.2 (← p.configure (s.cell x.2.2) x.1 x.2.1)) s
  let s := (p.eagEntries.filter (fun x => p.here (entryIndex x.1) (field (entryHead x.1) 14 17))).foldl
    (fun s x => s.setEag x.2 (p.generator x)) s
  let s ← p.pl.fields.foldlM p.addField s
  let s ← (p.ofType 5).foldlM (fun s x => p.barrier s x.1) s
  let s ← (p.ofType 7).foldlM (fun s x => p.group s x.1) s
  inRange_ ((p.cells ++ p.laneCells).all (fun k => (s.cell k).lanesOk) && p.cells.all (fun k => (s.cell k).tagsCovered))
  return p.running (p.edges.foldl p.bindHost s)

/-! ### What the first load of a graph brings: regions, their data, and the weight -/

/-- Byte data of region r (R91): on a fill-once page a word that the image gives becomes present. -/
def Plan.regionData (p : Plan) (s : State) (r : Nat) : State :=
  match p.img.regions[r]? with
  | none => s
  | some x =>
    let n := pageSize x.page.toNat
    let cs := p.regionPages r
    let at' (o : Nat) : Nat := ((cs[o / n]?.map PageChoice.pa).getD 0) + o % n
    let s := x.data.foldl (fun s y =>
      let s := s.gwrite (at' y.1) 1 y.2.toNat false
      if x.kind = 1 then s.setPresent (at' y.1) true else s) s
    (p.img.uses.filter (fun u => u.node = r && u.site = 2)).foldl (fun s u =>
      let s := s.gwrite (at' (8 * u.index)) 8 (p.symbol u).toNat false
      if x.kind = 1 then s.setPresent (at' (8 * u.index)) true else s) s

/-- The regions of the graph are mapped, initialised and written (R91, R134, R477). -/
def Plan.regions (p : Plan) (s : State) : State :=
  (upto p.img.regions.length).foldl (fun s r =>
    match p.img.regions[r]? with
    | none => s
    | some x =>
      let hs := ((p.find 4 r).map (fun e => field (entryHead e.1) 29 3)) = some 3
      p.regionData (s.mapPages x.kind.toNat x.page.toNat p.dom hs (p.regionPages r)) r) s

/-- The whole weight stands at the entry: D is 2^255, and each of the first F units of the entry node has a carry word in its
window on the entry edge (R29, R476). -/
def Plan.weight (p : Plan) (s : State) : State :=
  let s := s.modCell p.root (fun c => { c with phaseD := 2 ^ 255 })
  match p.img.edges[p.b.entryEdge]? with
  | none => s
  | some e => ((upto (2 ^ p.b.flog2)).filter (p.here e.fromNode)).foldl (fun s u =>
      s.modCell (p.cellOf e.fromNode u) (fun c =>
        c.enterWindow e.fromPort ⟨at_ 3 56 ||| at_ p.b.flog2 48, false⟩ 7 0 0)) s

/-- The graph as the loader records it. -/
def Plan.record (p : Plan) : Graph :=
  { dom := p.dom, serial := p.serial, units := p.units, root := p.root, eags := p.pl.eags
    groups := (p.ofType 7).map (fun x => field (entryHead x.1) 28 4), vas := p.pl.vas, img := p.img, block := p.b.all }

/-- The result word of a block at va (R476): STATUS, DROPPED, and WHERE, a free value where no entry is at fault. -/
def State.writeResult (s : State) (dom : BitVec 12) (va status dropped : Nat) (where_ : Option Nat) : State :=
  let w := match where_ with
    | some j => j
    | none => field (Config.freeWord s.fresh) 0 32
  { s.writeRecord dom (va + 24) (at_ status 48 ||| at_ (dropped % 2 ^ 16) 32 ||| ofNat w) with fresh := s.fresh + 1 }

end Sys2Proof.Machine
end

