-- ==== Sys2Proof/Machine/CutRecord.lean ====
section
/-! DEFINITION. The words of a cut record and the pages of HBM that hold them (R451, R452). -/

namespace Sys2Proof.Machine

open Sys2Proof

/-! ### Unit records -/

/-- The words of the fixed part of a unit record. -/
def unitWords : Nat := 16477

/-- The fixed part, words 0 to 16,476, of the record of a unit whose variable part is `tail` words long. -/
def UnitRec.fixed (u : UnitRec) (now tail : Nat) : List Word :=
  let c := u.st
  [at_ u.node 48 ||| at_ u.unit 30 ||| at_ (unitWords + tail) 0] ++
  (upto 55).map (fun j => (c.reg (j + 1)).v) ++ [c.gpois] ++
  [(upto 8).foldl (fun w i => w ||| at_ (b2n (c.inEp i).res.isSome) (48 + i) ||| at_ (c.slot i).code (16 + 2 * i)) 0 |||
    at_ c.sys.entry.toNat 10] ++
  [ofNat (c.pc % 2048)] ++
  (upto 8).map (fun i => ofNat ((c.inEp i).res.getD (c.inEp i).resOld % 0x10000)) ++
  (upto 10).map (fun j => c.sysReg u.cell now (32 + j)) ++
  (upto 16).map (fun j => (c.sem j).word) ++
  (upto 16384).map (fun j => ofNat (c.store.read (8 * j) 8))

/-! ### Streams -/

/-- A stream: the words of word 0 and word 1 that name it, NEXT, and its words. -/
structure Stream where
  edge : Nat
  punit : Nat
  cunit : Nat
  eag : Bool := false
  host : Bool := false
  cidx : Nat := 0
  next : BitVec 32
  words : List QWord

def Stream.record (x : Stream) : List Word :=
  [at_ x.edge 48 ||| at_ x.punit 30 ||| at_ x.cunit 12 ||| at_ (b2n x.eag) 11 ||| at_ (x.words.length % 2048) 0,
    at_ (b2n x.host) 3 ||| at_ x.cidx 0,
    at_ x.next.toNat 32 ||| at_ ((x.words.head?.map QWord.seq).getD x.next).toNat 0] ++
  x.words.flatMap (fun w => [w.v, w.side])

/-- The words that consumer n of a window has not retired. -/
def unretired (es : List WinEnt) (n : Nat) : List QWord := (es.filter (fun x => !x.acked.getLsbD n)).map WinEnt.w

/-- The unit that a load has at an endpoint in the DST layout. -/
def Graph.unitTo (g : Graph) (dst : BitVec 32) : Nat :=
  ((g.units.find? (fun u => u.2.2 = field dst 3 18)).map (fun u => u.2.1)).getD 0

/-- The streams of a unit: for each enabled outbound endpoint one for each consumer. -/
def UnitRec.streams (u : UnitRec) (g : Graph) : List Stream :=
  ((upto 8).filter (fun i => (u.st.outEp i).en)).flatMap (fun i =>
    let o := u.st.outEp i
    (upto (o.mcm1.toNat + 1)).map (fun n =>
      { edge := o.edge.toNat, punit := u.unit, cunit := g.unitTo (o.dstOf n), cidx := n, next := o.seq, words := unretired o.ents n }))

/-- The stream of a generator that produces an edge (R257). -/
def Eag.stream (e : Eag) (g : Graph) : Stream :=
  { edge := e.edge.toNat, punit := 0, cunit := g.unitTo ((e.reg 11).extractLsb' 0 32), eag := true
    next := (e.reg 13).extractLsb' 0 32, words := unretired e.win 0 }

/-- The stream of a host inbound queue that a load binds (R451). -/
def HostQueue.stream (h : HostQueue) (g : Graph) : Stream :=
  { edge := h.edge.toNat, punit := 0, cunit := g.unitTo h.dst, host := true, next := h.seq, words := unretired h.ents 0 }

/-- The generators of a record that produce an edge: those whose EAG entry names one (R477). -/
def CutRec.producers (r : CutRec) (g : Graph) : List Eag :=
  ((((Lpb.ofWords g.block).entries.filter (fun e => entryType e = 6)).zip r.eags).filter (fun x =>
    field (entryHead x.1) 0 13 ≠ 0)).map (fun x => x.2)

/-- Every stream of the load (R451, R452). -/
def State.streamsOf (s : State) (g : Graph) (r : CutRec) : List Stream :=
  r.units.flatMap (fun u => u.streams g) ++ (r.producers g).map (fun e => e.stream g) ++
  ((s.hostq.filter (fun x => x.2.bound && x.2.dom = g.dom && g.units.any (fun u => u.2.2 = field x.2.dst 3 18))).map
    (fun x => x.2.stream g))

/-! ### Pages -/

/-- Bit i of each word is the mark of word 64 j + i. -/
def bitmap (m : Marks) (n : Nat) : List Word :=
  (upto (n / 64)).map (fun j => (upto 64).foldl (fun w i => w ||| at_ (b2n (m.has (64 * j + i))) i) 0)

/-- A page of the record: VA, translation entry, contents, and the bitmaps of presence and poison. -/
def PageRec.record (x : PageRec) : List Word :=
  let n := pSize x.page.entry / 8
  [ofNat x.page.va, x.page.entry] ++ (upto n).map (fun j => ofNat (x.bytes.read (8 * j) 8)) ++
  bitmap x.present n ++ bitmap x.poison n

def PageRec.len (x : PageRec) : Nat := 2 + pSize x.page.entry / 8 + 2 * (pSize x.page.entry / 512)

/-! ### The record -/

/-- The words of the record without the variable parts of its units. -/
def State.recordLen (s : State) (g : Graph) (r : CutRec) : Nat :=
  9 + unitWords * r.units.length + ((s.streamsOf g r).map (fun x => 3 + 2 * x.words.length)).sum + (r.pages.map PageRec.len).sum

/-- The record's words (R452), for graph n with load g: `tail` gives the variable part of each unit. -/
def State.recordOf (s : State) (n : Nat) (g : Graph) (r : CutRec) (tail : Nat → List Word) : List Word :=
  let units := (r.units.zip (List.range r.units.length)).flatMap (fun x => x.1.fixed r.at_ (tail x.2).length ++ tail x.2)
  let sts := s.streamsOf g r
  let streams := sts.flatMap Stream.record
  let d := ((r.units.find? (fun u => u.cell = g.root)).map (fun u => u.st.phaseD)).getD 0
  [at_ 1 56 ||| r.cut.zeroExtend 64, at_ n 32 ||| g.serial.zeroExtend 64, at_ sts.length 32 ||| at_ r.units.length 0,
    at_ (9 + units.length) 32 ||| at_ 9 0] ++
  (upto 4).map (fun j => ofNat (d / 2 ^ (64 * j))) ++
  [at_ (9 + units.length + streams.length) 32 ||| at_ r.pages.length 0] ++
  units ++ streams ++ r.pages.flatMap PageRec.record

/-- The words of a page of the record. -/
def recordPage : Nat := 0x10000 / 8

/-- The pages that the loader allocates for the record are free and in HBM, and hold at least its words but for the variable parts
(log entry 15). -/
def State.recordFits (s : State) (g : Graph) (r : CutRec) (cs : List PageChoice) : Bool :=
  s.choiceOk 0 0 0x10000 cs && decide (s.recordLen g r ≤ recordPage * cs.length)

/-- The record is written to its pages, plain ones of domain 0 (R452). The spec gives the variable part of a unit no layout: its words
are free ones, as many as the pages may hold. -/
def State.writeCutRecord (s : State) (n : Nat) (g : Graph) (r : CutRec) (cs : List PageChoice) : State :=
  let room := (recordPage * cs.length - s.recordLen g r) / r.units.length
  let ws := s.recordOf n g r (fun j => (Config.recordTail (s.fresh + j)).take room)
  let t := s.mapPages 0 0 0 false cs
  { t with
    fresh := s.fresh + r.units.length
    mem := (ws.zip (List.range ws.length)).foldl (fun m x =>
      m.write (((cs[x.2 / recordPage]?).map PageChoice.pa).getD 0 + 8 * (x.2 % recordPage)) 8 x.1.toNat) t.mem }

end Sys2Proof.Machine
end

