-- ==== Sys2Proof/Machine/Graphs.lean ====
section
/-! DEFINITION. The loads of a graph (R13, R14, R32, R448 to R454): LOAD, the start and the retirement of a load, WAIT, KILL,
CUT, RESUME and REPLACE. -/

namespace Sys2Proof.Machine

open Sys2Proof

def State.graph (s : State) (n : Nat) : Option Graph := SMap.find s.carrier.svc.graphs n
def State.setGraph (s : State) (n : Nat) (g : Graph) : State :=
  s.modSvc (fun v => { v with graphs := SMap.put v.graphs n g })
def Graph.cells (g : Graph) : List Nat := g.units.map (fun x => x.2.2)

/-- A call that names a graph: SV_ARG for one that does not exist, SV_PERM for one of another domain (R468, R471). -/
def onGraph (s : State) (x : Request) (n : Nat) (body : Graph → Answer) : Answer :=
  match s.graph n with
  | none => .reply s svArg 0
  | some g => if x.auth ≠ 0 ∧ x.auth ≠ g.dom then .reply s svPerm 0 else body g

/-- An argument that holds a graph ID alone. -/
def graphArg (v : Word) : Bool := field v 32 32 = 0
/-- An argument that holds the address of a block. -/
def blockArg (v : Word) : Bool := field v 57 7 = 0 && uns v % 8 = 0

/-- A service goes on with the block at va, or waits for those of its words that the host holds (R143). -/
def State.withBlock (s : State) (call : CallId) (dom : BitVec 12) (va : Nat) (body : Option Lpb → Answer) : Answer :=
  s.withRecord call dom va 6 fun _ =>
    let b := s.readBlock call dom va
    s.withRecord call dom va ((b.map (fun x => x.all.length)).getD 6) fun _ => body b

/-! ### LOAD (R13, R476 to R478) -/

/-- The graph of which a plan makes a further load: it has the plan's graph ID, its image and its domain, and it is neither swapped
out nor terminated (R14, R91). -/
def Plan.again (p : Plan) (s : State) : Option Graph :=
  (s.graph p.graph.toNat).bind (fun g =>
    if g.dom = p.dom ∧ g.img = p.img ∧ g.swapped = false ∧ g.torn = false then some g else none)

/-- A further load of a graph finds the regions of the first where they are (R91). -/
def Plan.inGraph (p : Plan) (s : State) : Plan :=
  match p.again s with
  | some g => { p with pl := { p.pl with vas := g.vas, pages := [] } }
  | none => p

/-- The graph's record once a further load of it has been configured: the load is the graph's, or waits for the mark of the loads
before it (R13, R14). -/
def State.queueLoad (s : State) (n : Nat) (g next : Graph) : State :=
  if g.marked then s.setGraph n next else s.modSvc (fun v => { v with waiting := v.waiting ++ [(n, next)] })

/-- A further load of graph g is configured (R13, R14, R91): its regions stay as the earlier loads leave them. -/
def Plan.runAgain (p : Plan) (s : State) (x : Request) (g : Graph) : Answer :=
  let va := uns x.arg
  if p.cellsOk s = false ∨ p.eagsOk s = false then .later s
  else
    match p.apply s with
    | .error c => .reply (s.writeResult x.auth va (0x100 + c) (p.dropped 0) none) (0x100 + c) 0
    | .ok t =>
      if p.treesOk t = false then .later s else
      let t := ((p.weight t).queueLoad p.graph.toNat g p.record).modSvc (fun v => { v with serial := p.serial })
      .reply (t.writeResult x.auth va 0 (p.dropped 0) none) 0 (p.graph ++ p.serial)

/-- The load is configured, or refused with a code and the entry at fault (R478). A choice of the loader's that it may not make
changes nothing. -/
def Plan.run (p : Plan) (s : State) (x : Request) : Answer :=
  let va := uns x.arg
  match p.check s false with
  | some (code, w) => .reply (s.writeResult x.auth va code (p.dropped code) w) code 0
  | none =>
    match p.again s with
    | some g => p.runAgain s x g
    | none =>
      if p.cellsOk s = false ∨ p.eagsOk s = false ∨ p.regionsOk s (blockOf x.cell) = false ∨ (s.graph p.graph.toNat).isSome ∨
          (p.b.dom = 0 ∧ s.domUsed p.dom.toNat) then .later s
      else
        match p.apply s with
        | .error c => .reply (s.writeResult x.auth va (0x100 + c) (p.dropped 0) none) (0x100 + c) 0
        | .ok t =>
          if p.treesOk t = false then .later s else
          let t := (p.weight (p.regions t)).setGraph p.graph.toNat p.record
          let t := t.modSvc (fun v => { v with serial := p.serial })
          .reply (t.writeResult x.auth va 0 (p.dropped 0) none) 0 (p.graph ++ p.serial)

/-- LOAD (R471): `img` is the image at the block's IMAGE, whose layout the spec does not give, and `pl` the loader's choices (log
entry 14). -/
def execLoad (call : CallId) (img : Image) (pl : Placement) (s : State) : Host.Outcome State Fault Refusal :=
  serve call 2 0 false blockArg
    (fun s x =>
      s.withBlock call x.auth (uns x.arg) fun
      | none => .reply s svRecord 0
      | some b =>
        if x.auth ≠ 0 ∧ b.dom ≠ 0 ∧ b.dom ≠ x.auth then .reply s svPerm 0
        else
          let p : Plan := ⟨b, img, pl, if b.dom = 0 then pl.dom else b.dom, pl.graph, s.carrier.svc.serial + 1, s.modNo.toNat⟩
          (p.inGraph s).run s x) s

/-- The loader starts the cells of a load (R13, R50). A load that waits for the mark of an earlier one does not start. -/
def execLoadStart (serial : Nat) (s : State) : Host.Outcome State Fault Refusal :=
  match s.carrier.svc.graphs.find? (fun g => g.2.serial.toNat = serial && !g.2.marked) with
  | some g => .next (g.2.cells.foldl State.startCell s)
  | none => .next s

/-! ### Retirement (R14, R32) -/

/-- Nothing of a cell is under way: it is idle, and its engines and its windows have drained. -/
def State.cellDrained (s : State) (k : Nat) : Bool :=
  let c := s.cell k
  let b := s.block (blockOf k)
  c.st = .idle && s.settled k && c.accs.isEmpty && c.phaseOut.isEmpty && b.running.all (fun m => m.cell ≠ k) &&
  (upto 8).all (fun i => (c.outEp i).ents.all (fun e => ((c.outEp i).consumers &&& ~~~e.stored) = 0)) &&
  s.net.all (fun m => m.cell ≠ k) && !c.chain.run

/-- The engines of a load have drained. -/
def State.loadDrained (s : State) (g : Graph) : Bool :=
  g.cells.all s.cellDrained && g.eags.all (fun e => (s.eag e).run.isNone) &&
  g.groups.all (fun n => (s.xgroup n).rounds.isEmpty)

/-- An exchange group retires with its load: its open round goes, and supply that is held is dropped and recorded (R406). -/
def State.retireGroup (s : State) (g : Graph) (n : Nat) : State :=
  let held := g.cells.any (fun k => !((s.cell k).agent n).segs.isEmpty)
  let s := s.setXgroup n {}
  if held then s.record ringRow 15 g.dom 316 n 0 else s

/-- The host queues of the load are unbound. -/
def State.unbindHosts (s : State) (ks : List Nat) : State :=
  { s with hostq := s.hostq.map (fun x =>
      (x.1, if x.2.bound && ks.contains (dstCell x.2.dst) then { x.2 with bound := false } else x.2)) }

/-- The tag of what the latest load of graph n binds (R433). -/
def Graph.tag (g : Graph) (n : Nat) : BitVec 12 × BitVec 64 := (g.dom, BitVec.ofNat 32 n ++ g.serial)

/-- What a load of graph n holds is given back: its groups, its generators, its host queues, its circuits and its cells. -/
def State.giveBack (s : State) (n : Nat) (g : Graph) : State :=
  let s := g.groups.foldl (fun s j => s.retireGroup g j) s
  let s := g.eags.foldl (fun s e => s.setEag e {}) s
  (((s.unbindHosts g.cells).freeCircuits (fun t => t = g.tag n))).releaseCells g.cells

/-- The oldest load that waits becomes the graph's, once graph g's load is marked; it has the regions of the earlier ones (R13,
R14, R91). -/
def State.nextLoad (s : State) (n : Nat) (g : Graph) : State :=
  match s.carrier.svc.waiting.find? (fun x => x.1 = n) with
  | none => s
  | some w => (s.setGraph n { w.2 with vas := g.vas }).modSvc (fun v => { v with waiting := v.waiting.erase w })

/-- The load mark of a load (R14, R15). -/
def Graph.markWord (g : Graph) : Word := at_ 4 56 ||| g.serial.zeroExtend 64

/-- The loader emits the load mark of a load whose phase has ended and whose engines have drained, and releases its cells (R14,
R32). The graph's next load, if there is one, may then start. -/
def execLoadMark (serial : Nat) (s : State) : Host.Outcome State Fault Refusal :=
  match s.carrier.svc.graphs.find? (fun g => g.2.serial.toNat = serial && !g.2.marked) with
  | some (n, g) =>
    if g.ended && g.cut.isNone && s.loadDrained g then
      let s := (s.giveBack n g).modSvc (fun v => { v with marks := v.marks ++ [g.markWord] })
      .next ((s.setGraph n { g with marked := true, units := [], eags := [], groups := [] }).nextLoad n g)
    else .next s
  | none => .next s

/-- WAIT (R471): it replies after the mark of the graph's last load. -/
def execWait (call : CallId) (s : State) : Host.Outcome State Fault Refusal :=
  serve call 2 1 false graphArg
    (fun s x => onGraph s x (uns x.arg) (fun g => if g.marked then .reply s 0 (g.serial.zeroExtend 64) else .later s)) s

/-- KILL (R438, R471). -/
def execKill (call : CallId) (s : State) : Host.Outcome State Fault Refusal :=
  serve call 2 4 false graphArg
    (fun s x => onGraph s x (uns x.arg) (fun g => .reply (s.terminate g.dom) 0 0)) s

/-! ### The cut (R448, R451, R452) -/

/-- A cell with QNP 0 at every inbound endpoint is a source of the cut. -/
def Cell.cutSource (c : Cell) : Bool := (upto 8).all (fun i => (c.inEp i).qnp = 0)

/-- A generator is told to stop, and owes the marker. -/
def Eag.askCut (e : Eag) (cut : BitVec 32) : Eag :=
  { e with cut := some cut, run := e.run.map (fun r => { r with stopping := true }) }

/-- Posts that no close has taken are withdrawn; the agents keep them, and send them again when the cells resume (R448, R450). -/
def State.withdraw (s : State) (g : Graph) : State :=
  let s := g.groups.foldl (fun s n => s.setXgroup n { s.xgroup n with posts := [] }) s
  g.cells.foldl (fun s k => s.modCell k (fun c => { c with
    agents := c.agents.map (fun a => (a.1, if a.2.st = 1 ∨ a.2.st = 2 then { a.2 with arrived := true } else a.2)) })) s

/-- The cut begins (R448). -/
def State.beginCut (s : State) (n : Nat) (g : Graph) : State :=
  let cut := s.carrier.svc.cutNo + 1
  let s := g.cells.foldl (fun s k => s.modCell k (fun c =>
    if c.cutSource then { c with qreq := true, qcut := cut } else c)) s
  let s := g.eags.foldl (fun s e => s.setEag e ((s.eag e).askCut cut)) s
  ((s.withdraw g).setGraph n { g with cut := some cut }).modSvc (fun v => { v with cutNo := cut })

/-- A stopped generator in queue mode sends its marker when its window has room (R448). -/
def State.eagMarker (s : State) (e : Nat) : State :=
  let x := s.eag e
  match x.cut with
  | some cut =>
    if x.run.isSome then s
    else if x.dist then s.setEag e { x with cut := none }
    else if x.win.length < x.qwin then
      let q : BitVec 32 := (x.reg 13).extractLsb' 0 32
      let w : QWord := ⟨at_ 2 56 ||| cut.zeroExtend 64, false, 7, 0, q, 0, 0, x.dom, x.dom⟩
      s.setEag e { x.setReg 13 ((q + 1).zeroExtend 64) with win := x.win ++ [{ w, slot := 0 }], cut := none }
    else s
  | none => s

/-- The cut is complete: every cell has parked for it, and every marker, retired word and weight has arrived (R451). -/
def State.cutComplete (s : State) (g : Graph) : Bool :=
  g.cells.all (fun k =>
    let c := s.cell k
    c.st = .parked && c.pcause = .cut && c.acks.isEmpty && c.phaseOut.isEmpty && s.stripQuiet (stripOf k) &&
    (upto 8).all (fun i => (c.outEp i).ents.all (fun e => !e.w.isCtl 2 || ((c.outEp i).consumers &&& ~~~e.acked) = 0)) &&
    s.net.all (fun m => m.cell ≠ k)) &&
  g.eags.all (fun e => (s.eag e).run.isNone && (s.eag e).cut.isNone &&
    (s.eag e).win.all (fun x => !x.w.isCtl 2 || x.acked.getLsbD 0))

/-- A page with its bytes and bits, at offsets within it. -/
def State.savePage (s : State) (p : Page) : PageRec :=
  let a := pAddr p.entry % 2 ^ 50
  let n := pSize p.entry
  let cut {α : Type} (m : SMap α) (u : Nat) : SMap α :=
    (m.filter (fun x => decide (a / u ≤ x.1) && decide (x.1 < (a + n) / u))).map (fun x => (x.1 - a / u, x.2))
  ⟨p, cut s.mem 1, cut s.memPoison 8, cut s.present 8⟩

/-- A page of the domain has been written since the last cut. -/
def State.dirtyPage (s : State) (d : BitVec 12) (p : Page) : Bool :=
  pValid p.entry && pDom p.entry = d && pWrite p.entry && s.own (pAddr p.entry) &&
  s.dirty.any (pAddr p.entry % 2 ^ 50 / 0x10000) (pSize p.entry / 0x10000)

/-- The dirty bits of a page are cleared. -/
def State.cleanPage (s : State) (p : Page) : State :=
  { s with dirty := s.dirty.fill false (pAddr p.entry % 2 ^ 50 / 0x10000) (pSize p.entry / 0x10000) }

/-- The cut record (R452): the pages written since the previous cut join those that record holds. -/
def State.saveCut (s : State) (g : Graph) (cut : BitVec 32) : CutRec :=
  let new := (s.pages.filter (s.dirtyPage g.dom)).map s.savePage
  let old := ((g.saved.map CutRec.pages).getD []).filter (fun r => new.all (fun x => x.page.va ≠ r.page.va))
  { cut, at_ := s.now
    units := g.units.map (fun x => ⟨x.1, x.2.1, x.2.2, s.cell x.2.2⟩)
    strips := ((g.cells.map stripOf).eraseDups).map (fun t => (t, s.strip t))
    eags := g.eags.map s.eag, pages := old ++ new }

/-- The rows that know a domain take a state and, where one is given, the place of its spill queue (R434, R436). -/
def State.swapRows (s : State) (d : BitVec 12) (spills : List (Nat × Nat)) : State :=
  s.rows.foldl (fun s r =>
    if r.2.domState d.toNat = 0 then s
    else
      let pa := ((spills.find? (fun x => x.1 = r.1)).map (fun x => x.2)).getD 0
      s.setRow r.1 { r.2 with
        quince := SMap.put r.2.quince d.toNat (at_ (s.modNo.toNat * 2 ^ 34 + pa / 2 ^ 16) 16 ||| 3)
        spills := SMap.put r.2.spills d.toNat 0 }) s

/-- Every row of the graph's cells has a place for its spill queue, in HBM and on a page boundary. -/
def Graph.spillsOk (g : Graph) (spills : List (Nat × Nat)) : Bool :=
  (g.cells.map yOf).all (fun y => spills.any (fun x =>
    x.1 = y && decide (hbmBase ≤ x.2) && decide (x.2 < hbmTop) && x.2 % 0x10000 = 0))

/-- The service's choices for a cut: pairs of a row with the place of its spill queue (R436), and, from 512 on, of a virtual and a
physical address, one for each page of the record (R452). -/
def recordPages (choices : List (Nat × Nat)) : List PageChoice :=
  (choices.filter (fun x => decide (512 ≤ x.1))).map (fun x => ⟨x.1, x.2⟩)

/-- The places that the service chose for the spill queues and the record are ones it may choose. -/
def State.placesOk (s : State) (g : Graph) (cut : BitVec 32) (choices : List (Nat × Nat)) : Bool :=
  g.spillsOk choices && decide (choices.map (fun x => x.2)).Nodup && choices.all (fun x => s.unused x.2 0x10000) &&
  s.recordFits g (s.saveCut g cut) (recordPages choices)

/-- The record is written, the domain is SWAPPED, and what the load holds is given back (R451, R452, R454). -/
def State.finishCut (s : State) (n : Nat) (g : Graph) (cut : BitVec 32) (spills : List (Nat × Nat)) : State :=
  let r := s.saveCut g cut
  let s := s.writeCutRecord n g r (recordPages spills)
  let s := (s.pages.filter (s.dirtyPage g.dom)).foldl State.cleanPage s
  let s := s.swapRows g.dom spills
  let s := g.groups.foldl (fun s n => s.setXgroup n {}) s
  let s := g.eags.foldl (fun s e => s.setEag e {}) s
  ((s.freeCircuits (fun t => t = g.tag n)).releaseCells g.cells).setGraph n { g with cut := none, swapped := true, saved := some r }

/-- A cut of graph n goes one step on: it begins, or its markers go on, or it completes with its number. -/
def State.cutStep (s : State) (n : Nat) (g : Graph) (spills : List (Nat × Nat)) : State × Option (BitVec 32) :=
  match g.cut with
  | none => (s.beginCut n g, none)
  | some cut =>
    let s := g.eags.foldl State.eagMarker s
    if s.cutComplete g && s.placesOk g cut spills then (s.finishCut n g cut spills, some cut) else (s, none)

/-- CUT (R448, R471): it replies when the record is written and the domain is SWAPPED. A graph that does not run has no cut. -/
def execCut (call : CallId) (spills : List (Nat × Nat)) (s : State) : Host.Outcome State Fault Refusal :=
  serve call 2 2 false graphArg
    (fun s x => onGraph s x (uns x.arg) (fun g =>
      if g.swapped ∨ g.torn ∨ g.marked then .reply s svArg 0
      else
        match s.cutStep (uns x.arg) g spills with
        | (s', some cut) => .reply s' 0 (cut.zeroExtend 64)
        | (s', none) => .later s')) s

/-! ### Restore (R436, R453, R454) -/

/-- Units that shared a strip share one again, in the same slots (R454). -/
def relinkOk (rec_ : CutRec) (ks : List Nat) : Bool :=
  let us := rec_.units.zip ks
  us.all (fun a => us.all (fun b =>
    stripOf a.1.cell ≠ stripOf b.1.cell || a.1.cell = b.1.cell ||
      (stripOf a.2 = stripOf b.2 && slotOf a.2 = slotOf a.1.cell && slotOf b.2 = slotOf b.1.cell)))

/-- The window of port i from that of a record: its words stand from slot 0 on, and go afresh to the consumers that have not
acknowledged them (R453). -/
def Cell.restoreWindow (c : Cell) (i : Nat) (o : OutEp) : Cell :=
  let e := c.outEp i
  let live := o.ents.filter (fun x => (o.consumers &&& ~~~x.acked) ≠ 0)
  let es := (live.zip (List.range live.length)).map (fun x : WinEnt × Nat =>
    { x.1 with slot := x.2, arrived := x.1.acked, stored := x.1.acked, held := 0 })
  let c := es.foldl (fun c x =>
    let a := e.rpbase.toNat + 16 * x.slot
    (c.stWord a ⟨x.w.v, x.w.p⟩).stWord (a + 8) ⟨x.w.side, false⟩) c
  c.setOut i { e with
    seq := o.seq, det := o.det, nack := o.nack, ents := es
    rph := if e.win = 0 then 0 else es.length % e.win.toNat }

/-- A unit restored from its record in a cell that has been configured (R452, R453), but for the phase accumulator, which is the root's;
`outs` and `ins` name the port of the record whose edge a port now has. What the record does not list is as configured. -/
def Cell.restoreUnit (c : Cell) (r : CutRec) (old : Cell) (k now : Nat) (outs ins : Nat → Option Nat) : Cell :=
  let b := c.bindAll
  let c := { c with
    st := .parked, pcause := .cut, heldSt := old.heldSt, wait := old.wait, bpSkip := old.bpSkip, bind := b.bind
    g := old.g, pc := old.pc, sys := old.sys, startAt := old.startAt + ofNat (now - r.at_)
    store := old.store, storePoison := old.storePoison, slots := old.slots, faults := old.faults
    heldFault := old.heldFault, arrivals := old.arrivals, busy := old.busy, iseq := old.iseq, step := old.step
    sems := old.sems, vec := old.vec, mat := old.mat, agents := old.agents, eagRun := old.eagRun, copies := old.copies
    pendingReads := old.pendingReads, savedCopies := old.savedCopies.map (fun m => { m with cell := k })
    nonReplay := old.nonReplay, replays := old.replays, ckpt := { old.ckpt with pops := [] } }
  let c := (upto 8).foldl (fun c i =>
    match outs i with
    | some j => c.restoreWindow i (old.outEp j)
    | none => c) c
  (upto 8).foldl (fun c i =>
    match ins i with
    | some j => c.setIn i { c.inEp i with res := (old.inEp j).res }
    | none => c) c

/-- The strip state of a record in the strip that its units now share; lines and tree links are as configured (R290, R452). -/
def Strip.restore (t old : Strip) (load : BitVec 64) : Strip :=
  { old with
    par := t.par, kids := t.kids, live := some load
    bars := t.bars.map (fun x => (x.1, { SMap.get {} old.bars x.1 with cfg := x.2.cfg }))
    evs := t.evs.map (fun x => (x.1, { SMap.get {} old.evs x.1 with cfg := x.2.cfg })) }

/-- A generator restored with its registers, NEXT, SEQ and window, and resumed if the cut had stopped it (R453). -/
def Eag.restore (g old : Eag) (cellNow : Nat → Nat) : Eag :=
  { old with
    regs := SMap.put old.regs 11 (g.reg 11), dom := g.dom, edge := g.edge, cut := none, again := none
    win := (old.win.filter (fun x => !x.acked.getLsbD 0)).map (fun x => { x with arrived := x.acked, stored := x.acked, held := 0 })
    run := old.again.map (fun x => { cell := cellNow x.1, handle := x.2, tok := ⟨none, 0, 0, 0, 0, false, 0⟩ }) }

/-- A saved page is written back to the page of its address (R453). -/
def State.restorePage (s : State) (r : PageRec) : State :=
  match s.pageOf r.page.va with
  | none => s
  | some p =>
    let a := pAddr p.entry % 2 ^ 50
    let s := s.clearBytes a (pSize p.entry)
    { s with
      mem := r.bytes.foldl (fun m x => m.setByte (a + x.1) x.2) s.mem
      memPoison := r.poison.foldl (fun m x => m.put (a / 8 + x.1) x.2) s.memPoison
      present := r.present.foldl (fun m x => m.put (a / 8 + x.1) x.2) s.present }

/-- An entry of a spill queue (R436): the word, its edge and graph, and the unit and the cell that consume it. -/
structure Spilled where
  w : QWord
  edge : Nat
  graph : Nat
  unit : Nat
  cell : Nat

/-- The entries of the spill queue of a row for domain d (R436). -/
def State.spilled (s : State) (r : Row) (d : BitVec 12) : List Spilled :=
  let base := field (r.quinceOf d.toNat) 16 44 * 2 ^ 16 % 2 ^ 50
  (upto (SMap.get 0 r.spills d.toNat)).map (fun j =>
    let a := base + 32 * j
    let side : Word := ofNat (s.mem.read (a + 8) 8)
    let w2 : Word := ofNat (s.mem.read (a + 16) 8)
    let w3 : Word := ofNat (s.mem.read (a + 24) 8)
    ⟨⟨ofNat (s.mem.read a 8), side.getLsbD 3, side.extractLsb' 0 3, side.extractLsb' 46 18,
      (side.extractLsb' 30 16).zeroExtend 32, side.extractLsb' 4 2, side.extractLsb' 20 10, d, d⟩,
      field w2 48 16, field w2 0 32, field w3 18 18, field w3 0 18⟩)

/-- The entries of each message: a word with POS 2 or 3 belongs to the message of the one before it (R209). -/
def messages : List Spilled → List (List Spilled)
  | [] => []
  | x :: xs =>
    match messages xs with
    | (y :: ys) :: ms => if y.w.pos = 2 ∨ y.w.pos = 3 then (x :: y :: ys) :: ms else [x] :: (y :: ys) :: ms
    | ms => [x] :: ms

/-- The cells of the loads that wait to start, of the graphs of domain d. -/
def State.waitingCells (s : State) (d : BitVec 12) : List Nat :=
  (s.carrier.svc.waiting.filter (fun x => x.2.dom = d)).flatMap (fun x => x.2.cells)

/-- Where the words of an entry go, as cell, port and edge. In the graph that is restored, from `old`, it is the unit that its edge now
feeds; nodes and edges go by their names (R454). In another graph of the domain, or a load that waits, it is the cell of the entry. -/
def Plan.spillTarget (p : Plan) (s : State) (old : Graph) (x : Spilled) : Option (Nat × Nat × Nat) := do
  if x.graph = p.graph.toNat ∧ !(s.waitingCells p.dom).contains x.cell then
    let u ← old.units.find? (fun u => u.2.2 = x.cell)
    let name ← (old.img.nodes[u.1]?).map NodeDesc.name
    let edge ← (old.img.edges[x.edge]?).map EdgeDesc.name
    let n ← p.img.nodes.findIdx? (fun y => y.name = name)
    let (e, id) ← p.edges.find? (fun y => y.1.name = edge)
    let d ← e.dests.find? (fun d => d.1 = n)
    return (p.cellOf n x.unit, d.2, id)
  else
    let (_, g, n, _) ← s.unitAt p.dom x.cell
    let e ← g.img.edges[x.edge]?
    let d ← e.dests.find? (fun d => d.1 = n)
    return (x.cell, d.2, x.edge)

/-- The sequence number, below `next`, that ends in the 16 bits a side word keeps. -/
def seqBelow (next : BitVec 32) (w : QWord) : BitVec 32 :=
  next - 1 - ((next.extractLsb' 0 16 - 1 - w.seq.extractLsb' 0 16 : BitVec 16).zeroExtend 32)

/-- A word stands again in a window, in the order of SEQ and not yet sent. -/
def putBack (es : List WinEnt) (x : WinEnt) : List WinEnt :=
  let before := es.takeWhile (fun y => !seqFrom x.w.seq y.w.seq)
  before ++ x :: (es.drop before.length).filter (fun y => y.w.seq ≠ x.w.seq)

/-- The spilled words of a message join the stream of their producer (R436): a host queue has them in its window again, to be sent
afresh (R453); the ones of another module's producer, which has retired them, reach their consumer at once (log entry 36). -/
def Plan.unspill (p : Plan) (old : Graph) (s : State) (m : List Spilled) : State :=
  match m.head?.bind (p.spillTarget s old) with
  | none => s
  | some (k, i, e) =>
    match s.hostq.find? (fun x => x.2.bound && x.2.dom = p.dom && x.2.edge.toNat = e && dstCell x.2.dst = k && dstPort x.2.dst = i) with
    | some (q, h) =>
      let ents := m.foldl (fun es x =>
        let seq := seqBelow h.seq x.w
        putBack es { w := { x.w with seq }, slot := seq.toNat % h.win }) h.ents
      { s with hostq := SMap.put s.hostq q { h with ents } }
    | none => s.arrive k i ⟨.chain, m.map Spilled.w⟩

/-- The spill queues of the domain are merged and freed; the rows that have no cell of it any more forget it (R436). -/
def Plan.unspillAll (p : Plan) (old : Graph) (s : State) : State :=
  let words := s.rows.flatMap (fun r => s.spilled r.2 p.dom)
  let s := s.rows.foldl (fun s r =>
    if r.2.domState p.dom.toNat = 0 then s
    else s.setRow r.1 { r.2 with quince := SMap.put r.2.quince p.dom.toNat 0, spills := SMap.erase r.2.spills p.dom.toNat }) s
  (messages words).foldl (p.unspill old) (s.runRows p.dom (p.cells ++ s.waitingCells p.dom))

/-- The generators of a plan, each with the unit and the handle that hold it (R247, R477): the name of the node, the unit, the handle. -/
def Plan.named (p : Plan) : List (String × Nat × Nat) :=
  (p.ofType 6).map (fun x =>
    let w := entryHead x.1
    (((p.img.nodes[entryIndex x.1]?).map NodeDesc.name).getD "", field w 14 17, field w 13 1))

/-- The generators of the new placement that the record has: those of the same node, unit and handle (R452, R454). -/
def Plan.savedEags (p : Plan) (old : Plan) (r : CutRec) : List (Nat × Eag) :=
  (p.pl.eags.zip p.named).filterMap (fun x =>
    ((old.named.zip r.eags).find? (fun y => y.1 = x.2)).map (fun y => (x.1, y.2)))

/-- The root's phase accumulator, with what its phase has under way, is the record's in the new root (R452). -/
def Plan.restoreRoot (p : Plan) (s : State) (g : Graph) (r : CutRec) : State :=
  match r.units.find? (fun u => u.cell = g.root) with
  | some u => s.modCell p.root (fun c => { c with phaseD := u.st.phaseD, borrows := u.st.borrows, phaseEnd := u.st.phaseEnd })
  | none => s

/-- Every unit, strip and generator of the record of g is restored in the new placement, the domain runs, and the cells resume
(R453). `units` pairs a unit's cell with its record and the ports that its edges had; `old` is the plan that the record was of. -/
def Plan.restore (p : Plan) (s : State) (g : Graph) (r : CutRec) (old : Plan)
    (units : List (Nat × UnitRec × (Nat → Option Nat) × (Nat → Option Nat))) : State :=
  let s := units.foldl (fun s x => s.modCell x.1 (fun c => c.restoreUnit r x.2.1.st x.1 s.now x.2.2.1 x.2.2.2)) s
  let s := p.restoreRoot s g r
  let s := units.foldl (fun s x =>
    match r.strips.find? (fun t => t.1 = stripOf x.2.1.cell) with
    | some t => s.setStrip (stripOf x.1) ((s.strip (stripOf x.1)).restore t.2 (p.graph ++ p.serial))
    | none => s) s
  let cellNow (k : Nat) : Nat := ((units.find? (fun x => x.2.1.cell = k)).map (fun x => x.1)).getD 0
  let s := (p.savedEags old r).foldl (fun s x => s.setEag x.1 ((s.eag x.1).restore x.2 cellNow)) s
  let s := if g.torn then r.pages.foldl State.restorePage s else s
  let s := { s with hostq := s.hostq.map (fun x =>
    (x.1, if x.2.bound && p.cells.contains (dstCell x.2.dst) then
      { x.2 with ents := x.2.ents.map (fun e => { e with arrived := e.acked, stored := e.acked, held := 0 }) } else x.2)) }
  units.foldl (fun s x => s.resumeCell x.1 false) (p.unspillAll g s)

/-- The plan that relinks a graph as it was (R454). -/
def Graph.plan (g : Graph) (n : Nat) (pl : Placement) (serial : BitVec 32) (mod : Nat) : Plan :=
  ⟨Lpb.ofWords g.block, g.img, { pl with vas := g.vas, pages := [] }, g.dom, BitVec.ofNat 32 n, serial, mod⟩

/-- RESUME (R453, R454, R471): `pl` is the relinker's placement. A graph that has no record, or that runs, is refused with
SV_ARG. -/
def execResume (call : CallId) (pl : Placement) (s : State) : Host.Outcome State Fault Refusal :=
  serve call 2 3 false graphArg
    (fun s x => onGraph s x (uns x.arg) (fun g =>
      match g.saved with
      | none => .reply s svArg 0
      | some r =>
        if (g.swapped = false ∧ g.torn = false) ∨ g.marked then .reply s svArg 0
        else
          let p := g.plan (uns x.arg) pl (s.carrier.svc.serial + 1) s.modNo.toNat
          if pl.fits = false then .reply s ldNoFit 0
          else if p.cellsOk s = false ∨ p.eagsOk s = false ∨ relinkOk r p.cells = false then .later s
          else
            match p.apply s with
            | .error c => .reply s (0x100 + c) 0
            | .ok t =>
              if p.treesOk t = false then .later s else
              let units := (p.cells.zip r.units).map (fun u => (u.1, u.2, (fun i : Nat => some i), (fun i : Nat => some i)))
              let t := p.restore t g r p units
              let g' := { p.record with saved := g.saved, ended := g.ended, vas := g.vas }
              let t := (t.setGraph (uns x.arg) g').modSvc (fun v => { v with serial := p.serial })
              .reply t 0 (p.serial.zeroExtend 64))) s

/-! ### REPLACE (R454) -/

/-- The node, or edge, of the replaced image that has the name. -/
def oldNode (old : Image) (name : String) : Option Nat := old.nodes.findIdx? (fun x => x.name = name)
def oldEdge (old : Image) (name : String) : Option EdgeDesc := old.edges.find? (fun x => x.name = name)

/-- The port that the edge at outbound port i of node n had in the replaced image, where it left node m. -/
def Plan.oldOut (p : Plan) (old : Image) (n m i : Nat) : Option Nat :=
  match (p.outOf n i).bind (fun e => oldEdge old e.1.name) with
  | some e => if e.fromNode = m then some e.fromPort else none
  | none => none

/-- The port that an edge into port i of node n had in the replaced image, where it ended at node m. -/
def Plan.oldIn (p : Plan) (old : Image) (n m i : Nat) : Option Nat :=
  ((p.into n i).findSome? (fun e => oldEdge old e.1.name)).bind (fun e =>
    (e.dests.find? (fun d => d.1 = m)).map (fun d => d.2))

/-- The units of the new image that a record restores: those of a node of the same name. -/
def Plan.inherited (p : Plan) (old : Image) (r : CutRec) : List (Nat × UnitRec × (Nat → Option Nat) × (Nat → Option Nat)) :=
  p.units.filterMap (fun x =>
    match (p.img.nodes[x.1]?).bind (fun n => oldNode old n.name) with
    | none => none
    | some m =>
      (r.units.find? (fun u => u.node = m && u.unit = x.2.1)).map (fun u =>
        (x.2.2, u, (fun i => p.oldOut old x.1 m i), (fun i => p.oldIn old x.1 m i))))

/-- REPLACE (R454, R471): the graph of TARGET is cut and restored into a new image; nodes and edges are matched by name. It keeps
its domain and its graph ID. -/
def execReplace (call : CallId) (spills : List (Nat × Nat)) (img : Image) (pl : Placement) (s : State) :
    Host.Outcome State Fault Refusal :=
  serve call 2 5 false blockArg
    (fun s x =>
      s.withBlock call x.auth (uns x.arg) fun
        | none => .reply s svRecord 0
        | some b =>
          let va := uns x.arg
          onGraph s x b.target (fun g =>
            let p : Plan := ⟨b, img, pl, g.dom, BitVec.ofNat 32 b.target, s.carrier.svc.serial + 1, s.modNo.toNat⟩
            match p.check s true with
            | some (code, w) => .reply (s.writeResult x.auth va code (p.dropped code) w) code 0
            | none =>
              if g.marked then .reply s svArg 0
              else if g.swapped = false ∧ g.torn = false then .later (s.cutStep b.target g spills).1
              else
                match g.saved with
                | none => .reply s svArg 0
                | some r =>
                  let units := p.inherited g.img r
                  if p.cellsOk s = false ∨ p.eagsOk s = false ∨ p.regionsOk s (blockOf x.cell) = false ∨
                      relinkOk { r with units := units.map (fun u => u.2.1) } (units.map (fun u => u.1)) = false then .later s
                  else
                    match p.apply s with
                    | .error c => .reply (s.writeResult x.auth va (0x100 + c) (p.dropped 0) none) (0x100 + c) 0
                    | .ok t =>
                      if p.treesOk t = false then .later s else
                      let t := p.restore (p.regions t) g r (g.plan b.target pl g.serial s.modNo.toNat) units
                      let fresh := p.cells.filter (fun k => units.all (fun u => u.1 ≠ k))
                      let t := fresh.foldl State.startCell t
                      let t := t.setGraph b.target { p.record with saved := some r, ended := g.ended }
                      let t := t.modSvc (fun v => { v with serial := p.serial })
                      .reply (t.writeResult x.auth va 0 (p.dropped 0) none) 0 (p.graph ++ p.serial))) s

end Sys2Proof.Machine
end

