-- ==== Sys2Proof/Machine/HostPort.lean ====
section
/-! DEFINITION. The host ports (R147, R479 to R481): doorbells, the mailbox, the outbound rings and the registers of BAR0. -/

namespace Sys2Proof.Machine

open Sys2Proof

def State.hostQueue (s : State) (p q : Nat) : HostQueue := SMap.get {} s.hostq (16 * p + q)
def State.setHostQueue (s : State) (p q : Nat) (x : HostQueue) : State :=
  { s with hostq := SMap.put s.hostq (16 * p + q) x }
def HostPort.ring (h : HostPort) (q : Nat) : HostRing := SMap.get {} h.rings q

/-- Words that a queue's buffer holds (R479). -/
def hostBuffer : Nat := 256

/-- IQq.STAT.ROOM -/
def HostQueue.room (x : HostQueue) : Nat := hostBuffer - x.buf.length

/-- The inbound queue is bound: by a load, or it is the mailbox, which accepts calls once the ports have trained (R479, R498). -/
def State.queueBound (s : State) (p q : Nat) : Bool :=
  if q = 15 then s.carrier.svc.running && (s.host p).up else (s.hostQueue p q).bound

/-- The domain of the load that binds the queue. -/
def State.queueDom (s : State) (p q : Nat) : BitVec 12 := (s.hostQueue p q).dom

/-- A doorbell word breaks R121: a reserved CTL subtype, or QUIESCE, LOADMARK or SEQSYNC outside domain 0. -/
def ctlRefused (dom : BitVec 12) (tag : BitVec 3) (v : Word) : Bool :=
  let sub := field v 56 8
  tag = 7 && (sub = 0 || decide (8 ≤ sub) || ((sub = 2 || sub = 4 || sub = 6) && dom ≠ 0))

/-- The word is refused (R480): the mailbox takes call words, which are RAW (R197). -/
def State.wordRefused (s : State) (p q : Nat) (tag : BitVec 3) (v : Word) : Bool :=
  !s.queueBound p q || (if q = 15 then tag ≠ 0 else ctlRefused (s.queueDom p q) tag v)

/-- A doorbell write (R480): the word joins the buffer, or is refused and dropped. -/
def State.doorbell (s : State) (p q : Nat) (tag : BitVec 3) (v : Word) : State :=
  let x := s.hostQueue p q
  if x.room = 0 then s.setHostQueue p q { x with badw := true, ovf := true }
  else if s.wordRefused p q tag v then s.setHostQueue p q { x with badw := true }
  else s.setHostQueue p q { x with buf := x.buf ++ [(tag, v, (s.host p).accepted)] }

/-- A write to IQq.STAT clears the bits written as 1 among BADW and OVF. -/
def State.clearStat (s : State) (p q : Nat) (v : Word) : State :=
  let x := s.hostQueue p q
  s.setHostQueue p q { x with badw := x.badw && !v.getLsbD 18, ovf := x.ovf && !v.getLsbD 17 }

def execHostDoorbell (port queue : Nat) (tag : BitVec 3) (data : Word) (s : State) : Host.Outcome State Fault Refusal :=
  if (s.host port).up then .next (s.doorbell port queue tag data) else .next s

def execIqStatClear (port queue : Nat) (data : Word) (s : State) : Host.Outcome State Fault Refusal :=
  if (s.host port).up then .next (s.clearStat port queue data) else .next s

/-- A CXL.mem request that the port accepted before the n-th still waits for its region (R147). -/
def State.memPending (s : State) (p n : Nat) : Bool :=
  s.regions.any (fun x => x.2.reqs.any (fun r => r.1 = p && decide (r.2.1 < n)))

/-- A word of a pair reaches the mailbox; the second makes a call for loader unit 0 (R480). -/
def State.mailWord (s : State) (p : Nat) (v : Word) : State :=
  let h := s.host p
  match h.half with
  | none => s.setHost p { h with half := some v }
  | some w =>
    let t := s.carrier.svc.stamp
    (s.setHost p { h with half := none, mail := h.mail ++ [⟨h.mails, w, v, t⟩], mails := h.mails + 1 }).modSvc
      (fun x => { x with stamp := t + 1 })

/-- The oldest word of a buffer is pushed once every request accepted before it has been performed and the window has room
(R147, R217, R480). -/
def execDoorbellPush (port queue : Nat) (s : State) : Host.Outcome State Fault Refusal :=
  let x := s.hostQueue port queue
  match x.buf with
  | [] => .next s
  | (tag, v, n) :: rest =>
    if s.memPending port n then .next s
    else if queue = 15 then .next ((s.setHostQueue port queue { x with buf := rest }).mailWord port v)
    else if x.bound = false ∨ x.win ≤ x.ents.length then .next s
    else
      let d := s.queueDom port queue
      let w : QWord := ⟨v, false, tag, 0, x.seq, 0, 0, d, d⟩
      .next (s.setHostQueue port queue { x with
        buf := rest, seq := x.seq + 1, ents := x.ents ++ [{ w, slot := x.seq.toNat % x.win }] })

/-! ### Outbound rings (R481) -/

/-- The ring is enabled and an entry is free. -/
def HostRing.free (r : HostRing) : Bool := r.size ≠ 0 && decide ((r.tail - r.head).toNat < 2 ^ r.size)

/-- The next entry is written, and then TAIL. -/
def State.ringPut (s : State) (p q : Nat) (v side : Word) : State :=
  let h := s.host p
  let r := h.ring q
  let a := r.base + ofNat (16 * (r.tail.toNat % 2 ^ r.size))
  s.setHost p { h with
    wrote := h.wrote ++ [(a, v, side)]
    rings := SMap.put h.rings q { r with tail := r.tail + 1 } }

/-- The oldest word of a source for an outbound queue is written to the host ring, which retires it; the source `chain` stands
for the services, whose words for queues 14 and 15 wait at the port (R466, R474). -/
def execHostRingWrite (port queue : Nat) (src : Src) (s : State) : Host.Outcome State Fault Refusal :=
  if (s.host port).up = false ∨ ((s.host port).ring queue).free = false then .next s
  else if src = .chain then
    let h := s.host port
    match h.replies.find? (fun x => x.1 = queue) with
    | some x => .next ((s.setHost port { h with replies := h.replies.erase x }).ringPut port queue x.2.1 x.2.2.1)
    | none => .next s
  else if s.toHost src = some (port, queue) then
    match s.nextMessage src with
    | [] => .next s
    | w :: _ => .next (((s.markArrived src [w]).ringPut port queue w.v w.side).applyAck ⟨src, w.seq, false⟩)
  else .next s

/-! ### BAR0 (R479) -/

/-- The ring's register at an offset of its 64 bytes takes a value; one that the field does not take is ignored. -/
def HostRing.write (r : HostRing) (off : Nat) (v : Word) : HostRing :=
  if off = 0 then (if uns v % 64 = 0 then { r with base := v } else r)
  else if off = 8 then
    let n := field v 0 6
    if n = 0 ∨ (4 ≤ n ∧ n ≤ 20) then { r with size := n } else r
  else if off = 16 then { r with head := v.extractLsb' 0 32 }
  else r

/-- A host write to BAR0: only aligned writes of 8 bytes count. -/
def execHostBarWrite (port addr size : Nat) (data : Word) (s : State) : Host.Outcome State Fault Refusal :=
  let h := s.host port
  if h.up = false ∨ size ≠ 8 ∨ addr % 8 ≠ 0 then .next s
  else if 0x1000 ≤ addr ∧ addr < 0x1800 then
    let q := (addr - 0x1000) / 0x80
    let o := addr % 0x80
    if o < 0x40 then .next (s.doorbell port q (BitVec.ofNat 3 (o / 8)) data)
    else if o = 0x40 then .next (s.clearStat port q data)
    else .next s
  else if 0x4000 ≤ addr ∧ addr < 0x4400 then
    let q := (addr - 0x4000) / 0x40
    .next (s.setHost port { h with rings := SMap.put h.rings q ((h.ring q).write (addr % 0x40) data) })
  else .next s

/-- A host port trains; CXL.mem is enabled with the link (R479). The last step of bring-up trains the ports (R498). -/
def State.trainHost (s : State) (p : Nat) (x8 : Bool) : State :=
  s.setHost p { s.host p with up := true, mem := true, x8 }

def execHostPortTrain (port : Nat) (x8 : Bool) (s : State) : Host.Outcome State Fault Refusal :=
  if port < 4 ∧ 7 ≤ s.carrier.pwr.step.toNat then .next (s.trainHost port x8) else .next s

/-- What a host read of BAR0 returns (R479). -/
def State.barRead (s : State) (p addr size : Nat) : Word :=
  let h := s.host p
  if size ≠ 8 ∨ addr % 8 ≠ 0 then 0xFFFFFFFFFFFFFFFF
  else if addr = 0 then at_ p 10 ||| s.modNo.zeroExtend 64
  else if addr = 8 then at_ (b2n s.carrier.svc.running) 3 ||| at_ (b2n h.mem) 2 ||| at_ (b2n h.x8) 1 ||| at_ (b2n h.up) 0
  else if 0x1000 ≤ addr ∧ addr < 0x1800 ∧ addr % 0x80 = 0x40 then
    let q := (addr - 0x1000) / 0x80
    let x := s.hostQueue p q
    at_ (b2n x.badw) 18 ||| at_ (b2n x.ovf) 17 ||| at_ (b2n (s.queueBound p q)) 16 ||| ofNat x.room
  else if 0x4000 ≤ addr ∧ addr < 0x4400 then
    let r := h.ring ((addr - 0x4000) / 0x40)
    let o := addr % 0x40
    if o = 0 then r.base
    else if o = 8 then ofNat r.size
    else if o = 16 then r.head.zeroExtend 64
    else if o = 24 then r.tail.zeroExtend 64
    else 0
  else 0

end Sys2Proof.Machine
end

