-- ==== Sys2Proof/Machine/Power.lean ====
section
/-! DEFINITION. The block governors and the ring supervisor: leave and its budgets (R39, R40, R497), the management registers
(R496), and the bring-up of the module (R498) with the loss of its supply (R485). -/

namespace Sys2Proof.Machine

open Sys2Proof

def State.setPwr (s : State) (p : Power) : State := { s with carrier := { s.carrier with pwr := p } }

/-! ### Leave (R40, R497) -/

/-- The operation that asked begins, or may begin. -/
def State.leaveTo (s : State) (b : Nat) : LeaveBy → State
  | .gang st j => s.grantGroup st j
  | .reserve st =>
    match ((s.stripMat st).groups.find? (fun g => g.kind = 1 && g.asked)).map (fun g => g.j) with
    | some j => s.grantGroup st j
    | none => s
  | .burst q =>
    match (s.quad q).stageC with
    | x :: rest => s.setQuad q { s.quad q with stageC := { x with granted := true } :: rest }
    | [] => s
  | .copy =>
    match (s.block b).copyq with
    | m :: rest => s.setBlock b { s.block b with copyq := { m with leave := 2 } :: rest }
    | [] => s

/-- The governor grants its oldest request when it fits, or when no leave is held. -/
def execLeaveGrant (block : Nat) (s : State) : Host.Outcome State Fault Refusal :=
  let x := s.block block
  match x.reqs with
  | [] => .next s
  | l :: rest =>
    if x.heldUnits + l.amount ≤ s.budget block ∨ x.held.isEmpty then
      let s := s.setBlock block { x with reqs := rest, held := x.held ++ [l] }
      .next ((s.traceLeave block false l).leaveTo block l.by_)
    else .next s

/-! ### The management bus (R496) -/

/-- The ring supervisor takes its dynamic address, if it has none. -/
def execEntdaa (addr : BitVec 7) (s : State) : Host.Outcome State Fault Refusal :=
  if s.pwr.addr = none then .next (s.setPwr { s.pwr with addr := some addr }) else .next s

/-- The module number in the provisional ID of the I3C target (R496). -/
def State.provisionalId (s : State) : Nat := s.modNo.toNat

/-- What a private read of a management register returns: BOOTSTAT, PWR, TEMP and PCAP; none for FWIN and FWGO, which are only
written (R496). PWR is a measurement (log entry 24). -/
def State.managementRead (s : State) (r : Nat) : Option (BitVec 32) :=
  match r with
  | 0 => some ((s.pwr.code.zeroExtend 32 <<< 8) ||| s.pwr.step.zeroExtend 32)
  | 1 => some (Config.inputPower s.now)
  | 2 => some (s.pwr.temp.zeroExtend 32)
  | 3 => some s.pwr.pcap
  | _ => none

/-- The budget under a power cap (R497). -/
def capBudget (watts : Nat) : Nat := min 58 ((watts - 10300) * 10 / 2684)

/-- A write of PCAP: a value from 12,000 to 26,000 sets every BUDGET; another is ignored. Leave that is held stays. -/
def execPcapWrite (value : BitVec 32) (s : State) : Host.Outcome State Fault Refusal :=
  let n := value.toNat
  if 12000 ≤ n ∧ n ≤ 26000 then
    let s := { s with blocks := s.blocks.map (fun x : Nat × Block => (x.1, { x.2 with budget := none })) }
    .next (s.setPwr { s.pwr with pcap := value, budget := capBudget n })
  else .next s

/-- Firmware image bytes join the staging area, while step 4 is awaited. -/
def execFwin (data : List Byte) (s : State) : Host.Outcome State Fault Refusal :=
  if s.pwr.step = 3 ∧ s.pwr.code = 0 then .next (s.setPwr { s.pwr with staged := s.pwr.staged ++ data }) else .next s

/-- The tick of 10 ms with the hottest sensor, in 1/16 °C: above 105 °C every BUDGET is lowered by 8, again at each tick until the
sensor falls below 100 °C, which restores it. -/
def execThermalThrottleTick (temp : BitVec 16) (s : State) : Host.Outcome State Fault Refusal :=
  let p := s.pwr
  let t := temp.toNat
  let hot := if 1680 < t then p.hot + 1 else if t < 1600 ∨ p.hot = 0 then 0 else p.hot + 1
  .next (s.setPwr { p with temp, hot })

/-! ### Bring-up (R498) -/

/-- What survives without power: the module's number, the fuses with the leaf counter, and the repairs (R455, R484, R485); and the
model's own turns. -/
def State.unpowered (s : State) : State :=
  let v := s.carrier.svc
  let svc : Services := {
    minVersion := v.minVersion, leaf := v.leaf, retired := v.retired, rowMap := v.rowMap, colMap := v.colMap
    spared := v.spared }
  { modNo := s.modNo, cur := s.cur, sched := s.sched, fresh := s.fresh, carrier := { svc, pwr := { on := false } } }

/-- The 48 V supply is lost. -/
def execPowerFailure (s : State) : Host.Outcome State Fault Refusal := .next s.unpowered

/-- The step that has failed, and its code. -/
def State.bootFails (s : State) (code : BitVec 8) : State := s.setPwr { s.pwr with code }
def State.bootStep (s : State) (n : Nat) : State := s.setPwr { s.pwr with step := BitVec.ofNat 4 n }

/-- Two row managers side by side have failed. -/
def adjacent (rows : List Nat) : Bool := rows.any (fun y => rows.contains (y + 1))

/-- A neighbour that has not failed takes the row of each failed manager (R10). -/
def takersOk (xs : List (Nat × Nat)) : Bool :=
  xs.all (fun x => decide (x.1 < 512) && decide (x.2 < 512) && (decide (x.1 + 1 = x.2) || decide (x.2 + 1 = x.1)) &&
    !(xs.map (fun y => y.1)).contains x.2)

/-- 48 V appears, and bring-up runs steps 1 to 3. -/
def execPowerOn (facts : PowerFacts) (s0 : State) : Host.Outcome State Fault Refusal :=
  if s0.pwr.on ∧ (s0.pwr.step ≠ 0 ∨ s0.pwr.code ≠ 0) then .next s0
  else
    let s := s0.unpowered.setPwr {}
    if facts.regulators = false then .next (s.bootFails 0x01)
    else
      let s := s.bootStep 1
      if adjacent (facts.failedManagers.map (fun x => x.1)) then .next (s.bootFails 0x02)
      else if takersOk facts.failedManagers = false then .next s0
      else
        let s := facts.failedManagers.foldl (fun s x => s.setRow x.1 { s.row x.1 with takenBy := some x.2 }) s
        let s := s.bootStep 2
        if facts.failedStacks.contains 0 then .next (s.bootFails 0x03)
        else .next ((s.modSvc (fun v => { v with failedStacks := facts.failedStacks })).bootStep 3)

/-- The key hash, the signature over the header and the body, and the body hash of a firmware image are right (R484). -/
def imageOk (bs : List Byte) : Bool :=
  let key := (bs.drop 64).take 68
  decide (shake256 key = (upto 32).map Config.keyHash) &&
  decide (shake256 (imageBody bs) = part32 bs 24 0) &&
  xmssOk key (bs.drop (132 + imageField bs 16 8)) (bs.take 64 ++ imageBody bs)

/-- The boot ROM accepts the image (R483, R484): its parts are there, the key, the signature and the hash are right, and its
version is at least the fused minimum. -/
def State.imageAccepted (s : State) : Bool :=
  let bs := s.pwr.staged
  decide (imageField bs 0 1 = 1) && decide (bs.length = 64 + 68 + imageField bs 16 8 + 2820) && imageOk bs &&
  decide (s.carrier.svc.minVersion.toNat ≤ imageField bs 8 8)

/-- Step 5: the enabled link ports train, those that do not are reported, and every vault word is written to 0. -/
def State.bootLinks (s : State) (up : List (Nat × Nat)) : State :=
  let s := (upto 32).foldl (fun s p =>
    let x := s.linkPort p
    if x.enabled = false then s
    else
      match up.find? (fun y => y.1 = p) with
      | some y =>
        let x := { x with good := x.ctl.extractLsb' 0 8 &&& ~~~x.failed, peerMod := BitVec.ofNat 10 y.2 }
        if 6 ≤ popCount x.good 8 ∧ y.2 = x.expected then s.setLinkPort p { x with up := true }
        else (s.setLinkPort p x).portDown p
      | none => s.portDown p) s
  { s with
    mem := s.mem.filter (fun x => decide (hbmBase ≤ x.1))
    memPoison := s.memPoison.filter (fun x => decide (hbmBase ≤ 8 * x.1)) }

/-- Steps 4 to 8. -/
def execFwgo (facts : BringUp) (s : State) : Host.Outcome State Fault Refusal :=
  if s.pwr.step ≠ 3 ∨ s.pwr.code ≠ 0 then .next s
  else if s.imageAccepted = false then .next (s.bootFails 0x04)
  else
    let version := ofNat (imageField s.pwr.staged 8 8)
    let s := (s.modSvc (fun v => { v with version, firmware := s.pwr.staged })).bootStep 4
    let s := (s.bootLinks facts.portsUp).bootStep 5
    let s := s.modSvc (fun v => { v with retired := facts.failedCells.foldl (fun m k => m.put k true) v.retired })
    if facts.failedCells.any (fun k => decide (510 ≤ xOf k)) then .next (s.bootFails 0x06)
    else
      let s := { s.bootStep 6 with stampAt := some s.now }
      if facts.serviceOk = false then .next (s.bootFails 0x07)
      else
        let s := (s.modSvc (fun v => { v with running := true })).bootStep 7
        let s := (facts.hostX8.take 4).zipIdx.foldl (fun s x => s.trainHost x.2 x.1) s
        .next (s.bootStep 8)

end Sys2Proof.Machine
end

