-- ==== Sys2Proof/Machine/Services.lean ====
section
/-! DEFINITION. The functions of the network and log services (R401, R402, R471, R474, R475), and FWMIN and ATTEST of the loader
(R484 to R486). -/

namespace Sys2Proof.Machine

open Sys2Proof

/-! ### Network: service 3 -/

/-- PORTSTAT (R471). -/
def execPortstat (call : CallId) (s : State) : Host.Outcome State Fault Refusal :=
  serve call 3 0 false (fun v => decide (v.toNat < 32))
    (fun s x =>
      let p := s.linkPort (uns x.arg)
      .reply s 0 (at_ p.peerMod.toNat 9 ||| at_ (b2n p.up) 8 ||| p.good.zeroExtend 64)) s

/-- TOPO (R471). -/
def execTopo (call : CallId) (s : State) : Host.Outcome State Fault Refusal :=
  serve call 3 1 false (fun v => v = 0)
    (fun s _ => .reply s 0 (at_ (Config.systemModules % 2 ^ 10) 10 ||| s.modNo.zeroExtend 64)) s

/-- A route image (R475): the modules, the planes, and the words of its tables. -/
structure RouteImage where
  mods : Nat
  planes : List Nat
  words : List Word

/-- The entry for destination k in module m's table of plane q. -/
def RouteImage.entry (r : RouteImage) (q m k : Nat) : Nat :=
  let i := ((r.planes.findIdx (· = q)) * r.mods + m) * 128 + k / 8
  field (r.words.getD i 0) (8 * (k % 8)) 8

/-- The module that an entry leads to (R403): of this module by its LP.PEER. -/
def State.peerOf (s : State) (q m : Nat) (e : Nat) : Nat :=
  if m = s.modNo.toNat then (s.linkPort (8 * q + e % 8)).expected else Config.farPeer m (8 * q + e % 8)

/-- From module m the entries lead to destination k within n hops, and visit no module twice. -/
def State.leads (s : State) (r : RouteImage) (q k : Nat) : Nat → List Nat → Nat → Bool
  | 0, _, m => m = k
  | n + 1, seen, m =>
    if m = k then true
    else
      let e := r.entry q m k
      let next := s.peerOf q m e
      decide (8 ≤ e) && decide (next < r.mods) && !(m :: seen).contains next && s.leads r q k n (m :: seen) next

/-- The checks of R475 on the tables: entries are at most 15, none beyond the system and none for the module itself, and every
valid entry leads to its destination. -/
def State.routesOk (s : State) (r : RouteImage) : Bool :=
  r.planes.all (fun q => (upto r.mods).all (fun m => (upto 1024).all (fun k =>
    let e := r.entry q m k
    decide (e < 16) && (decide (e < 8) || s.leads r q k 30 [] m) && (e = 0 || (k ≠ m && decide (k < r.mods))))))

/-- Word 0 of a route image (R475). -/
def routeHead (mods : Nat) (w : Word) : Bool :=
  field w 56 8 = 1 && field w 46 10 + 1 = mods && field w 40 4 ≠ 0 && field w 44 2 = 0 && field w 0 40 = 0

/-- The table of this module for plane q takes the image's entries in the copy that is free, and the plane switches. TIDX and
TDATA stand as the writes leave them (R402, R403, R475). -/
def State.installRoutes (s : State) (r : RouteImage) (q : Nat) : State :=
  let y := s.plane q
  let copy := !y.act
  let ent (k : Nat) : BitVec 4 := BitVec.ofNat 4 (r.entry q s.modNo.toNat k)
  let s := s.setPlane q { y with table := (upto 1024).foldl (fun t k => SMap.put t (1024 * b2n copy + k) (ent k)) y.table }
  let x := s.linkPort (8 * q)
  let s := s.setLinkPort (8 * q) { x with
    tidx := BitVec.ofNat 32 (2048 * b2n copy), tdata := (ent 1023).zeroExtend 32 }
  s.switchPlane q copy

/-- ROUTES (R475): the image is checked before anything changes; then, plane by plane, the free copy is written once it has
drained, and the plane switches. What the other modules do is outside (log entry 3). -/
def execRoutes (call : CallId) (s : State) : Host.Outcome State Fault Refusal :=
  serve call 3 2 true blockArg
    (fun s x =>
      let va := uns x.arg
      s.withRecord call x.auth va 1 fun
      | some [w] =>
        if routeHead Config.systemModules w = false then .reply s svArg 0
        else
          let planes := bitsOf (w.extractLsb' 40 4) 4
          s.withRecord call x.auth (va + 8) (planes.length * Config.systemModules * 128) fun
          | none => .reply s svRecord 0
          | some ws =>
            let r : RouteImage := ⟨Config.systemModules, planes, ws⟩
            let at' := ((s.carrier.svc.routing.find? (fun y => y.1 = call)).map (fun y => y.2))
            if at' = none ∧ s.routesOk r = false then .reply s svArg 0
            else
              let drop (v : Services) : Services := { v with routing := v.routing.filter (fun y => y.1 ≠ call) }
              match planes.filter (fun q => decide (at'.getD 0 ≤ q)) with
              | [] => .reply (s.modSvc drop) 0 0
              | q :: rest =>
                if s.drained q (!(s.plane q).act) = false then
                  .later (s.modSvc (fun v => { drop v with routing := (call, q) :: (drop v).routing }))
                else
                  let s := s.installRoutes r q
                  if rest.isEmpty then .reply (s.modSvc drop) 0 0
                  else .later (s.modSvc (fun v => { drop v with routing := (call, q + 1) :: (drop v).routing }))
      | _ => .reply s svRecord 0) s

/-! ### Log: service 4 (R474) -/

/-- The domain's log. -/
def Services.log (v : Services) (d : BitVec 12) : Log := SMap.get {} v.logs d.toNat

/-- A record joins the domain's log. -/
def Log.add (l : Log) (r : LogRec) : Log :=
  { count := l.count + 1, recs := (l.recs ++ [r]).drop (l.recs.length + 1 - 2 ^ 20) }

/-- A record goes to outbound queue 14 of host port 0 as two words, if that ring is enabled. How a record is laid out in them is
not in the spec: free values (log entry 17). -/
def State.deliverRecord (s : State) (d : BitVec 12) : State :=
  let h := s.host 0
  if (SMap.get ({} : HostRing) h.rings 14).size = 0 then s
  else
    let h := { h with
      replies := h.replies ++ [(14, Config.freeWord s.fresh, replySide h.logSeq false, d),
        (14, Config.freeWord (s.fresh + 1), replySide (h.logSeq + 1) true, d)]
      logSeq := h.logSeq + 2 }
    { s.setHost 0 h with fresh := s.fresh + 2 }

/-- WRITE (R471, R474): the reply is the number of the record, from 0. -/
def execLogWrite (call : CallId) (s : State) : Host.Outcome State Fault Refusal :=
  serve call 4 0 false (fun _ => true)
    (fun s x =>
      let l := s.carrier.svc.log x.dom
      let r : LogRec := ⟨((s.cell x.cell).clk s.now).toNat, x.cell, x.dtag, x.arg⟩
      let s := s.modSvc (fun v => { v with logs := SMap.put v.logs x.dom.toNat (l.add r) })
      .reply (s.deliverRecord x.dom) 0 (ofNat l.count)) s

/-- FLUSH (R471): every record of the domain has been delivered. -/
def execLogFlush (call : CallId) (s : State) : Host.Outcome State Fault Refusal :=
  serve call 4 1 false (fun v => v = 0)
    (fun s x =>
      if (s.host 0).replies.any (fun y => y.1 = 14 && y.2.2.2 = x.dom) then .later s else .reply s 0 0) s

/-! ### Firmware and attestation: service 2 (R484 to R486) -/

/-- FWMIN (R484). -/
def execFwmin (call : CallId) (s : State) : Host.Outcome State Fault Refusal :=
  serve call 2 6 true (fun _ => true)
    (fun s x =>
      let v := s.carrier.svc
      if uns x.arg < uns v.minVersion ∨ uns v.version < uns x.arg then .reply s svArg 0
      else .reply (s.modSvc (fun v => { v with minVersion := x.arg })) 0 0) s

/-- The words of a quote for one domain (R486). -/
def State.quoteDomain (s : State) (d : BitVec 12) : List Word :=
  match s.carrier.svc.graphs.find? (fun g => g.2.dom = d && !g.2.marked && !g.2.torn) with
  | some (n, g) =>
    [at_ n 32 ||| d.zeroExtend 64, g.serial.zeroExtend 64] ++ digestWords (Config.imageBytes g.img ++ wordBytes g.block)
  | none => [d.zeroExtend 64, 0, 0, 0, 0, 0]

/-- M0 to M2: the boot ROM, the running firmware image and the service graph image (R486). -/
def State.measurements (s : State) : List Word :=
  let bs := s.carrier.svc.firmware
  digestWords ((upto 0x10000).map Config.bootRom) ++ digestWords bs ++ digestWords (Config.serviceImage (imageBody bs))

/-- The body of a quote: the header, the measurements and the domains. -/
def State.quote (s : State) (req : List Word) (leaf : Nat) : List Word :=
  let n := field (req.getD 0 0) 0 7
  [at_ 1 56 ||| at_ s.modNo.toNat 32 ||| ofNat leaf, ofNat n] ++ (req.drop 1).take 4 ++
    s.measurements ++
    ((req.drop 6).take n).flatMap (fun w => s.quoteDomain (w.extractLsb' 0 12))

/-- The 2,820 bytes of a signature at va: 352 words and 4 bytes (R483). -/
def State.writeSignature (s : State) (dom : BitVec 12) (va leaf : Nat) (body : List Word) : State :=
  let sig := identitySign leaf (wordBytes body)
  let b (j : Nat) : Byte := sig.getD j 0
  let s := (upto 352).foldl (fun s j => s.writeRecord dom (va + 8 * j) (bytesWord ((upto 8).map (fun i => b (8 * j + i))))) s
  s.putBytes dom (va + 2816) 4 (bytesWord ((upto 4).map (fun i => b (2816 + i))))

/-- The fixed words of an attestation request (R486). -/
def requestOk (req : List Word) : Bool :=
  let w0 := req.getD 0 0
  field w0 56 8 = 1 && field w0 7 49 = 0 && decide (field w0 0 7 ≤ 64) && field (req.getD 5 0) 57 7 = 0 &&
  field (req.getD 5 0) 0 57 % 8 = 0

/-- ATTEST (R485, R486): the leaf counter advances before the signature is made. -/
def execAttest (call : CallId) (s : State) : Host.Outcome State Fault Refusal :=
  serve call 2 7 true blockArg
    (fun s x =>
      let va := uns x.arg
      s.withRecord call x.auth va 6 fun
      | none => .reply s svRecord 0
      | some fixed =>
        if requestOk fixed = false then .reply s svArg 0
        else
          let n := field (fixed.getD 0 0) 0 7
          s.withRecord call x.auth va (6 + n) fun
          | none => .reply s svRecord 0
          | some req =>
            let leaf := s.carrier.svc.leaf
            if (req.drop 6).any (fun w => field w 12 52 ≠ 0) then .reply s svArg 0
            else if 2 ^ 20 ≤ leaf then .reply s svExhaust 0
            else
              let s := s.modSvc (fun v => { v with leaf := leaf + 1 })
              let body := s.quote req leaf
              let q := field (req.getD 5 0) 0 57
              let s := (s.writeRecords x.auth q body).writeSignature x.auth (q + 8 * body.length) leaf body
              .reply s 0 (ofNat (8 * (18 + 6 * n) + 2820))) s

end Sys2Proof.Machine
end

