-- ==== Sys2Proof/Machine/Dispatch.lean ====
section
/-! DEFINITION. One arm for each operation: a call of its meaning. -/

namespace Sys2Proof.Machine

def exec (i : Instr) (s : State) : Host.Outcome State Fault Refusal :=
  match i with
  | .nop h f => Sys2Proof.Machine.execNop h f s
  | .add h f => Sys2Proof.Machine.execAdd h f s
  | .sub h f => Sys2Proof.Machine.execSub h f s
  | .adds h f => Sys2Proof.Machine.execAdds h f s
  | .mul h f => Sys2Proof.Machine.execMul h f s
  | .mulh h f => Sys2Proof.Machine.execMulh h f s
  | .mulhn h f => Sys2Proof.Machine.execMulhn h f s
  | .div h f => Sys2Proof.Machine.execDiv h f s
  | .divn h f => Sys2Proof.Machine.execDivn h f s
  | .rem h f => Sys2Proof.Machine.execRem h f s
  | .remn h f => Sys2Proof.Machine.execRemn h f s
  | .andR h f => Sys2Proof.Machine.execAndR h f s
  | .orR h f => Sys2Proof.Machine.execOrR h f s
  | .xorR h f => Sys2Proof.Machine.execXorR h f s
  | .shl h f => Sys2Proof.Machine.execShl h f s
  | .shr h f => Sys2Proof.Machine.execShr h f s
  | .sra h f => Sys2Proof.Machine.execSra h f s
  | .rotl h f => Sys2Proof.Machine.execRotl h f s
  | .clz h f => Sys2Proof.Machine.execClz h f s
  | .popc h f => Sys2Proof.Machine.execPopc h f s
  | .min h f => Sys2Proof.Machine.execMin h f s
  | .max h f => Sys2Proof.Machine.execMax h f s
  | .minn h f => Sys2Proof.Machine.execMinn h f s
  | .maxn h f => Sys2Proof.Machine.execMaxn h f s
  | .ceq h f => Sys2Proof.Machine.execCeq h f s
  | .clt h f => Sys2Proof.Machine.execClt h f s
  | .cltn h f => Sys2Proof.Machine.execCltn h f s
  | .sel h f => Sys2Proof.Machine.execSel h f s
  | .modw h f => Sys2Proof.Machine.execModw h f s
  | .addi h f => Sys2Proof.Machine.execAddi h f s
  | .andi h f => Sys2Proof.Machine.execAndi h f s
  | .ori h f => Sys2Proof.Machine.execOri h f s
  | .xori h f => Sys2Proof.Machine.execXori h f s
  | .shli h f => Sys2Proof.Machine.execShli h f s
  | .shri h f => Sys2Proof.Machine.execShri h f s
  | .srai h f => Sys2Proof.Machine.execSrai h f s
  | .movi h f => Sys2Proof.Machine.execMovi h f s
  | .movhi h f => Sys2Proof.Machine.execMovhi h f s
  | .lea h f => Sys2Proof.Machine.execLea h f s
  | .br h f => Sys2Proof.Machine.execBr h f s
  | .bz h f => Sys2Proof.Machine.execBz h f s
  | .bnz h f => Sys2Proof.Machine.execBnz h f s
  | .blz h f => Sys2Proof.Machine.execBlz h f s
  | .bgez h f => Sys2Proof.Machine.execBgez h f s
  | .call h f => Sys2Proof.Machine.execCall h f s
  | .ret h f => Sys2Proof.Machine.execRet h f s
  | .loopn h f => Sys2Proof.Machine.execLoopn h f s
  | .ldl h f => Sys2Proof.Machine.execLdl h f s
  | .stl h f => Sys2Proof.Machine.execStl h f s
  | .svc h f => Sys2Proof.Machine.execSvc h f s
  | .trap h f => Sys2Proof.Machine.execTrap h f s
  | .brk h f => Sys2Proof.Machine.execBrk h f s
  | .rettRetry h f => Sys2Proof.Machine.execRettRetry h f s
  | .rettNext h f => Sys2Proof.Machine.execRettNext h f s
  | .rettRedo h f => Sys2Proof.Machine.execRettRedo h f s
  | .rettEnd h f => Sys2Proof.Machine.execRettEnd h f s
  | .done h f => Sys2Proof.Machine.execDone h f s
  | .rdsys h f => Sys2Proof.Machine.execRdsys h f s
  | .wrsys h f => Sys2Proof.Machine.execWrsys h f s
  | .pop h f => Sys2Proof.Machine.execPop h f s
  | .peek h f => Sys2Proof.Machine.execPeek h f s
  | .push h f => Sys2Proof.Machine.execPush h f s
  | .pushl h f => Sys2Proof.Machine.execPushl h f s
  | .popl h f => Sys2Proof.Machine.execPopl h f s
  | .qlen h f => Sys2Proof.Machine.execQlen h f s
  | .qroom h f => Sys2Proof.Machine.execQroom h f s
  | .qseq h f => Sys2Proof.Machine.execQseq h f s
  | .qbind h f => Sys2Proof.Machine.execQbind h f s
  | .qtagOut h f => Sys2Proof.Machine.execQtagOut h f s
  | .qtagIn h f => Sys2Proof.Machine.execQtagIn h f s
  | .qstk h f => Sys2Proof.Machine.execQstk h f s
  | .qskip h f => Sys2Proof.Machine.execQskip h f s
  | .qwaitn h f => Sys2Proof.Machine.execQwaitn h f s
  | .qdiv h f => Sys2Proof.Machine.execQdiv h f s
  | .qsleep h f => Sys2Proof.Machine.execQsleep h f s
  | .qmark h f => Sys2Proof.Machine.execQmark h f s
  | .qflush h f => Sys2Proof.Machine.execQflush h f s
  | .ccfgLim h f => Sys2Proof.Machine.execCcfgLim h f s
  | .ccfgMode h f => Sys2Proof.Machine.execCcfgMode h f s
  | .cstart h f => Sys2Proof.Machine.execCstart h f s
  | .cstop h f => Sys2Proof.Machine.execCstop h f s
  | .cread h f => Sys2Proof.Machine.execCread h f s
  | .rngrd h f => Sys2Proof.Machine.execRngrd h f s
  | .cpy h f => Sys2Proof.Machine.execCpy h f s
  | .cpys h f => Sys2Proof.Machine.execCpys h f s
  | .cpyg h f => Sys2Proof.Machine.execCpyg h f s
  | .cpyd h f => Sys2Proof.Machine.execCpyd h f s
  | .eagcfgW h f => Sys2Proof.Machine.execEagcfgW h f s
  | .eagcfgR h f => Sys2Proof.Machine.execEagcfgR h f s
  | .eaggoStart h f => Sys2Proof.Machine.execEaggoStart h f s
  | .eaggoResume h f => Sys2Proof.Machine.execEaggoResume h f s
  | .eaggoStop h f => Sys2Proof.Machine.execEaggoStop h f s
  | .sinc h f => Sys2Proof.Machine.execSinc h f s
  | .sset h f => Sys2Proof.Machine.execSset h f s
  | .srd h f => Sys2Proof.Machine.execSrd h f s
  | .swait h f => Sys2Proof.Machine.execSwait h f s
  | .swaitd h f => Sys2Proof.Machine.execSwaitd h f s
  | .ldg h f => Sys2Proof.Machine.execLdg h f s
  | .stg h f => Sys2Proof.Machine.execStg h f s
  | .ldf h f => Sys2Proof.Machine.execLdf h f s
  | .stf h f => Sys2Proof.Machine.execStf h f s
  | .clrf h f => Sys2Proof.Machine.execClrf h f s
  | .ald h f => Sys2Proof.Machine.execAld h f s
  | .aadd h f => Sys2Proof.Machine.execAadd h f s
  | .afadd h f => Sys2Proof.Machine.execAfadd h f s
  | .amin h f => Sys2Proof.Machine.execAmin h f s
  | .amax h f => Sys2Proof.Machine.execAmax h f s
  | .axchg h f => Sys2Proof.Machine.execAxchg h f s
  | .acas h f => Sys2Proof.Machine.execAcas h f s
  | .aor h f => Sys2Proof.Machine.execAor h f s
  | .aand h f => Sys2Proof.Machine.execAand h f s
  | .fence h f => Sys2Proof.Machine.execFence h f s
  | .evarr h f => Sys2Proof.Machine.execEvarr h f s
  | .evwaitB h f => Sys2Proof.Machine.execEvwaitB h f s
  | .evwaitE h f => Sys2Proof.Machine.execEvwaitE h f s
  | .evsig h f => Sys2Proof.Machine.execEvsig h f s
  | .evlock h f => Sys2Proof.Machine.execEvlock h f s
  | .evunlk h f => Sys2Proof.Machine.execEvunlk h f s
  | .evcmb h f => Sys2Proof.Machine.execEvcmb h f s
  | .vadd h f => Sys2Proof.Machine.execVadd h f s
  | .vsub h f => Sys2Proof.Machine.execVsub h f s
  | .vmul h f => Sys2Proof.Machine.execVmul h f s
  | .vfma h f => Sys2Proof.Machine.execVfma h f s
  | .vfms h f => Sys2Proof.Machine.execVfms h f s
  | .vdiv h f => Sys2Proof.Machine.execVdiv h f s
  | .vsqrt h f => Sys2Proof.Machine.execVsqrt h f s
  | .vrcp h f => Sys2Proof.Machine.execVrcp h f s
  | .vexp2 h f => Sys2Proof.Machine.execVexp2 h f s
  | .vsig h f => Sys2Proof.Machine.execVsig h f s
  | .vmin h f => Sys2Proof.Machine.execVmin h f s
  | .vmax h f => Sys2Proof.Machine.execVmax h f s
  | .vabs h f => Sys2Proof.Machine.execVabs h f s
  | .vneg h f => Sys2Proof.Machine.execVneg h f s
  | .vcmp h f => Sys2Proof.Machine.execVcmp h f s
  | .vsel h f => Sys2Proof.Machine.execVsel h f s
  | .vand h f => Sys2Proof.Machine.execVand h f s
  | .vor h f => Sys2Proof.Machine.execVor h f s
  | .vxor h f => Sys2Proof.Machine.execVxor h f s
  | .vshl h f => Sys2Proof.Machine.execVshl h f s
  | .vshr h f => Sys2Proof.Machine.execVshr h f s
  | .vsra h f => Sys2Proof.Machine.execVsra h f s
  | .vcvt h f => Sys2Proof.Machine.execVcvt h f s
  | .vsdc h f => Sys2Proof.Machine.execVsdc h f s
  | .vsde h f => Sys2Proof.Machine.execVsde h f s
  | .vsdd h f => Sys2Proof.Machine.execVsdd h f s
  | .vldl h f => Sys2Proof.Machine.execVldl h f s
  | .vstl h f => Sys2Proof.Machine.execVstl h f s
  | .vgath h f => Sys2Proof.Machine.execVgath h f s
  | .vscat h f => Sys2Proof.Machine.execVscat h f s
  | .vbcast h f => Sys2Proof.Machine.execVbcast h f s
  | .vext h f => Sys2Proof.Machine.execVext h f s
  | .vred h f => Sys2Proof.Machine.execVred h f s
  | .vscan h f => Sys2Proof.Machine.execVscan h f s
  | .vperm h f => Sys2Proof.Machine.execVperm h f s
  | .viota h f => Sys2Proof.Machine.execViota h f s
  | .viotaCnt h f => Sys2Proof.Machine.execViotaCnt h f s
  | .vsetl h f => Sys2Proof.Machine.execVsetl h f s
  | .vmovp h f => Sys2Proof.Machine.execVmovp h f s
  | .vmovpRd h f => Sys2Proof.Machine.execVmovpRd h f s
  | .vmovpWr h f => Sys2Proof.Machine.execVmovpWr h f s
  | .vpopq h f => Sys2Proof.Machine.execVpopq h f s
  | .vpushq h f => Sys2Proof.Machine.execVpushq h f s
  | .pori2 h f => Sys2Proof.Machine.execPori2 h f s
  | .pori3 h f => Sys2Proof.Machine.execPori3 h f s
  | .pinci h f => Sys2Proof.Machine.execPinci h f s
  | .pinsp h f => Sys2Proof.Machine.execPinsp h f s
  | .psegx h f => Sys2Proof.Machine.execPsegx h f s
  | .pstat h f => Sys2Proof.Machine.execPstat h f s
  | .mgang h f => Sys2Proof.Machine.execMgang h f s
  | .mread h f => Sys2Proof.Machine.execMread h f s
  | .mclr h f => Sys2Proof.Machine.execMclr h f s
  | .mscl h f => Sys2Proof.Machine.execMscl h f s
  | .msclRd h f => Sys2Proof.Machine.execMsclRd h f s
  | .mstat h f => Sys2Proof.Machine.execMstat h f s
  | .mfill h f => Sys2Proof.Machine.execMfill h f s
  | .mcut h f => Sys2Proof.Machine.execMcut h f s
  | .mcutOff h f => Sys2Proof.Machine.execMcutOff h f s
  | .mswap h f => Sys2Proof.Machine.execMswap h f s
  | .mleaveRsv h f => Sys2Proof.Machine.execMleaveRsv h f s
  | .mleaveRel h f => Sys2Proof.Machine.execMleaveRel h f s
  | .msync h f => Sys2Proof.Machine.execMsync h f s
  | .xpost h f => Sys2Proof.Machine.execXpost h f s
  | .xgrant h f => Sys2Proof.Machine.execXgrant h f s
  | .xsend h f => Sys2Proof.Machine.execXsend h f s
  | .xdone h f => Sys2Proof.Machine.execXdone h f s
  | .xstat h f => Sys2Proof.Machine.execXstat h f s
  | .qfwd h f => Sys2Proof.Machine.execQfwd h f s
  | .parkCut h f => Sys2Proof.Machine.execParkCut h f s
  | .parkSelf h f => Sys2Proof.Machine.execParkSelf h f s
  | .reinj h f => Sys2Proof.Machine.execReinj h f s
  | .ptestDom h f => Sys2Proof.Machine.execPtestDom h f s
  | .ptestCell h f => Sys2Proof.Machine.execPtestCell h f s
  | .wdogSet h f => Sys2Proof.Machine.execWdogSet h f s
  | .wdogOff h f => Sys2Proof.Machine.execWdogOff h f s
  | .write m offset field value => Sys2Proof.Machine.execWrite m offset field value s
  | .base m space element => Sys2Proof.Machine.execBase m space element s
  | .wide m offset field value => Sys2Proof.Machine.execWide m offset field value s
  | .start m offset => Sys2Proof.Machine.execStart m offset s
  | .istore m offset index data => Sys2Proof.Machine.execIstore m offset index data s
  | .lstore m offset word data => Sys2Proof.Machine.execLstore m offset word data s
  | .cfgReservedCommand m w => Sys2Proof.Machine.execCfgReservedCommand m w s
  | .mark m offset value => Sys2Proof.Machine.execMark m offset value s
  | .clrerr m offset value => Sys2Proof.Machine.execClrerr m offset value s
  | .unassignedOpcode w => Sys2Proof.Machine.execUnassignedOpcode w s
  | .mdlsel data => Sys2Proof.Machine.execMdlsel data s
  | .mdllanes on => Sys2Proof.Machine.execMdllanes on s
  | .loadStart serial => Sys2Proof.Machine.execLoadStart serial s
  | .loadMark serial => Sys2Proof.Machine.execLoadMark serial s
  | .phaseReturn cell => Sys2Proof.Machine.execPhaseReturn cell s
  | .borrowRequest cell => Sys2Proof.Machine.execBorrowRequest cell s
  | .borrowGrantDeferred root => Sys2Proof.Machine.execBorrowGrantDeferred root s
  | .taskDispatch cell => Sys2Proof.Machine.execTaskDispatch cell s
  | .priorityAging cell => Sys2Proof.Machine.execPriorityAging cell s
  | .taskWake cell => Sys2Proof.Machine.execTaskWake cell s
  | .watchdogSleepLimit cell => Sys2Proof.Machine.execWatchdogSleepLimit cell s
  | .istoreFetchError cell => Sys2Proof.Machine.execIstoreFetchError cell s
  | .svcReply cell k => Sys2Proof.Machine.execSvcReply cell k s
  | .counterChainEmit cell => Sys2Proof.Machine.execCounterChainEmit cell s
  | .queueMessageArrival src => Sys2Proof.Machine.execQueueMessageArrival src s
  | .queueMessageStoreDeferred cell port => Sys2Proof.Machine.execQueueMessageStoreDeferred cell port s
  | .quiesceArrival src => Sys2Proof.Machine.execQuiesceArrival src s
  | .wordAck cell => Sys2Proof.Machine.execWordAck cell s
  | .wordNack cell => Sys2Proof.Machine.execWordNack cell s
  | .suspendedResend src => Sys2Proof.Machine.execSuspendedResend src s
  | .laggardTimeout cell port => Sys2Proof.Machine.execLaggardTimeout cell port s
  | .copyStart block => Sys2Proof.Machine.execCopyStart block s
  | .copyCompletion block k => Sys2Proof.Machine.execCopyCompletion block k s
  | .eagElementCommit eag => Sys2Proof.Machine.execEagElementCommit eag s
  | .tileRead cell k => Sys2Proof.Machine.execTileRead cell k s
  | .tileWrite src => Sys2Proof.Machine.execTileWrite src s
  | .tileFill cell k => Sys2Proof.Machine.execTileFill cell k s
  | .tileClrf cell k => Sys2Proof.Machine.execTileClrf cell k s
  | .tileAtomic cell k => Sys2Proof.Machine.execTileAtomic cell k s
  | .deferredReadRetry cell k => Sys2Proof.Machine.execDeferredReadRetry cell k s
  | .accessReply cell k => Sys2Proof.Machine.execAccessReply cell k s
  | .combineFlushTimeout block => Sys2Proof.Machine.execCombineFlushTimeout block s
  | .parityRebuildDone grp => Sys2Proof.Machine.execParityRebuildDone grp s
  | .backgroundScrub grp row => Sys2Proof.Machine.execBackgroundScrub grp row s
  | .translationMissRequest cell => Sys2Proof.Machine.execTranslationMissRequest cell s
  | .translationFill pager => Sys2Proof.Machine.execTranslationFill pager s
  | .translationInvalidate cache va len dom => Sys2Proof.Machine.execTranslationInvalidate cache va len dom s
  | .invalidateAck cache => Sys2Proof.Machine.execInvalidateAck cache s
  | .hostMemRequest port req => Sys2Proof.Machine.execHostMemRequest port req s
  | .ownershipToHost region => Sys2Proof.Machine.execOwnershipToHost region s
  | .backInvalidateComplete region dirty => Sys2Proof.Machine.execBackInvalidateComplete region dirty s
  | .ownerHoldExpiry region => Sys2Proof.Machine.execOwnerHoldExpiry region s
  | .eventApply strip => Sys2Proof.Machine.execEventApply strip s
  | .eventUpMessage strip => Sys2Proof.Machine.execEventUpMessage strip s
  | .eventDownMessage strip => Sys2Proof.Machine.execEventDownMessage strip s
  | .eventParentFire strip => Sys2Proof.Machine.execEventParentFire strip s
  | .vectorPortStart cell => Sys2Proof.Machine.execVectorPortStart cell s
  | .vectorCompletion cell k => Sys2Proof.Machine.execVectorCompletion cell k s
  | .predicateReadPhase cell => Sys2Proof.Machine.execPredicateReadPhase cell s
  | .predicateHandoff cell seq => Sys2Proof.Machine.execPredicateHandoff cell seq s
  | .stageBSettle quad k rf => Sys2Proof.Machine.execStageBSettle quad k rf s
  | .stageCBurstStart quad => Sys2Proof.Machine.execStageCBurstStart quad s
  | .stageCLaneSettle quad rf => Sys2Proof.Machine.execStageCLaneSettle quad rf s
  | .predicateCompletion cell k => Sys2Proof.Machine.execPredicateCompletion cell k s
  | .groupFormation strip => Sys2Proof.Machine.execGroupFormation strip s
  | .gangLeaveRequest strip => Sys2Proof.Machine.execGangLeaveRequest strip s
  | .gangStart strip => Sys2Proof.Machine.execGangStart strip s
  | .gangCompletion strip k rf => Sys2Proof.Machine.execGangCompletion strip k rf s
  | .matrixTransferComplete cell k => Sys2Proof.Machine.execMatrixTransferComplete cell k s
  | .xaPostArrival grp part => Sys2Proof.Machine.execXaPostArrival grp part s
  | .xpostAck grp part => Sys2Proof.Machine.execXpostAck grp part s
  | .roundDeadline grp => Sys2Proof.Machine.execRoundDeadline grp s
  | .calendarWrite grp part => Sys2Proof.Machine.execCalendarWrite grp part s
  | .exchangePhaseStart grp => Sys2Proof.Machine.execExchangePhaseStart grp s
  | .exchangePairEnd grp sender => Sys2Proof.Machine.execExchangePairEnd grp sender s
  | .xdoneComplete grp part => Sys2Proof.Machine.execXdoneComplete grp part s
  | .xaHeartbeat grp => Sys2Proof.Machine.execXaHeartbeat grp s
  | .xaStandbyTakeover grp => Sys2Proof.Machine.execXaStandbyTakeover grp s
  | .linkTrain port peer lanes => Sys2Proof.Machine.execLinkTrain port peer lanes s
  | .flitReceive port flit => Sys2Proof.Machine.execFlitReceive port flit s
  | .linkReplayRequest port fseq => Sys2Proof.Machine.execLinkReplayRequest port fseq s
  | .packetDelivery srcModule vc op => Sys2Proof.Machine.execPacketDelivery srcModule vc op s
  | .packetAck dstModule vc => Sys2Proof.Machine.execPacketAck dstModule vc s
  | .routeSwitch plane act => Sys2Proof.Machine.execRouteSwitch plane act s
  | .routeTableWrite plane value => Sys2Proof.Machine.execRouteTableWrite plane value s
  | .cutParkComplete cell => Sys2Proof.Machine.execCutParkComplete cell s
  | .rmWatchdogExpiry cell => Sys2Proof.Machine.execRmWatchdogExpiry cell s
  | .cctlPark cell => Sys2Proof.Machine.execCctlPark cell s
  | .rmParkEffect cell => Sys2Proof.Machine.execRmParkEffect cell s
  | .cctlResume cell rpl => Sys2Proof.Machine.execCctlResume cell rpl s
  | .cctlAbort cell => Sys2Proof.Machine.execCctlAbort cell s
  | .oraReattach cell port mask => Sys2Proof.Machine.execOraReattach cell port mask s
  | .rmWindowWrite row addr data => Sys2Proof.Machine.execRmWindowWrite row addr data s
  | .faultQueuePop row => Sys2Proof.Machine.execFaultQueuePop row s
  | .mtstatReadClear block => Sys2Proof.Machine.execMtstatReadClear block s
  | .sinkReplay cell => Sys2Proof.Machine.execSinkReplay cell s
  | .sharedControlError unit => Sys2Proof.Machine.execSharedControlError unit s
  | .heartbeatTick row => Sys2Proof.Machine.execHeartbeatTick row s
  | .rowManagerTakeover row next => Sys2Proof.Machine.execRowManagerTakeover row next s
  | .gateForward call => Sys2Proof.Machine.execGateForward call s
  | .serviceBadFunc call => Sys2Proof.Machine.execServiceBadFunc call s
  | .alloc call choice => Sys2Proof.Machine.execAlloc call choice s
  | .free call => Sys2Proof.Machine.execFree call s
  | .avail call => Sys2Proof.Machine.execAvail call s
  | .prot call => Sys2Proof.Machine.execProt call s
  | .migrate call pa => Sys2Proof.Machine.execMigrate call pa s
  | .entry call => Sys2Proof.Machine.execEntry call s
  | .load call img pl => Sys2Proof.Machine.execLoad call img pl s
  | .wait call => Sys2Proof.Machine.execWait call s
  | .cut call spills => Sys2Proof.Machine.execCut call spills s
  | .resume call pl => Sys2Proof.Machine.execResume call pl s
  | .kill call => Sys2Proof.Machine.execKill call s
  | .replace call spills img pl => Sys2Proof.Machine.execReplace call spills img pl s
  | .fwmin call => Sys2Proof.Machine.execFwmin call s
  | .attest call => Sys2Proof.Machine.execAttest call s
  | .portstat call => Sys2Proof.Machine.execPortstat call s
  | .topo call => Sys2Proof.Machine.execTopo call s
  | .routes call => Sys2Proof.Machine.execRoutes call s
  | .logWrite call => Sys2Proof.Machine.execLogWrite call s
  | .logFlush call => Sys2Proof.Machine.execLogFlush call s
  | .hostDoorbell port queue tag data => Sys2Proof.Machine.execHostDoorbell port queue tag data s
  | .doorbellPush port queue => Sys2Proof.Machine.execDoorbellPush port queue s
  | .iqStatClear port queue data => Sys2Proof.Machine.execIqStatClear port queue data s
  | .hostRingWrite port queue src => Sys2Proof.Machine.execHostRingWrite port queue src s
  | .hostBarWrite port addr size data => Sys2Proof.Machine.execHostBarWrite port addr size data s
  | .hostPortTrain port x8 => Sys2Proof.Machine.execHostPortTrain port x8 s
  | .freezePin => Sys2Proof.Machine.execFreezePin s
  | .mdlctlFreeze row => Sys2Proof.Machine.execMdlctlFreeze row s
  | .freezeStop => Sys2Proof.Machine.execFreezeStop s
  | .frozenNotice port => Sys2Proof.Machine.execFrozenNotice port s
  | .thawedNotice port => Sys2Proof.Machine.execThawedNotice port s
  | .extest => Sys2Proof.Machine.execExtest s
  | .idcode => Sys2Proof.Machine.execIdcode s
  | .samplePreload => Sys2Proof.Machine.execSamplePreload s
  | .mdlread => Sys2Proof.Machine.execMdlread s
  | .mdlresume => Sys2Proof.Machine.execMdlresume s
  | .bypass => Sys2Proof.Machine.execBypass s
  | .pcSample cell => Sys2Proof.Machine.execPcSample cell s
  | .traceTime row => Sys2Proof.Machine.execTraceTime row s
  | .leaveGrant block => Sys2Proof.Machine.execLeaveGrant block s
  | .entdaa addr => Sys2Proof.Machine.execEntdaa addr s
  | .pcapWrite value => Sys2Proof.Machine.execPcapWrite value s
  | .fwin data => Sys2Proof.Machine.execFwin data s
  | .fwgo facts => Sys2Proof.Machine.execFwgo facts s
  | .thermalThrottleTick temp => Sys2Proof.Machine.execThermalThrottleTick temp s
  | .powerOn facts => Sys2Proof.Machine.execPowerOn facts s
  | .taggedStructureError dom => Sys2Proof.Machine.execTaggedStructureError dom s
  | .lossOfLink port lost => Sys2Proof.Machine.execLossOfLink port lost s
  | .eagcfgReadReply cell => Sys2Proof.Machine.execEagcfgReadReply cell s
  | .ptestReply cell => Sys2Proof.Machine.execPtestReply cell s
  | .powerFailure => Sys2Proof.Machine.execPowerFailure s
  | .inServiceRepair action => Sys2Proof.Machine.execInServiceRepair action s

end Sys2Proof.Machine
end

