-- ==== Sys2Proof/Machine/Step.lean ====
section
/-! DEFINITION. One step of the module (log entry 6): the turn at the head of the schedule, or with none the next
instruction of the current cell. -/

namespace Sys2Proof.Machine

open Sys2Proof

/-- The turn of the current cell: its next instruction (R54). -/
def cellTurn (s : State) : Host.Outcome State Fault Refusal :=
  if s.fetches then
    if s.fetchInside then exec s.fetched s else .next (s.fetchBound s.cur)
  else .next s.idleTurn

/-- The turn of another agent: its operation, if the module admits it. A cell's instruction comes from a fetch alone. -/
def opTurn (i : Instr) (s : State) : Host.Outcome State Fault Refusal :=
  if i.isCell then .refused .notAnEvent else if s.admits i then exec i s else .next s

/-- One step. -/
def step (s : State) : Host.Outcome State Fault Refusal :=
  match s.sched with
  | [] => cellTurn s
  | .cell c :: rest => cellTurn { s.takeTurn rest with cur := c }
  | .op i :: rest => opTurn i (s.takeTurn rest)
  | .clk n :: rest => .next ((s.takeTurn rest).passClk n)
  | .agent a :: rest => .next ((s.takeTurn rest).agentTurn a)

/-- The state with the instruction or operation word placed so that the next step runs it. -/
def State.withFetchWord (s : State) (nbits w : Nat) : State := s.placeWord nbits w

end Sys2Proof.Machine
end

