-- ==== Sys2Proof/Safety.lean ====
section
/-! DEFINITION. What a safe state is: the invariants that every step keeps; and when an instruction of a cell completes at
its issue, in the terms that the statements use. -/

namespace Sys2Proof.Machine

open Sys2Proof

/-- The module's memory and every listed cell's local store are in canonical form. -/
def State.MemOk (s : State) : Prop := s.mem.wf = true ∧ ∀ x ∈ s.cells, x.2.store.wf = true

/-! ### The issue of an instruction (R66, R73 to R77, R160, R181) -/

/-- The current cell. -/
def State.me (s : State) : Cell := s.cell s.cur

/-- The slots that an instruction names: those of its wait mask and its emit slot (R66). -/
def namedSlots (h : Hdr) : BitVec 8 := if h.ee then h.wm ||| oneBit 8 h.es.toNat else h.wm

/-- No breakpoint and no watchpoint of the cell is enabled (R487, R488). -/
def Cell.NoBreaks (c : Cell) : Prop := ∀ n ∈ [0, 1, 2, 3, 4, 8], (c.debugField n).getLsbD 11 = false

/-- Nothing stands before the issue of instruction i with header h at the current cell: the cell runs it, no slot that it names
is PENDING, no pending fault is taken at it, it is legal and allowed, and the ports that it names are free. -/
structure State.Ready (s : State) (i : Instr) (h : Hdr) : Prop where
  runs : s.me.st = .running ∨ s.me.st = .asleep
  noBreaks : s.me.NoBreaks
  notPending : namedSlots h &&& s.me.pendingMask = 0
  notNested : s.me.inHandler = true → namedSlots h &&& s.me.faultedMask = 0
  noFault : s.me.inHandler = true ∨ s.me.faultFor (namedSlots h) (Instr.op i) = none
  legal : i.wf = true
  allowed : privileged i s.me = true
  portsFree : toVectorQueue (Instr.op i) = true ∨ s.me.portsOf (Instr.word i) &&& s.me.vports = 0
  portsWhole : (upto 8).any (fun p => (s.me.portsOf (Instr.word i)).getLsbD p && s.portBusy s.cur p) = false

/-- The state at the clk of the issue (R160). -/
def State.atIssue (s : State) : State := { s with now := max s.now s.me.readyAt }

/-- The cell after an instruction with header h has retired: its emit slot is `slot`, it goes on at `next`, and the cell can
issue again at clk `ready` (R66, R160). -/
def Cell.retired (c : Cell) (h : Hdr) (slot : SlotState) (next ready : Nat) : Cell :=
  { (if h.ee then c.setSlot h.es.toNat slot else c) with
    st := .running, wait := none, step := 0, bpSkip := false, pc := next, iseq := c.iseq + 1, readyAt := ready }

/-- The module after the current cell has retired an instruction that leaves it as c, at the next word, its token fired; entries
that a pop has made runnable count from the issue (R23). -/
def State.retire (s : State) (h : Hdr) (c : Cell) : State :=
  let c := c.afterPops s.me s.atIssue.now
  s.atIssue.setCell s.cur (c.retired h .idle (c.pc + 1) (s.atIssue.now + 1))

/-- The module after the current cell has retired an asynchronous instruction that leaves it as c: its token is pending. -/
def State.retireAsync (s : State) (h : Hdr) (c : Cell) : State :=
  let c := c.afterPops s.me s.atIssue.now
  s.atIssue.setCell s.cur (c.retired h .pending (c.pc + 1) (s.atIssue.now + 1))

/-- The module after the current cell has retired an instruction that goes on at `next`, `cost` clk after its issue. -/
def State.retireTo (s : State) (h : Hdr) (c : Cell) (next cost : Nat) : State :=
  let c := c.afterPops s.me s.atIssue.now
  s.atIssue.setCell s.cur (c.retired h .idle next (s.atIssue.now + cost))

end Sys2Proof.Machine
end

