-- ==== Sys2Proof/Certificates/Slice0/Obligations.lean ====
section
/-! DEFINITION. The statements for the provers, from the numbered rules of the spec. `Ready`, `retire` and their kin are in
Sys2Proof/Safety.lean. -/

open Sys2Proof Sys2Proof.Machine

/-! ### The register instructions (R183 to R192) -/

/-- An instruction of format R that reads a and b completes with r(a, b), poisoned if either is (R185, R186). -/
def Sys2Proof.Machine.PairCompletes (mk : Hdr → FmtR → Instr) (r : Word → Word → Word) : Prop :=
  ∀ (h : Hdr) (f : FmtR) (s : State) (a b : Val) (c c' : Cell),
    s.Ready (mk h f) h → readAB s.me f.a f.b f.sa f.sb = .ok (a, b, c) → writeDst c f.d ⟨r a.v b.v, a.p || b.p⟩ = .ok c' →
    exec (mk h f) s = .next (s.retire h c')

/-- An instruction of format R that reads a alone completes with r(a), poisoned if a is. -/
def Sys2Proof.Machine.OneCompletes (mk : Hdr → FmtR → Instr) (r : Word → Word) : Prop :=
  ∀ (h : Hdr) (f : FmtR) (s : State) (a : Val) (c c' : Cell),
    s.Ready (mk h f) h → readSrc s.me f.a f.sa = .ok (a, c) → writeDst c f.d ⟨r a.v, a.p⟩ = .ok c' →
    exec (mk h f) s = .next (s.retire h c')

/-- An instruction of format I that reads a completes with r(a, i) of the sign-extended immediate i, poisoned if a is (R190). -/
def Sys2Proof.Machine.ImmCompletes (mk : Hdr → FmtI → Instr) (r : Word → BitVec 29 → Word) : Prop :=
  ∀ (h : Hdr) (f : FmtI) (s : State) (a : Val) (c c' : Cell),
    s.Ready (mk h f) h → readSrc s.me f.a f.sa = .ok (a, c) → writeDst c f.d ⟨r a.v f.imm, a.p⟩ = .ok c' →
    exec (mk h f) s = .next (s.retire h c')

/-- R186: every operation of the table writes its r modulo 2^64, and divisions follow R98. -/
def Sys2Proof.Machine.Rule.ScalarOperationsWriteTheirResult : Prop :=
  PairCompletes .add (fun a b => BitVec.ofNat 64 (a.toNat + b.toNat)) ∧
  PairCompletes .sub (fun a b => BitVec.ofInt 64 ((a.toNat : Int) - b.toNat)) ∧
  PairCompletes .mul (fun a b => BitVec.ofNat 64 (a.toNat * b.toNat)) ∧
  PairCompletes .mulh (fun a b => BitVec.ofInt 64 ((a.toInt * b.toInt) / 2 ^ 64)) ∧
  PairCompletes .mulhn (fun a b => BitVec.ofNat 64 (a.toNat * b.toNat / 2 ^ 64)) ∧
  PairCompletes .div (fun a b => if b = 0 then BitVec.ofInt 64 (-1) else BitVec.ofInt 64 (a.toInt.tdiv b.toInt)) ∧
  PairCompletes .divn (fun a b => if b = 0 then BitVec.ofNat 64 (2 ^ 64 - 1) else BitVec.ofNat 64 (a.toNat / b.toNat)) ∧
  PairCompletes .rem (fun a b => if b = 0 then a else BitVec.ofInt 64 (a.toInt - b.toInt * a.toInt.tdiv b.toInt)) ∧
  PairCompletes .remn (fun a b => if b = 0 then a else BitVec.ofNat 64 (a.toNat % b.toNat)) ∧
  PairCompletes .andR (fun a b => a &&& b) ∧
  PairCompletes .orR (fun a b => a ||| b) ∧
  PairCompletes .xorR (fun a b => a ^^^ b) ∧
  PairCompletes .shl (fun a b => BitVec.ofNat 64 (a.toNat * 2 ^ (b.toNat % 64))) ∧
  PairCompletes .shr (fun a b => BitVec.ofNat 64 (a.toNat / 2 ^ (b.toNat % 64))) ∧
  PairCompletes .sra (fun a b => BitVec.ofInt 64 (a.toInt / 2 ^ (b.toNat % 64))) ∧
  PairCompletes .rotl (fun a b => a.rotateLeft (b.toNat % 64)) ∧
  PairCompletes .min (fun a b => if a.toInt ≤ b.toInt then a else b) ∧
  PairCompletes .max (fun a b => if a.toInt ≤ b.toInt then b else a) ∧
  PairCompletes .minn (fun a b => if a.toNat ≤ b.toNat then a else b) ∧
  PairCompletes .maxn (fun a b => if a.toNat ≤ b.toNat then b else a) ∧
  PairCompletes .ceq (fun a b => if a = b then 1 else 0) ∧
  PairCompletes .clt (fun a b => if a.toInt < b.toInt then 1 else 0) ∧
  PairCompletes .cltn (fun a b => if a.toNat < b.toNat then 1 else 0) ∧
  OneCompletes .clz (fun a => BitVec.ofNat 64 (leadingZeros a 64)) ∧
  OneCompletes .popc (fun a => BitVec.ofNat 64 (((List.range 64).filter (fun i => a.getLsbD i)).length))

/-- R187, R188, R189, R192: the saturating sum, the choice, the modular sum and the scaled address; NOP has no effect of its own
(R202). -/
def Sys2Proof.Machine.Rule.ClampedChosenModularAndScaledResults : Prop :=
  (∀ (h : Hdr) (f : FmtR) (s : State) (a b : Val) (c c' : Cell) (x : Int),
    s.Ready (.adds h f) h → readAB s.me f.a f.b f.sa f.sb = .ok (a, b, c) →
    x = (if f.fn = 0 then max (-2 ^ 63) (min (2 ^ 63 - 1) (a.v.toInt + b.v.toInt))
      else if f.fn = 1 then max 0 (min (2 ^ 64 - 1) ((a.v.toNat : Int) + b.v.toNat))
      else if f.fn = 2 then max (-2 ^ 63) (min (2 ^ 63 - 1) (a.v.toInt - b.v.toInt))
      else max 0 (min (2 ^ 64 - 1) ((a.v.toNat : Int) - b.v.toNat))) →
    writeDst c f.d ⟨BitVec.ofInt 64 x, a.p || b.p⟩ = .ok c' → exec (.adds h f) s = .next (s.retire h c')) ∧
  (∀ (h : Hdr) (f : FmtR) (s : State) (a b z : Val) (c1 c2 c' : Cell),
    s.Ready (.sel h f) h → readAB s.me f.a f.b f.sa f.sb = .ok (a, b, c1) → readSrc c1 f.c f.sc = .ok (z, c2) →
    writeDst c2 f.d (if z.v = 0 then ⟨b.v, z.p || b.p⟩ else ⟨a.v, z.p || a.p⟩) = .ok c' →
    exec (.sel h f) s = .next (s.retire h c')) ∧
  (∀ (h : Hdr) (f : FmtR) (s : State) (a b z : Val) (c1 c2 c' : Cell),
    s.Ready (.modw h f) h → readAB s.me f.a f.b f.sa f.sb = .ok (a, b, c1) → readSrc c1 f.c f.sc = .ok (z, c2) →
    writeDst c2 f.d ⟨BitVec.ofNat 64 (if z.v = 0 then a.v.toNat + b.v.toNat else (a.v.toNat + b.v.toNat) % z.v.toNat),
      a.p || b.p || z.p⟩ = .ok c' →
    exec (.modw h f) s = .next (s.retire h c')) ∧
  (∀ (h : Hdr) (f : FmtM) (s : State) (a b : Val) (c c' : Cell),
    s.Ready (.lea h f) h → readAB s.me f.a f.b f.sa f.sb = .ok (a, b, c) →
    writeDst c f.d ⟨BitVec.ofInt 64 (a.v.toNat + b.v.toNat * 2 ^ f.sz.toNat + f.disp.toInt), a.p || b.p⟩ = .ok c' →
    exec (.lea h f) s = .next (s.retire h c')) ∧
  (∀ (h : Hdr) (f : FmtR) (s : State), s.Ready (.nop h f) h → exec (.nop h f) s = .next (s.retire h s.me))

/-- R190, R191: the immediate operations and the constants. -/
def Sys2Proof.Machine.Rule.ImmediateOperationsWriteTheirResult : Prop :=
  ImmCompletes .addi (fun a i => BitVec.ofInt 64 (a.toNat + i.toInt)) ∧
  ImmCompletes .andi (fun a i => a &&& BitVec.ofInt 64 i.toInt) ∧
  ImmCompletes .ori (fun a i => a ||| BitVec.ofInt 64 i.toInt) ∧
  ImmCompletes .xori (fun a i => a ^^^ BitVec.ofInt 64 i.toInt) ∧
  ImmCompletes .shli (fun a i => BitVec.ofNat 64 (a.toNat * 2 ^ (i.toNat % 64))) ∧
  ImmCompletes .shri (fun a i => BitVec.ofNat 64 (a.toNat / 2 ^ (i.toNat % 64))) ∧
  ImmCompletes .srai (fun a i => BitVec.ofInt 64 (a.toInt / 2 ^ (i.toNat % 64))) ∧
  ImmCompletes .movhi (fun a i => BitVec.ofInt 64 (i.toInt * 2 ^ 29 + (a.toNat % 2 ^ 29 : Nat))) ∧
  (∀ (h : Hdr) (f : FmtI) (s : State) (c' : Cell),
    s.Ready (.movi h f) h → writeDst s.me f.d ⟨BitVec.ofInt 64 f.imm.toInt, false⟩ = .ok c' →
    exec (.movi h f) s = .next (s.retire h c'))

/-- R186: every operation of the table writes its r modulo 2^64, and divisions follow R98. R187, R188, R189, R192: the saturating sum, the
choice, the modular sum and the scaled address; NOP has no effect of its own (R202). R190, R191: the immediate operations and the
constants. -/
def Obligations.ScalarInstructionsWriteTheirResult : Prop := Rule.ScalarOperationsWriteTheirResult ∧ Rule.ClampedChosenModularAndScaledResults ∧ Rule.ImmediateOperationsWriteTheirResult

/-- R60, R183: what an operand that is a g register reads, and where a result for one goes; g0 reads as the clean zero and a
write of it is discarded; a register that an asynchronous instruction will write is waited for. -/
def Sys2Proof.Machine.Rule.RegisterOperands : Prop :=
  (∀ (c : Cell) (f : BitVec 6) (n : BitVec 3), f.toNat ≤ 55 → f.toNat ∉ c.busy → readSrc c f n = .ok (c.reg f.toNat, c)) ∧
  (∀ (c : Cell) (n : BitVec 3), 0 ∉ c.busy → readSrc c 0 n = .ok (⟨0, false⟩, c)) ∧
  (∀ (c : Cell) (f : BitVec 6) (v : Val), f ≠ 0 → f.toNat ≤ 55 → f.toNat ∉ c.busy →
    ∃ c', writeDst c f v = .ok c' ∧ c'.reg f.toNat = v ∧ (∀ n, n ≠ f.toNat → c'.reg n = c.reg n) ∧ { c' with g := c.g } = c) ∧
  (∀ (c : Cell) (v : Val), 0 ∉ c.busy → writeDst c 0 v = .ok c) ∧
  (∀ (c : Cell) (f : BitVec 6) (n : BitVec 3) (v : Val), f.toNat ≤ 55 → f.toNat ∈ c.busy →
    readSrc c f n = .error (.wait .token (.reg f.toNat)) ∧ writeDst c f v = .error (.wait .token (.reg f.toNat)))

/-- R62: a read of an inbound port gives its head word; with a residual count of 0 the word is popped and the count is empty
again, otherwise the word stays and the count falls by 1. With no residual count the sticky count decides, where 7 stands for
QSTK's count. A port without a word is waited for, and a port that is not bound inbound raises ILLOP. -/
def Sys2Proof.Machine.Rule.PortReads : Prop :=
  ∀ (c : Cell) (f : BitVec 6) (n : BitVec 3), 56 ≤ f.toNat →
    (c.binding (f.toNat - 56) ≠ 1 → readSrc c f n = .error .illop) ∧
    (c.binding (f.toNat - 56) = 1 → (c.inEp (f.toNat - 56)).occ = 0 →
      readSrc c f n = .error (.wait .popEmpty (.head (f.toNat - 56) 0))) ∧
    (c.binding (f.toNat - 56) = 1 → 0 < (c.inEp (f.toNat - 56)).occ →
      ∀ left, left = (c.inEp (f.toNat - 56)).res.getD (if n = 7 then (c.inEp (f.toNat - 56)).stk.toNat else n.toNat) →
        ∃ c', readSrc c f n = .ok ((c.headAt (f.toNat - 56) 0).v, c') ∧
          (left = 0 → (c'.inEp (f.toNat - 56)).occ = (c.inEp (f.toNat - 56)).occ - 1 ∧
            (c'.inEp (f.toNat - 56)).head = (c.inEp (f.toNat - 56)).nth 1 ∧ (c'.inEp (f.toNat - 56)).res = none) ∧
          (0 < left → c' = c.setIn (f.toNat - 56) { c.inEp (f.toNat - 56) with res := some (left - 1) }))

/-- R60, R183: what an operand that is a g register reads, and where a result for one goes; g0 reads as the clean zero and a write of it
is discarded; a register that an asynchronous instruction will write is waited for. R62: a read of an inbound port gives its head word;
with a residual count of 0 the word is popped and the count is empty again, otherwise the word stays and the count falls by 1. With no
residual count the sticky count decides, where 7 stands for QSTK's count. A port without a word is waited for, and a port that is not
bound inbound raises ILLOP. -/
def Obligations.OperandsAreRead : Prop := Rule.RegisterOperands ∧ Rule.PortReads

/-- The frame of the register instructions: with register operands and a register destination, nothing changes but the
destination, the PC, the emit slot and the cell's own place in its program; no flag, no special register, no byte of the local
store and no byte of the module's memory. -/
def Sys2Proof.Machine.Rule.RegisterInstructionFrame : Prop :=
  ∀ (i : Instr) (h : Hdr) (d : BitVec 6) (s t : State),
    ((∃ f, i ∈ [.add h f, .sub h f, .mul h f, .mulh h f, .mulhn h f, .div h f, .divn h f, .rem h f, .remn h f, .andR h f, .orR h f,
        .xorR h f, .shl h f, .shr h f, .sra h f, .rotl h f, .clz h f, .popc h f, .min h f, .max h f, .minn h f, .maxn h f, .ceq h f,
        .clt h f, .cltn h f, .adds h f, .sel h f, .modw h f] ∧ f.d = d ∧ f.a.toNat ≤ 55 ∧ f.b.toNat ≤ 55 ∧ f.c.toNat ≤ 55) ∨
      (∃ f, i ∈ [.addi h f, .andi h f, .ori h f, .xori h f, .shli h f, .shri h f, .srai h f, .movi h f, .movhi h f] ∧ f.d = d ∧
        f.a.toNat ≤ 55) ∨
      (∃ f, i = .lea h f ∧ f.d = d ∧ f.a.toNat ≤ 55 ∧ f.b.toNat ≤ 55)) →
    d.toNat ≤ 55 → s.Ready i h → (∀ n ≤ 55, n ∉ s.me.busy) → exec i s = .next t →
    (∀ n, n ≠ d.toNat → (t.cell s.cur).reg n = s.me.reg n) ∧
    (∀ j, (h.ee = true → j ≠ h.es.toNat) → (t.cell s.cur).slot j = s.me.slot j) ∧
    (∀ k, k ≠ s.cur → t.cell k = s.cell k) ∧
    (t.cell s.cur).sys = s.me.sys ∧ (t.cell s.cur).ident = s.me.ident ∧ (t.cell s.cur).sems = s.me.sems ∧
    (t.cell s.cur).ins = s.me.ins ∧ (t.cell s.cur).outs = s.me.outs ∧ (t.cell s.cur).vec = s.me.vec ∧
    (t.cell s.cur).mat = s.me.mat ∧ (t.cell s.cur).faults = s.me.faults ∧
    (∀ a, Memory.byte (t.cell s.cur).store a = Memory.byte s.me.store a) ∧ (∀ a, Memory.byte t.mem a = Memory.byte s.mem a)

/-- Every instruction of a cell, of whatever format: when it goes on, no byte of the module's memory, no poison or presence bit, no
translation and no identity has changed, and every other cell keeps its registers, system registers, program counter, state and (but for
REINJ, which takes words back out of a consumer's ring) its local store. Memory changes through the tiles and engines alone. -/
def Sys2Proof.Machine.Rule.InstructionsReachOthersThroughEngines : Prop :=
  ∀ (i : Instr) (w : Word) (s t : State), encode i = some w → exec i s = .next t →
    (∀ a, Memory.byte t.mem a = Memory.byte s.mem a) ∧ t.memPoison = s.memPoison ∧ t.present = s.present ∧ t.pages = s.pages ∧
    t.modNo = s.modNo ∧ (t.cell s.cur).ident = s.me.ident ∧
    ∀ k, k ≠ s.cur → (t.cell k).g = (s.cell k).g ∧ (t.cell k).sys = (s.cell k).sys ∧ (t.cell k).pc = (s.cell k).pc ∧
      (t.cell k).st = (s.cell k).st ∧ (t.cell k).ident = (s.cell k).ident ∧
      ((∀ h f, i ≠ .reinj h f) → ∀ a, Memory.byte (t.cell k).store a = Memory.byte (s.cell k).store a)

/-- The frame of the register instructions: with register operands and a register destination, nothing changes but the destination, the
PC, the emit slot and the cell's own place in its program; no flag, no special register, no byte of the local store and no byte of the
module's memory. Every instruction of a cell, of whatever format: when it goes on, no byte of the module's memory, no poison or presence
bit, no translation and no identity has changed, and every other cell keeps its registers, system registers, program counter, state and
(but for REINJ, which takes words back out of a consumer's ring) its local store. Memory changes through the tiles and engines alone. -/
def Obligations.InstructionFrames : Prop := Rule.RegisterInstructionFrame ∧ Rule.InstructionsReachOthersThroughEngines

/-! ### Branches, calls and returns (R195, R196) -/

/-- A conditional branch with its test: taken, it goes on at PC + OFF29, 2 clk later; not taken, at the next word. -/
def Sys2Proof.Machine.BranchCompletes (mk : Hdr → FmtB → Instr) (test : Word → Prop) : Prop :=
  ∀ (h : Hdr) (f : FmtB) (s : State) (a : Val) (c : Cell),
    s.Ready (mk h f) h → readSrc s.me f.a f.sa = .ok (a, c) → a.p = false →
    (test a.v → 0 ≤ s.me.pc + f.off.toInt → s.me.pc + f.off.toInt ≤ 2047 →
      exec (mk h f) s = .next (s.retireTo h c (s.me.pc + f.off.toInt).toNat 2)) ∧
    (¬test a.v → exec (mk h f) s = .next (s.retire h c))

/-- The target of BR and CALL: PC + OFF29 where A is g0, else S(a) + OFF29 of a clean operand a. -/
def Sys2Proof.Machine.GoesTo (c : Cell) (f : FmtB) (t : Int) (c' : Cell) : Prop :=
  (f.a = 0 ∧ t = c.pc + f.off.toInt ∧ c' = c) ∨
  (f.a ≠ 0 ∧ ∃ a, readSrc c f.a f.sa = .ok (a, c') ∧ a.p = false ∧ t = a.v.toInt + f.off.toInt)

/-- R195: where each branch goes, what CALL links and what LOOPN counts. -/
def Sys2Proof.Machine.Rule.BranchesGoToTheirTarget : Prop :=
  BranchCompletes .bz (fun a => a = 0) ∧ BranchCompletes .bnz (fun a => a ≠ 0) ∧
  BranchCompletes .blz (fun a => a.toInt < 0) ∧ BranchCompletes .bgez (fun a => 0 ≤ a.toInt) ∧
  (∀ (h : Hdr) (f : FmtB) (s : State) (t : Int) (c : Cell),
    s.Ready (.br h f) h → GoesTo s.me f t c → 0 ≤ t → t ≤ 2047 → exec (.br h f) s = .next (s.retireTo h c t.toNat 2)) ∧
  (∀ (h : Hdr) (f : FmtB) (s : State) (t : Int) (c c' : Cell),
    s.Ready (.call h f) h → GoesTo s.me f t c → 0 ≤ t → t ≤ 2047 →
    writeDst c f.d ⟨BitVec.ofNat 64 (s.me.pc + 1), false⟩ = .ok c' →
    exec (.call h f) s = .next (s.retireTo h c' t.toNat 2)) ∧
  (∀ (h : Hdr) (f : FmtB) (s : State) (n : Val) (c' : Cell),
    s.Ready (.loopn h f) h → n.p = false →
    (if f.a = 0 then n.v = s.me.sys.loop ∧ c' = { s.me with sys := { s.me.sys with loop := n.v - 1 } }
      else f.a.toNat ∉ s.me.busy ∧ n = s.me.reg f.a.toNat ∧ c' = s.me.setReg f.a.toNat ⟨n.v - 1, false⟩) →
    (n.v = 1 → exec (.loopn h f) s = .next (s.retire h c')) ∧
    (n.v ≠ 1 → 0 ≤ s.me.pc + f.off.toInt → s.me.pc + f.off.toInt ≤ 2047 →
      exec (.loopn h f) s = .next (s.retireTo h c' (s.me.pc + f.off.toInt).toNat 1)))

/-- R196: RET goes on at U(a), 2 clk later; it raises POISON or LBOUND. -/
def Sys2Proof.Machine.Rule.ReturnGoesToItsOperand : Prop :=
  ∀ (h : Hdr) (f : FmtR) (s : State) (a : Val) (c : Cell),
    s.Ready (.ret h f) h → readSrc s.me f.a f.sa = .ok (a, c) →
    (a.p = false → a.v.toNat ≤ 2047 → exec (.ret h f) s = .next (s.retireTo h c a.v.toNat 2)) ∧
    (a.p = true → a.v.toNat ≤ 2047 → exec (.ret h f) s = .next (s.atIssue.trapHere s.cur s.me (Instr.op (.ret h f)) 8 1)) ∧
    (2047 < a.v.toNat → exec (.ret h f) s = .next (s.atIssue.trapHere s.cur s.me (Instr.op (.ret h f)) 4 a.v))

/-- R195: where each branch goes, what CALL links and what LOOPN counts. R196: RET goes on at U(a), 2 clk later; it raises POISON or
LBOUND. -/
def Obligations.BranchesAndReturnsGoToTheirTarget : Prop := Rule.BranchesGoToTheirTarget ∧ Rule.ReturnGoesToItsOperand

/-! ### The local address map (R35, R36, R166, R193), system registers (R176, R201) -/

/-- R193, R166: LDL of the local store reads `size` bytes from the effective address, little-endian, extended as SX says, and
poisoned if its word is; of the instruction store, the endpoints and the registers it reads the bytes of the word there. -/
def Sys2Proof.Machine.Rule.LocalLoadsReadWhatStandsThere : Prop :=
  ∀ (h : Hdr) (f : FmtM) (s : State) (a b : Val) (c c' : Cell) (ea size : Nat),
    s.Ready (.ldl h f) h → readAB s.me f.a f.b f.sa f.sb = .ok (a, b, c) → a.p = false → b.p = false →
    ea = (BitVec.ofInt 64 (a.v.toNat + b.v.toNat + f.disp.toInt)).toNat → size = 2 ^ f.sz.toNat → ea % size = 0 →
    (ea < 0x20000 → s.storeBusyAt s.cur ea = false →
      writeDst c f.d ⟨extend f.sx size (c.store.read ea size), c.storePoison.has (ea / 8)⟩ = .ok c' →
      exec (.ldl h f) s = .next (s.retire h c')) ∧
    (0xE0000 ≤ ea → ea < 0xE4000 →
      writeDst c f.d ⟨extend f.sx size (bytesOf (c.code ((ea - 0xE0000) / 8)) (ea % 8) size), false⟩ = .ok c' →
      exec (.ldl h f) s = .next (s.retire h c')) ∧
    (0xF1000 ≤ ea → ea < 0xF2000 →
      writeDst c f.d ⟨extend f.sx size (bytesOf (c.epWord (ea - 0xF1000 - ea % 8)) (ea % 8) size), false⟩ = .ok c' →
      exec (.ldl h f) s = .next (s.retire h c')) ∧
    (0xF2000 ≤ ea → ea < 0xF3000 →
      writeDst c f.d ⟨extend f.sx size (bytesOf (c.sysReg s.cur s.atIssue.now ((ea - 0xF2000) / 8)) (ea % 8) size), false⟩
        = .ok c' →
      exec (.ldl h f) s = .next (s.retire h c'))

/-- R193, R166: STL writes the low bytes of its data at the effective address, and the poison bit of the word there becomes the
data's; no other byte of the local store, no register, no other cell and no byte of the module's memory changes. -/
def Sys2Proof.Machine.Rule.LocalStoresWriteTheirBytes : Prop :=
  ∀ (h : Hdr) (f : FmtM) (s : State) (a b d : Val) (c c' : Cell) (ea size : Nat),
    s.Ready (.stl h f) h → readAB s.me f.a f.b f.sa f.sb = .ok (a, b, c) → a.p = false → b.p = false →
    ea = (BitVec.ofInt 64 (a.v.toNat + b.v.toNat + f.disp.toInt)).toNat → size = 2 ^ f.sz.toNat → ea % size = 0 →
    ea < 0x20000 → s.storeBusyAt s.cur ea = false → readSrc c f.d 0 = .ok (d, c') →
    ∃ t, exec (.stl h f) s = .next t ∧
      (t.cell s.cur).store.read ea size = d.v.toNat % 2 ^ (8 * size) ∧
      (t.cell s.cur).storePoison.has (ea / 8) = d.p ∧
      (∀ x, x < ea ∨ ea + size ≤ x → Memory.byte (t.cell s.cur).store x = Memory.byte c'.store x) ∧
      (∀ j, j ≠ ea / 8 → (t.cell s.cur).storePoison.has j = c'.storePoison.has j) ∧
      (∀ n, (t.cell s.cur).reg n = c'.reg n) ∧ (t.cell s.cur).pc = s.me.pc + 1 ∧ (t.cell s.cur).sys = c'.sys ∧
      (∀ k, k ≠ s.cur → t.cell k = s.cell k) ∧ (∀ x, Memory.byte t.mem x = Memory.byte s.mem x)

/-- R193, R166: LDL of the local store reads `size` bytes from the effective address, little-endian, extended as SX says, and poisoned if
its word is; of the instruction store, the endpoints and the registers it reads the bytes of the word there. R193, R166: STL writes the
low bytes of its data at the effective address, and the poison bit of the word there becomes the data's; no other byte of the local store,
no register, no other cell and no byte of the module's memory changes. -/
def Obligations.LocalLoadsAndStores : Prop := Rule.LocalLoadsReadWhatStandsThere ∧ Rule.LocalStoresWriteTheirBytes

/-- A destination field that a result can go to: a g register that nothing will write, or a port that takes words (R61, R149). -/
def Sys2Proof.Machine.TakesResult (c : Cell) (d : BitVec 6) : Prop :=
  (d.toNat ≤ 55 ∧ d.toNat ∉ c.busy) ∨ (55 < d.toNat ∧ (c.binding (d.toNat - 56) = 2 ∨ c.binding (d.toNat - 56) = 3))

/-- R36, R61, R76, R193: what a local access is stopped by: ILLOP, the lowest code, for an LDL to a port that takes no words, then PRIV
for an STL of a range that can only be read, then ALIGN before LBOUND before POISON. -/
def Sys2Proof.Machine.Rule.LocalAccessCauses : Prop :=
  ∀ (h : Hdr) (f : FmtM) (s : State) (a b : Val) (c : Cell) (ea : Word) (size : Nat),
    readAB s.me f.a f.b f.sa f.sb = .ok (a, b, c) → ea = BitVec.ofInt 64 (a.v.toNat + b.v.toNat + f.disp.toInt) →
    size = 2 ^ f.sz.toNat →
    (s.Ready (.ldl h f) h → 55 < f.d.toNat → c.binding (f.d.toNat - 56) ≠ 2 → c.binding (f.d.toNat - 56) ≠ 3 →
      exec (.ldl h f) s = .next (s.atIssue.trapHere s.cur s.me (Instr.op (.ldl h f)) 1 (Instr.word (.ldl h f)))) ∧
    (s.Ready (.ldl h f) h → TakesResult c f.d → ea.toNat % size ≠ 0 →
      exec (.ldl h f) s = .next (s.atIssue.trapHere s.cur s.me (Instr.op (.ldl h f)) 3 ea)) ∧
    (s.Ready (.ldl h f) h → TakesResult c f.d → ea.toNat % size = 0 → rangeOf ea.toNat = .none →
      exec (.ldl h f) s = .next (s.atIssue.trapHere s.cur s.me (Instr.op (.ldl h f)) 4 ea)) ∧
    (s.Ready (.ldl h f) h → TakesResult c f.d → ea.toNat % size = 0 → rangeOf ea.toNat ≠ .none → (a.p || b.p) = true →
      exec (.ldl h f) s = .next (s.atIssue.trapHere s.cur s.me (Instr.op (.ldl h f)) 8 (if a.p then 1 else 2))) ∧
    (s.Ready (.stl h f) h → (∃ d c', readSrc c f.d 0 = .ok (d, c')) → rangeOf ea.toNat ≠ .store → rangeOf ea.toNat ≠ .none →
      exec (.stl h f) s = .next (s.atIssue.trapHere s.cur s.me (Instr.op (.stl h f)) 2 ea))

/-- R201, R176, R177, R105, R107: RDSYS writes the register's value, clean; WRSYS writes the register: sys.loop and sys.tval whole, sys.flags
5 bits and the flags that fire in the same clk, sys.rm 0 to 5, sys.tpc 11 bits inside a handler, sys.wd 32 bits in a privileged cell, and
sys.lfsr its low 32 bits, where 0 becomes 1. A read-only register raises PRIV, or ILLOP, the lower cause, for a nonzero bit where
sys.status or sys.trap has zeros. -/
def Obligations.SystemRegisterAccess : Prop :=
  (∀ (h : Hdr) (f : FmtI) (s : State) (c' : Cell),
    s.Ready (.rdsys h f) h → writeDst s.me f.d ⟨s.me.sysReg s.cur s.atIssue.now f.imm.toNat, false⟩ = .ok c' →
    exec (.rdsys h f) s = .next (s.retire h c')) ∧
  (∀ (h : Hdr) (f : FmtI) (s : State) (a : Val) (c : Cell) (y : Sys),
    s.Ready (.wrsys h f) h → readSrc s.me f.a f.sa = .ok (a, c) → a.p = false →
    ((f.imm = 34 ∧ c.inHandler = true ∧ a.v.toNat < 2 ^ 11 ∧ y = { c.sys with tpc := BitVec.ofNat 11 a.v.toNat }) ∨
     (f.imm = 35 ∧ c.inHandler = true ∧ y = { c.sys with tval := a.v }) ∨
     (f.imm = 36 ∧ a.v.toNat ≤ 5 ∧ y = { c.sys with rm := BitVec.ofNat 3 a.v.toNat }) ∨
     (f.imm = 37 ∧ y = { c.sys with lfsr := if a.v.toNat % 2 ^ 32 = 0 then 1 else BitVec.ofNat 32 a.v.toNat }) ∨
     (f.imm = 38 ∧ y = { c.sys with loop := a.v }) ∨
     (f.imm = 39 ∧ a.v.toNat < 2 ^ 5 ∧ y = { c.sys with flags := BitVec.ofNat 5 a.v.toNat ||| c.firedAt s.atIssue.now }) ∨
     (f.imm = 40 ∧ c.priv = true ∧ a.v.toNat < 2 ^ 32 ∧ y = { c.sys with wd := BitVec.ofNat 32 a.v.toNat })) →
    exec (.wrsys h f) s = .next (s.retire h { c with sys := y })) ∧
  (∀ (h : Hdr) (f : FmtI) (s : State) (a : Val) (c : Cell),
    s.Ready (.wrsys h f) h → readSrc s.me f.a f.sa = .ok (a, c) → f.imm.toNat ≤ 33 ∨ f.imm.toNat = 41 →
    exec (.wrsys h f) s = .next (s.atIssue.trapHere s.cur s.me (Instr.op (.wrsys h f))
      (if (f.imm = 32 ∧ (2 ^ 30 ≤ a.v.toNat ∨ a.v.getLsbD 7 = true)) ∨ (f.imm = 33 ∧ 2 ^ 41 ≤ a.v.toNat) then 1 else 2)
      (Instr.word (.wrsys h f))))

/-! ### Traps, breaks, returns, calls and the end of a task (R179, R180, R197 to R200) -/

/-- What taking a trap or a break leaves (R179, R180): the state is s but for cell k, which is c with sys.trap, sys.tpc, sys.tval,
INTRAP, ENTRY and the PC written, and the slots of the fault IDLE. -/
def Sys2Proof.Machine.Entered (s t : State) (k : Nat) (c : Cell) (n : Nat) (r : TrapRec) : Prop :=
  (t.cell k).pc = field (c.haOf n) 0 11 ∧ (t.cell k).st = .running ∧
  (t.cell k).sys = { c.sys with
    trap := r.pack c.sys.entry, tpc := BitVec.ofNat 11 r.tpc, tval := r.tval, intrap := decide (c.sys.entry ≠ 31),
    entry := BitVec.ofNat 5 n } ∧
  (∀ j, j < 8 → (t.cell k).slot j = if r.slots.getLsbD j then .idle else c.slot j) ∧
  (∀ j, (t.cell k).reg j = c.reg j) ∧ (t.cell k).store = c.store ∧ (t.cell k).ins = c.ins ∧ (t.cell k).outs = c.outs ∧
  (t.cell k).sems = c.sems ∧ (t.cell k).ident = c.ident ∧ (t.cell k).readyAt = s.now + 3 ∧
  (∀ j, j ≠ k → t.cell j = s.cell j) ∧ t.mem = s.mem ∧ t.rows = s.rows

/-- What a park leaves (R167, R429, R432): the cell is PARKED with its cause, its state before is held, and a record of kind 1 or
2 is offered to the row's queue. -/
def Sys2Proof.Machine.ParksWith (s t : State) (k : Nat) (c : Cell) (why : PCause) (cause : BitVec 8) (tval : Word) : Prop :=
  t.cell k = { c with st := .parked, heldSt := c.st, pcause := why, rmParkReq := false, parkWait := none, refused := none } ∧
  (∀ j, j ≠ k → t.cell j = s.cell j) ∧ t.mem = s.mem ∧
  ((s.row (yOf k)).fq.length < 1024 → ∃ w, (t.row (yOf k)).fq = (s.row (yOf k)).fq ++ [(w, tval)] ∧
    field w 56 8 = (if why = .sink then 2 else 1) ∧ field w 43 12 = c.ident.dom.toNat ∧ field w 25 18 = k % 2 ^ 18 ∧
    field w 0 25 = why.code * 2 ^ 21 + c.pc % 2048 * 2 ^ 10 + cause.toNat)

/-- R179, R180, R78, R22: a trap or a break enters its handler; inside a handler, or with no valid handler, the cell parks. -/
def Sys2Proof.Machine.Rule.EnteringAHandler : Prop :=
  ∀ (s : State) (k n : Nat) (c : Cell) (r : TrapRec), n = 16 ∨ n = 18 →
    (c.inHandler = false → (c.haOf n).getLsbD 16 = true → Entered s (s.enter k c n r) k c n r) ∧
    (c.inHandler = true → ParksWith s (s.enter k c n r) k c .nested r.cause r.tval) ∧
    (c.inHandler = false → (c.haOf n).getLsbD 16 = false → ParksWith s (s.enter k c n r) k c .noHandler r.cause r.tval)

/-- R173: the fields of sys.trap. -/
def Sys2Proof.Machine.Rule.TrapRegisterLayout : Prop :=
  ∀ (r : TrapRec) (prev : BitVec 5),
    field (r.pack prev) 0 8 = r.cause.toNat ∧ (r.pack prev).getLsbD 8 = r.sw ∧ (r.pack prev).getLsbD 9 = r.brk ∧
    (r.pack prev).getLsbD 10 = r.defer ∧ (r.pack prev).getLsbD 11 = r.arrive ∧ field (r.pack prev) 12 3 = r.slot.toNat ∧
    (r.pack prev).getLsbD 15 = r.lost ∧ field (r.pack prev) 16 11 = r.taken % 2048 ∧ field (r.pack prev) 27 5 = prev.toNat ∧
    field (r.pack prev) 32 8 = r.opb.toNat ∧ (r.pack prev).getLsbD 40 = r.held ∧ field (r.pack prev) 41 23 = 0

/-- R179, R180, R78, R22: a trap or a break enters its handler; inside a handler, or with no valid handler, the cell parks. R173: the
fields of sys.trap. -/
def Obligations.HandlersAreEntered : Prop := Rule.EnteringAHandler ∧ Rule.TrapRegisterLayout

/-- R198, R180: TRAP enters entry 16 at itself with SW and the immediate; BRK enters entry 18, and inside a handler has no effect
beyond its trace event. -/
def Sys2Proof.Machine.Rule.SoftwareTrapsAndBreaks : Prop :=
  (∀ (h : Hdr) (f : FmtI) (s : State), s.Ready (.trap h f) h → s.me.inHandler = false → (s.me.haOf 16).getLsbD 16 = true →
    ∃ t, exec (.trap h f) s = .next t ∧ Entered s.atIssue t s.cur s.me 16
      { cause := 0, sw := true, tpc := s.me.pc, taken := s.me.pc, opb := 0x32, tval := BitVec.ofInt 64 f.imm.toInt }) ∧
  (∀ (h : Hdr) (f : FmtI) (s : State), s.Ready (.brk h f) h → SMap.get 0 s.me.dbg.f 13 = 0 →
    (s.me.inHandler = false → (s.me.haOf 18).getLsbD 16 = true →
      ∃ t, exec (.brk h f) s = .next t ∧ Entered s.atIssue t s.cur s.me 18
        { cause := 0, brk := true, tpc := s.me.pc, taken := s.me.pc, opb := 0x35, tval := BitVec.ofInt 64 f.imm.toInt }) ∧
    (s.me.inHandler = true → exec (.brk h f) s = .next (s.retire h s.me)))

/-- R199: where each return goes, with ENTRY restored and INTRAP clear; with PREV 31, and for RETT.END, the task ends; outside a
handler a return raises ILLOP. -/
def Sys2Proof.Machine.Rule.ReturnsFromHandlers : Prop :=
  ∀ (h : Hdr) (f : FmtR) (s : State) (prev : BitVec 5), prev = s.me.sys.trap.extractLsb' 27 5 →
    (s.me.inHandler = true → prev ≠ 31 →
      (s.Ready (.rettRetry h f) h → ∃ t, exec (.rettRetry h f) s = .next t ∧ (t.cell s.cur).pc = field s.me.sys.trap 16 11 ∧
        (t.cell s.cur).sys = { s.me.sys with entry := prev, intrap := false } ∧ (t.cell s.cur).g = s.me.g ∧
        (t.cell s.cur).bpSkip = decide (s.me.sys.entry = 18) ∧ (∀ k, k ≠ s.cur → t.cell k = s.cell k) ∧ t.mem = s.mem) ∧
      (s.Ready (.rettNext h f) h → field s.me.sys.trap 16 11 + 1 ≤ 2047 → exec (.rettNext h f) s = .next
        (s.retireTo h { s.me with sys := { s.me.sys with entry := prev, intrap := false } } (field s.me.sys.trap 16 11 + 1) 3)) ∧
      (s.Ready (.rettRedo h f) h → exec (.rettRedo h f) s = .next
        (s.retireTo h { s.me with sys := { s.me.sys with entry := prev, intrap := false } } s.me.sys.tpc.toNat 3))) ∧
    (s.me.inHandler = true → s.Ready (.rettEnd h f) h → exec (.rettEnd h f) s = .next (s.atIssue.endTask s.cur
        { s.me with iseq := s.me.iseq + 1, readyAt := s.atIssue.now + 3 })) ∧
    (s.me.inHandler = true → prev = 31 → ∀ i ∈ [Instr.rettRetry h f, .rettNext h f, .rettRedo h f], s.Ready i h →
      exec i s = .next (s.atIssue.endTask s.cur { s.me with iseq := s.me.iseq + 1, readyAt := s.atIssue.now + 3 })) ∧
    (s.me.inHandler = false → ∀ i ∈ [Instr.rettRetry h f, .rettNext h f, .rettRedo h f, .rettEnd h f], s.Ready i h →
      exec i s = .next (s.atIssue.trapHere s.cur s.me (Instr.op i) 1 (Instr.word i)))

/-- R198, R180: TRAP enters entry 16 at itself with SW and the immediate; BRK enters entry 18, and inside a handler has no effect beyond
its trace event. R199: where each return goes, with ENTRY restored and INTRAP clear; with PREV 31, and for RETT.END, the task ends;
outside a handler a return raises ILLOP. -/
def Obligations.TrapsBreaksAndReturns : Prop := Rule.SoftwareTrapsAndBreaks ∧ Rule.ReturnsFromHandlers

/-- R200, R218, R443: DONE ends the task, and every word popped is retired; with no park asked for, the task boundary follows. -/
def Sys2Proof.Machine.Rule.DoneEndsTheTask : Prop :=
  (∀ (h : Hdr) (f : FmtR) (s : State), s.Ready (.done h f) h → exec (.done h f) s = .next
    (s.atIssue.endTask s.cur { s.me with iseq := s.me.iseq + 1, readyAt := s.atIssue.now + 1 })) ∧
  (∀ (s : State) (k : Nat) (c : Cell), c.rmParkReq = false → ∃ c', s.endTask k c = (s.setCell k c').boundary k ∧
    (∀ i < 8, (c'.inEp i).popped = []) ∧ c'.sys = { c.sys with wde := false, intrap := false, entry := 31 } ∧
    c'.rpl = false ∧ (∀ n, c'.reg n = c.reg n) ∧ c'.slots = c.slots ∧ c'.sems = c.sems ∧ c'.store = c.store ∧
    (∀ o, (∃ i < 8, o ∈ (c.inEp i).popped) → o.src ≠ .chain → ⟨o.src, o.seq, false⟩ ∈ c'.acks))

/-- R169: entry e is dispatched at cell k: PC takes HA[e].PC and ENTRY takes e, and nothing else that a program can see changes
(R442's checkpoint and what R23 counts aside). -/
def Sys2Proof.Machine.Dispatched (s t : State) (k e : Nat) (last : SMap Nat) : Prop :=
  t.cell k = { s.cell k with
    st := .running, pc := field ((s.cell k).haOf e) 0 11, sys := { (s.cell k).sys with entry := BitVec.ofNat 5 e }
    wait := none, step := 0, bpSkip := false, replays := 0, readyAt := s.now + 3, last
    runSince := (t.cell k).runSince, ckpt := (t.cell k).ckpt } ∧
  (t.cell k).ckpt.pc = (t.cell k).pc ∧ (t.cell k).ckpt.g = (s.cell k).g ∧ (∀ j, j ≠ k → t.cell j = s.cell j) ∧ t.mem = s.mem

/-- R168, R169, R23, R20: at a task boundary a pending arrival trap is taken first; then entry 19 if its service is asked for, entry 17 if
the quiesce is ready, and else the picked entry is dispatched, which sets the PC and ENTRY alone and pops nothing; with no runnable
entry the cell is IDLE. -/
def Sys2Proof.Machine.Rule.TaskBoundary : Prop :=
  ∀ (s : State) (k : Nat) (c : Cell), c = s.cell k → c.st = .idle → (∀ i < 8, c.stray i = false) →
    (∀ r rest, c.arrivals = r :: rest → (c.haOf 16).getLsbD 16 = true →
      ∃ t, exec (.taskDispatch k) s = .next t ∧ (t.cell k).pc = field (c.haOf 16) 0 11 ∧
        (t.cell k).sys.entry = 16 ∧ (t.cell k).sys.intrap = false ∧ (t.cell k).sys.tval = r.tval ∧
        field (t.cell k).sys.trap 0 8 = r.cause.toNat ∧ (t.cell k).sys.trap.getLsbD 11 = true ∧ (t.cell k).arrivals = rest) ∧
    (c.arrivals = [] → c.parkWait = none → s.retiring c = false →
      (c.sys.sreq = true → (c.haOf 19).getLsbD 16 = true →
        ∃ t, exec (.taskDispatch k) s = .next t ∧ Dispatched s t k 19 c.last) ∧
      (c.sys.sreq = false → c.qreq = true → (∀ i < 8, (c.inEp i).en = true → (c.inEp i).qc = (c.inEp i).qnp) →
        (c.haOf 17).getLsbD 16 = true → ∃ t, exec (.taskDispatch k) s = .next t ∧ Dispatched s t k 17 c.last) ∧
      (c.sys.sreq = false → c.qreq = false →
        (∀ e lvl, (c.noteRunnable s.now).pick s.now = some (e, lvl) →
          ∃ t, exec (.taskDispatch k) s = .next t ∧ Dispatched s t k e (SMap.put c.last lvl e)) ∧
        ((c.noteRunnable s.now).pick s.now = none →
          ∃ t, exec (.taskDispatch k) s = .next t ∧ (t.cell k).st = .idle ∧ (t.cell k).g = c.g)))

/-- R200, R218, R443: DONE ends the task, and every word popped is retired; with no park asked for, the task boundary follows. R168, R169,
R23, R20: at a task boundary a pending arrival trap is taken first; then entry 19 if its service is asked for, entry 17 if the quiesce is
ready, and else the picked entry is dispatched, which sets the PC and ENTRY alone and pops nothing; with no runnable entry the cell is
IDLE. -/
def Obligations.TasksEndAndBegin : Prop := Rule.DoneEndsTheTask ∧ Rule.TaskBoundary

/-- R197: SVC sends the header word and the argument to the service and stays outstanding; its reply writes D with status 0, and
faults the slot with SVCREJ and the status otherwise. -/
def Sys2Proof.Machine.Rule.ServiceCalls : Prop :=
  (∀ (h : Hdr) (f : FmtI) (s : State) (a : Val) (c c' : Cell),
    s.Ready (.svc h f) h → readSrc s.me f.a f.sa = .ok (a, c) → a.p = false → c.calls.length < 4 → claimDst c f.d = .ok c' →
    s.cur < 2 ^ 18 →
    ∃ w, exec (.svc h f) s = .next (s.retireAsync h { c' with
        calls := c'.calls ++ [{ header := w, arg := a.v, d := f.d, tok := s.me.tok (.svc h f) h }], nonReplay := true }) ∧
      field w 59 5 = field f.imm 24 5 ∧ field w 51 8 = field f.imm 16 8 ∧ field w 35 16 = field f.imm 0 16 ∧
      field w 32 3 = h.es.toNat ∧ field w 14 18 = s.cur % 2 ^ 18 ∧ field w 2 12 = c.ident.dom.toNat ∧ field w 0 2 = 0) ∧
  (∀ (cell k : Nat) (s : State) (q : Call) (status value : Word), (s.cell cell).calls[k]? = some q → q.reply = some (status, value) →
    (status = 0 → q.d.toNat ≤ 55 → ∃ t, exec (.svcReply cell k) s = .next t ∧ (t.cell cell).calls = (s.cell cell).calls.eraseIdx k ∧
      (q.d ≠ 0 → (t.cell cell).reg q.d.toNat = ⟨value, false⟩) ∧ (∀ n, n ≠ q.d.toNat → (t.cell cell).reg n = (s.cell cell).reg n) ∧
      (∀ j, q.tok.slot = some j → (t.cell cell).slot j.toNat = .idle)) ∧
    (status ≠ 0 → ∃ t, exec (.svcReply cell k) s = .next t ∧ (t.cell cell).calls = (s.cell cell).calls.eraseIdx k ∧
      (∀ n, (t.cell cell).reg n = (s.cell cell).reg n) ∧
      (∀ j, q.tok.slot = some j → (t.cell cell).slot j.toNat = .faulted ∧
        ∃ r ∈ (t.cell cell).faults, r.cause = 14 ∧ r.tval = status ∧ r.slot = j)))

/-! ### The queue engine (R204 to R242) -/

/-- R216, R218: a pop takes the head word of port i: HEAD advances by one slot, a slot is free, and the word's sender waits for
retirement; nothing else of the cell changes but its head buffer and its checkpoint's list. -/
def Sys2Proof.Machine.Rule.PopTakesTheHeadWord : Prop :=
  ∀ (c : Cell) (i : Nat), 0 < (c.inEp i).occ →
    ((c.popHead i).inEp i).occ = (c.inEp i).occ - 1 ∧ ((c.popHead i).inEp i).head = (c.inEp i).nth 1 ∧
    ((c.popHead i).inEp i).tail = (c.inEp i).tail ∧ ((c.popHead i).inEp i).metas = (c.inEp i).metas.drop 1 ∧
    (∀ o, (c.inEp i).metas.head? = some o → ((c.popHead i).inEp i).popped = (c.inEp i).popped ++ [o]) ∧
    (∀ j, j ≠ i → (c.popHead i).inEp j = c.inEp j) ∧ (c.popHead i).outs = c.outs ∧ (c.popHead i).g = c.g ∧
    (c.popHead i).store = c.store ∧ (c.popHead i).sys = c.sys ∧ (c.popHead i).acks = c.acks

/-- R210, R212, R217: a word that enters the window of port i takes the next sequence number, stands in the replay buffer at RPH
with its side word, and is unacknowledged by every attached consumer; the local store changes in those 16 bytes alone. -/
def Sys2Proof.Machine.Rule.AWordEntersTheWindow : Prop :=
  ∀ (c : Cell) (i : Nat) (v : Val) (tag : BitVec 3) (pos : BitVec 2) (len : BitVec 10) (a : Nat), c.rpl = false →
    a = (c.outEp i).rpbase.toNat + 16 * (c.outEp i).rph → a % 8 = 0 →
    ∃ x, ((c.enterWindow i v tag pos len).outEp i).ents = (c.outEp i).ents ++ [x] ∧
      x.w.v = v.v ∧ x.w.p = v.p ∧ x.w.tag = tag ∧ x.w.seq = (c.outEp i).seq ∧ x.w.punit = c.ident.unit ∧ x.w.pos = pos ∧
      x.w.len = len ∧ x.slot = (c.outEp i).rph ∧ x.acked = (c.outEp i).det ∧
      ((c.enterWindow i v tag pos len).outEp i).seq = (c.outEp i).seq + 1 ∧
      ((c.outEp i).win ≠ 0 → ((c.enterWindow i v tag pos len).outEp i).rph = ((c.outEp i).rph + 1) % (c.outEp i).win.toNat) ∧
      (c.enterWindow i v tag pos len).ldWord a = v ∧ ((c.enterWindow i v tag pos len).ldWord (a + 8)).v = x.w.side ∧
      (∀ b, b < a ∨ a + 16 ≤ b → Memory.byte (c.enterWindow i v tag pos len).store b = Memory.byte c.store b) ∧
      (∀ j, j ≠ i → (c.enterWindow i v tag pos len).outEp j = c.outEp j) ∧ (c.enterWindow i v tag pos len).g = c.g ∧
      (c.enterWindow i v tag pos len).ins = c.ins

/-- R216, R218: a pop takes the head word of port i: HEAD advances by one slot, a slot is free, and the word's sender waits for
retirement; nothing else of the cell changes but its head buffer and its checkpoint's list. R210, R212, R217: a word that enters the
window of port i takes the next sequence number, stands in the replay buffer at RPH with its side word, and is unacknowledged by every
attached consumer; the local store changes in those 16 bytes alone. -/
def Obligations.WordsLeaveRingsAndEnterWindows : Prop := Rule.PopTakesTheHeadWord ∧ Rule.AWordEntersTheWindow

/-- R231, R234, R237, R242: POP gives the head word and pops it whatever RES holds; PEEK gives word DEPTH and changes nothing of the
ring; POPL moves a message's words to the local store; QSKIP pops U(a) words; RNGRD gives a slot as the local store holds it. -/
def Obligations.InboundPortInstructions : Prop :=
  ∀ (h : Hdr) (f : FmtX) (s : State) (p : Nat), p = field f.ef 0 3 → s.me.binding p = 1 →
    (∀ c1 c2, s.Ready (.pop h f) h → 0 < (s.me.inEp p).occ →
      writeDst ((s.me.popHead p).clearRes p) f.d (s.me.headAt p 0).v = .ok c1 →
      writeDst c1 f.b ⟨(s.me.headAt p 0).side, false⟩ = .ok c2 → exec (.pop h f) s = .next (s.retire h c2)) ∧
    (∀ c1 c2, s.Ready (.peek h f) h → field f.ef 3 2 < (s.me.inEp p).occ →
      writeDst s.me f.d (s.me.headAt p (field f.ef 3 2)).v = .ok c1 →
      writeDst c1 f.b ⟨(s.me.headAt p (field f.ef 3 2)).side, false⟩ = .ok c2 → exec (.peek h f) s = .next (s.retire h c2)) ∧
    (∀ n c1 c2 c3 hs a, s.Ready (.popl h f) h → f.a.toNat ∉ s.me.busy → a = s.me.reg f.a.toNat → a.p = false →
      0 < (s.me.inEp p).occ → n = min (field f.ef 3 10 + 1) (s.me.restOfMessage p) → a.v.toNat % 8 = 0 →
      a.v.toNat + 8 * n ≤ 0x20000 → s.storeBusy s.cur a.v.toNat (8 * n) = false → s.me.popWords p n = (c1, hs) →
      writeDst ((c1.clearRes p).storeWords a.v.toNat (hs.map (fun x => x.v))) f.d ⟨BitVec.ofNat 64 n, false⟩ = .ok c2 →
      writeDst c2 f.b ⟨((hs.head?.map HeadEnt.side).getD 0), false⟩ = .ok c3 →
      ∃ t, exec (.popl h f) s = .next t ∧ (t.cell s.cur).g = c3.g ∧ (t.cell s.cur).ins = c3.ins ∧
        (t.cell s.cur).store = c3.store ∧ (t.cell s.cur).pc = s.me.pc + 1) ∧
    (∀ a, s.Ready (.qskip h f) h → f.a.toNat ∉ s.me.busy → a = s.me.reg f.a.toNat → a.p = false → s.me.step = 0 →
      0 < a.v.toNat → a.v.toNat ≤ (s.me.inEp p).occ →
      ∃ t, exec (.qskip h f) s = .next t ∧ (t.cell s.cur).ins = ((s.me.popMany p a.v.toNat).clearRes p).ins ∧
        ((t.cell s.cur).inEp p).res = none ∧ (t.cell s.cur).g = s.me.g ∧ (t.cell s.cur).pc = s.me.pc + 1) ∧
    (∀ a c1 c2, s.Ready (.rngrd h f) h → f.a.toNat ∉ s.me.busy → a = s.me.reg f.a.toNat → a.p = false →
      writeDst s.me f.d (s.me.ringSlot p ((s.me.inEp p).nth a.v.toNat)).v = .ok c1 →
      writeDst c1 f.b ⟨(s.me.ringSlot p ((s.me.inEp p).nth a.v.toNat)).side, false⟩ = .ok c2 →
      exec (.rngrd h f) s = .next (s.retire h c2))

/-- R232, R233, R238: PUSH sends one word with its tag, PUSHL a message of L words of the local store, QDIV the head word with the
rest of its message on the divert edge. -/
def Obligations.OutboundPortInstructions : Prop :=
  ∀ (h : Hdr) (f : FmtX) (s : State) (p : Nat), p = field f.ef 0 3 →
    (∀ a c1 c2, s.Ready (.push h f) h → readSrc s.me f.a 0 = .ok (a, c1) → push c1 p a (f.ef.extractLsb' 3 3) 1 = .ok c2 →
      exec (.push h f) s = .next (s.retire h c2)) ∧
    (∀ n a b, s.Ready (.pushl h f) h → s.me.binding p = 2 → f.a.toNat ∉ s.me.busy → f.b.toNat ∉ s.me.busy →
      a = s.me.reg f.a.toNat → b = s.me.reg f.b.toNat → a.p = false → b.p = false →
      n = (if bit f.ef 6 then b.v.toNat else field f.ef 7 10 + 1) → 0 < n → n ≤ (s.me.outEp p).win.toNat →
      n ≤ (s.me.outEp p).room → a.v.toNat % 8 = 0 → a.v.toNat + 8 * n ≤ 0x20000 →
      s.storeBusy s.cur a.v.toNat (8 * n) = false →
      checkWords s.me p (f.ef.extractLsb' 3 3) 1 (s.me.localWords a.v.toNat n) = .ok () →
      ∃ t, exec (.pushl h f) s = .next t ∧
        (t.cell s.cur).outs = (s.me.enterMessage p (f.ef.extractLsb' 3 3) (s.me.localWords a.v.toNat n)).outs ∧
        (t.cell s.cur).g = s.me.g ∧ (t.cell s.cur).pc = s.me.pc + 1) ∧
    (∀ b, s.Ready (.pushl h f) h → s.me.binding p = 2 → f.a.toNat ∉ s.me.busy → f.b.toNat ∉ s.me.busy → bit f.ef 6 = true →
      b = s.me.reg f.b.toNat → b = ⟨0, false⟩ →
      exec (.pushl h f) s = .next (s.retire h s.me)) ∧
    (∀ n c1 hs, s.Ready (.qdiv h f) h → s.me.binding p = 1 → (s.me.inEp p).diven = true → 0 < (s.me.inEp p).occ →
      n = s.me.restOfMessage p → n ≤ (s.me.outEp p).room → s.me.popWords p n = (c1, hs) →
      checkWords s.me p 0 0 (hs.map HeadEnt.v) = .ok () →
      ∃ t, exec (.qdiv h f) s = .next t ∧
        (t.cell s.cur).outs = (((c1.retireLast p n).clearRes p).enterMessage p
          (BitVec.ofNat 3 (field (s.me.headAt p 0).side 0 3)) (hs.map HeadEnt.v)).outs ∧
        ((t.cell s.cur).inEp p).res = none ∧ (t.cell s.cur).pc = s.me.pc + 1)

/-- R235, R237, R239: what the readings of a port give. -/
def Sys2Proof.Machine.Rule.PortReadings : Prop :=
  ∀ (h : Hdr) (f : FmtX) (s : State) (p : Nat) (c' : Cell), p = field f.ef 0 3 →
    (∀ n, s.Ready (.qlen h f) h → (s.me.binding p = 1 ∧ n = (s.me.inEp p).occ ∨ s.me.binding p = 2 ∧ n = (s.me.outEp p).ents.length ∨
        s.me.binding p = 3 ∧ n = s.me.phaseOut.length) →
      writeDst s.me f.d ⟨BitVec.ofNat 64 n, false⟩ = .ok c' → exec (.qlen h f) s = .next (s.retire h c')) ∧
    (∀ n, s.Ready (.qroom h f) h → (s.me.binding p = 1 ∧ n = (s.me.inEp p).slots - (s.me.inEp p).occ ∨
        s.me.binding p = 2 ∧ n = (s.me.outEp p).win.toNat - (s.me.outEp p).ents.length ∨
        s.me.binding p = 3 ∧ n = 16 - s.me.phaseOut.length) →
      writeDst s.me f.d ⟨BitVec.ofNat 64 n, false⟩ = .ok c' → exec (.qroom h f) s = .next (s.retire h c')) ∧
    (s.Ready (.qseq h f) h → s.me.binding p = 2 → writeDst s.me f.d ⟨BitVec.ofNat 64 (s.me.outEp p).seq.toNat, false⟩ = .ok c' →
      exec (.qseq h f) s = .next (s.retire h c')) ∧
    (∀ a, s.Ready (.qwaitn h f) h → s.me.binding p = 1 → f.a.toNat ∉ s.me.busy → a = s.me.reg f.a.toNat → a.p = false →
      a.v.toNat ≤ (s.me.inEp p).slots → a.v.toNat ≤ (s.me.inEp p).occ →
      writeDst s.me f.d ⟨BitVec.ofNat 64 (s.me.inEp p).occ, false⟩ = .ok c' → exec (.qwaitn h f) s = .next (s.retire h c')) ∧
    (∀ m : BitVec 8, s.Ready (.qsleep h f) h → m = f.ef.extractLsb' 3 8 → (∀ i < 8, m.getLsbD i = true → s.me.binding i = 1) →
      (∃ i < 8, m.getLsbD i = true ∧ 0 < (s.me.inEp i).occ) →
      writeDst s.me f.d ⟨(s.me.headMask m).zeroExtend 64, false⟩ = .ok c' → exec (.qsleep h f) s = .next (s.retire h c'))

/-- R236: QBIND binds a port and empties its residual count, QTAG.OUT and QTAG.IN set its tags, QSTK its long sticky count. -/
def Sys2Proof.Machine.Rule.PortSettings : Prop :=
  ∀ (h : Hdr) (f : FmtX) (s : State) (p : Nat), p = field f.ef 0 3 →
    (s.Ready (.qbind h f) h → (field f.ef 3 2 = 1 → (s.me.inEp p).en = true) →
      (field f.ef 3 2 = 2 → (s.me.outEp p).en = true ∧ (s.me.inEp p).diven = false) →
      (field f.ef 3 2 = 3 → s.me.phaseq.getLsbD 31 = true) →
      ∃ t, exec (.qbind h f) s = .next t ∧ ((t.cell s.cur).binding p).toNat = field f.ef 3 2 ∧
        ((t.cell s.cur).inEp p) = { s.me.inEp p with res := none } ∧ (∀ j, j ≠ p → (t.cell s.cur).binding j = s.me.binding j) ∧
        (∀ j, j ≠ p → (t.cell s.cur).inEp j = s.me.inEp j) ∧ (t.cell s.cur).outs = s.me.outs ∧ (t.cell s.cur).g = s.me.g) ∧
    (s.Ready (.qtagOut h f) h → s.me.binding p = 2 →
      exec (.qtagOut h f) s = .next (s.retire h (s.me.setOut p { s.me.outEp p with deftag := f.ef.extractLsb' 3 3 }))) ∧
    (s.Ready (.qtagIn h f) h → s.me.binding p = 1 →
      exec (.qtagIn h f) s = .next (s.retire h (s.me.setIn p { s.me.inEp p with acc := f.ef.extractLsb' 3 8 }))) ∧
    (s.Ready (.qstk h f) h → s.me.binding p = 1 →
      exec (.qstk h f) s = .next (s.retire h (s.me.setIn p { s.me.inEp p with stk := f.ef.extractLsb' 3 16 })))

/-- R235, R237, R239: what the readings of a port give. R236: QBIND binds a port and empties its residual count, QTAG.OUT and QTAG.IN set
its tags, QSTK its long sticky count. -/
def Obligations.PortReadingsAndSettings : Prop := Rule.PortReadings ∧ Rule.PortSettings

/-- R240, R442: QMARK retires the words popped from its ports and writes a checkpoint; QFLUSH completes when the words that were in
the window are stored, or retired, by every attached consumer: with EE = 1 its token fires then, with EE = 0 it sleeps till then. -/
def Sys2Proof.Machine.Rule.MarksAndFlushes : Prop :=
  ∀ (h : Hdr) (f : FmtX) (s : State),
    (s.Ready (.qmark h f) h → ∃ t, exec (.qmark h f) s = .next t ∧
      (∀ i < 8, (if field f.ef 3 8 = 0 then s.me.binding i = 1 else (f.ef.extractLsb' 3 8 : BitVec 8).getLsbD i = true) →
        ((t.cell s.cur).inEp i).popped = [] ∧
        (∀ o ∈ (s.me.inEp i).popped, o.src ≠ .chain → ⟨o.src, o.seq, false⟩ ∈ (t.cell s.cur).acks)) ∧
      (t.cell s.cur).ckpt.pc = s.me.pc + 1 ∧ (t.cell s.cur).ckpt.g = s.me.g ∧ (t.cell s.cur).ckpt.pops = [] ∧
      (t.cell s.cur).ckpt.sems = s.me.sems ∧ (t.cell s.cur).g = s.me.g ∧ (t.cell s.cur).outs = s.me.outs) ∧
    (s.Ready (.qflush h f) h → s.me.binding (field f.ef 0 3) = 2 → (s.me.outEp (field f.ef 0 3)).ents = [] →
      exec (.qflush h f) s = .next (s.retire h s.me)) ∧
    (s.Ready (.qflush h f) h → s.me.binding (field f.ef 0 3) = 2 → h.ee = true →
      s.me.flushedTo (field f.ef 0 3) (bit f.ef 3) (s.me.outEp (field f.ef 0 3)).seq.toNat = false →
      exec (.qflush h f) s = .next (s.retireAsync h { s.me with flushes := s.me.flushes ++
        [⟨field f.ef 0 3, bit f.ef 3, (s.me.outEp (field f.ef 0 3)).seq.toNat, s.me.tok (.qflush h f) h⟩] })) ∧
    (s.Ready (.qflush h f) h → s.me.binding (field f.ef 0 3) = 2 → h.ee = false →
      s.me.flushedTo (field f.ef 0 3) (bit f.ef 3) (s.me.outEp (field f.ef 0 3)).seq.toNat = false →
      ∃ t, exec (.qflush h f) s = .next t ∧ (t.cell s.cur).st = .asleep ∧ (t.cell s.cur).pc = s.me.pc ∧
        (t.cell s.cur).outs = s.me.outs ∧ (t.cell s.cur).g = s.me.g)

/-- R225, R241: the counter chain is set while it stands, started, stopped and read. -/
def Sys2Proof.Machine.Rule.CounterChainInstructions : Prop :=
  ∀ (h : Hdr) (f : FmtX) (s : State) (a : Val), a = s.me.reg f.a.toNat →
    (s.Ready (.ccfgLim h f) h → s.me.chain.run = false → f.a.toNat ∉ s.me.busy → a.p = false → a.v.toNat ≤ 65536 →
      exec (.ccfgLim h f) s = .next (s.retire h { s.me with
        chain := { s.me.chain with lim := SMap.put s.me.chain.lim (field f.ef 0 2) a.v.toNat } })) ∧
    (s.Ready (.ccfgMode h f) h → s.me.chain.run = false → f.a.toNat ∉ s.me.busy → a.p = false → a.v.toNat < 32 →
      (s.me.inEp (field a.v 0 3)).en = true →
      exec (.ccfgMode h f) s = .next (s.retire h { s.me with
        chain := { s.me.chain with port := a.v.extractLsb' 0 3, idx := a.v.getLsbD 3, mark := a.v.getLsbD 4 } })) ∧
    (s.Ready (.cstart h f) h → s.me.chain.run = false → s.me.chain.noGap = true → (s.me.chain.idx || s.me.chain.mark) = true →
      ∃ t, exec (.cstart h f) s = .next t ∧ (t.cell s.cur).chain.run = true ∧ (t.cell s.cur).chain.done = false ∧
        (t.cell s.cur).chain.lim = s.me.chain.lim ∧ (t.cell s.cur).g = s.me.g ∧ (t.cell s.cur).pc = s.me.pc + 1 ∧
        (f.ef.getLsbD 0 = true → (t.cell s.cur).chain.ind = s.me.chain.ind ∧ (t.cell s.cur).chain.seq = s.me.chain.seq) ∧
        (f.ef.getLsbD 0 = false → (t.cell s.cur).chain.ind = [] ∧ (t.cell s.cur).chain.seq = 0)) ∧
    (s.Ready (.cstop h f) h → (s.me.chain.run = false → exec (.cstop h f) s = .next (s.retire h s.me)) ∧
      (s.me.chain.run = true → s.me.chain.marks = [] → ∃ t, exec (.cstop h f) s = .next t ∧
        (t.cell s.cur).chain.run = false ∧ (t.cell s.cur).chain.done = false ∧ (t.cell s.cur).chain.ind = s.me.chain.ind ∧
        (t.cell s.cur).g = s.me.g ∧ (t.cell s.cur).pc = s.me.pc + 1)) ∧
    (∀ c', s.Ready (.cread h f) h →
      writeDst s.me f.d ⟨if f.ef.getLsbD 0 then s.me.chain.stat else s.me.chain.idxWord, false⟩ = .ok c' →
      exec (.cread h f) s = .next (s.retire h c'))

/-- R240, R442: QMARK retires the words popped from its ports and writes a checkpoint; QFLUSH completes when the words that were in the
window are stored, or retired, by every attached consumer: with EE = 1 its token fires then, with EE = 0 it sleeps till then. R225, R241:
the counter chain is set while it stands, started, stopped and read. -/
def Obligations.MarksFlushesAndCounterChains : Prop := Rule.MarksAndFlushes ∧ Rule.CounterChainInstructions

/-! ### What the queue engine does by itself (R213 to R225, R435, R447), and the phase (R28 to R31) -/

/-- A message of source src stands to be stored at inbound port i of cell k: it is for this module, on no circuit and not a marker, its
domain runs in the row and is the cell's, the port is enabled and accepts its tag, no rewind waits for it, and the ring has room, with no
message waiting ahead of it and none of its groups being rebuilt. -/
structure Sys2Proof.Machine.Deliverable (s : State) (src : Src) (k i : Nat) (ws : List QWord) : Prop where
  words : s.nextMessage src = ws
  some_ : ws ≠ []
  source : (∃ c p n, src = .cell c p n) ∨ (∃ e, src = .eag e) ∨ (∃ p q, src = .host p q)
  onModule : s.toHost src = none ∧ s.onCircuit src = none ∧ dstModule (s.destOf src) = s.modNo
  there : dstCell (s.destOf src) = k ∧ dstPort (s.destOf src) = i
  noMarker : ∀ w ∈ ws, w.isCtl 2 = false
  domain : ∀ w ∈ ws.head?, (s.row (yOf k)).domState w.ddom.toNat = 1 ∧ (s.cell k).ident.dom = w.ddom ∧
    ((s.cell k).inEp i).acc.getLsbD w.tag.toNat = true
  enabled : ((s.cell k).inEp i).en = true
  noRewind : (s.cell k).rewinds = []
  room : ws.length + ((s.cell k).inEp i).occ ≤ ((s.cell k).inEp i).slots
  first : ((s.cell k).inEp i).waiting = []
  whole : s.portBusy k i = false

/-- R213, R212: a message that arrives is stored whole: the words take the slots from TAIL on, in order, OCC grows by their number and
their senders are kept; a word stands in its slot with its side word. -/
def Sys2Proof.Machine.Rule.MessagesAreStored : Prop :=
  ∀ (s : State) (src : Src) (k i : Nat) (ws : List QWord), Deliverable s src k i ws →
    ∃ t, exec (.queueMessageArrival src) s = .next t ∧
      ((t.cell k).inEp i).occ = ((s.cell k).inEp i).occ + ws.length ∧
      ((t.cell k).inEp i).head = ((s.cell k).inEp i).head ∧
      ((t.cell k).inEp i).metas = ((s.cell k).inEp i).metas ++ ws.map (fun w => ⟨src, w.seq⟩) ∧
      (((s.cell k).inEp i).tail < ((s.cell k).inEp i).slots →
        ((t.cell k).inEp i).tail = (((s.cell k).inEp i).tail + ws.length) % ((s.cell k).inEp i).slots) ∧
      (∀ w, ws = [w] → ((s.cell k).inEp i).rbase.toNat % 8 = 0 →
        (t.cell k).ldWord (((s.cell k).inEp i).slotAddr ((s.cell k).inEp i).tail) = ⟨w.v, w.p⟩ ∧
        ((t.cell k).ldWord (((s.cell k).inEp i).slotAddr ((s.cell k).inEp i).tail + 8)).v = w.side) ∧
      (∀ j, j ≠ i → (t.cell k).inEp j = (s.cell k).inEp j) ∧ (t.cell k).g = (s.cell k).g ∧ t.mem = s.mem

/-- R213, R77, R218: a message whose tag the port does not accept and cannot divert is acknowledged without being stored, with a QTAG
arrival trap; one that is longer than the ring, with an OVERSIZE trap. -/
def Sys2Proof.Machine.Rule.RefusedMessagesTrap : Prop :=
  ∀ (s : State) (k i : Nat) (m : Msg) (w : QWord) (rest : List QWord) (e : InEp), e = (s.cell k).inEp i → m.words = w :: rest →
    w.isCtl 6 = false → (∃ c p n, m.src = .cell c p n) → (s.cell k).arrivals.length < 4 →
    e.waiting = [] →
    (e.acc.getLsbD w.tag.toNat = false → e.diven = false →
      ((s.arrive k i m).cell k).arrivals = (s.cell k).arrivals ++ [⟨9, BitVec.ofNat 64 (i + 8 * w.tag.toNat)⟩] ∧
      ((s.arrive k i m).cell k).acks = (s.cell k).acks ++ m.words.map (fun x => ⟨m.src, x.seq, false⟩) ∧
      (((s.arrive k i m).cell k).inEp i).tagf = true ∧ (((s.arrive k i m).cell k).inEp i).occ = e.occ) ∧
    (e.acc.getLsbD w.tag.toNat = true → e.slots < m.words.length →
      ((s.arrive k i m).cell k).arrivals = (s.cell k).arrivals ++ [⟨10, BitVec.ofNat 64 (i + m.words.length * 2 ^ 16)⟩] ∧
      ((s.arrive k i m).cell k).acks = (s.cell k).acks ++ m.words.map (fun x => ⟨m.src, x.seq, false⟩) ∧
      (((s.arrive k i m).cell k).inEp i).ovr = true ∧ (((s.arrive k i m).cell k).inEp i).occ = e.occ)

/-- R214, R447, R225: a message that waited is stored when it fits; a QUIESCE marker raises QREQ with its cut number and is counted;
the counter chain writes its next index word into its ring. -/
def Sys2Proof.Machine.Rule.DeferredStoresMarkersAndChainWords : Prop :=
  (∀ (s : State) (cell port : Nat) (m : Msg) (rest : List Msg) (e : InEp), e = (s.cell cell).inEp port → e.waiting = m :: rest →
    m.words.length + e.occ ≤ e.slots → (∀ w ∈ m.words.head?, e.acc.getLsbD w.tag.toNat = true) → s.portBusy cell port = false →
    ∃ t, exec (.queueMessageStoreDeferred cell port) s = .next t ∧ ((t.cell cell).inEp port).waiting = rest ∧
      ((t.cell cell).inEp port).occ = e.occ + m.words.length ∧
      ((t.cell cell).inEp port).metas = e.metas ++ m.words.map (fun w => ⟨m.src, w.seq⟩)) ∧
  (∀ (s : State) (a p n k i : Nat) (w : QWord), s.nextMessage (.cell a p n) = [w] → w.isCtl 2 = true → a ≠ k →
    s.toHost (.cell a p n) = none → dstModule (s.destOf (.cell a p n)) = s.modNo → dstCell (s.destOf (.cell a p n)) = k →
    dstPort (s.destOf (.cell a p n)) = i → (s.row (yOf k)).domState w.ddom.toNat = 1 → (s.cell k).ident.dom = w.ddom →
    ((s.cell k).inEp i).en = true → ((s.cell k).rewindTest i w 1).1 = true → ((s.cell k).qreq = true → (s.cell k).qcut = w.v.extractLsb' 0 32) →
    ∃ t, exec (.quiesceArrival (.cell a p n)) s = .next t ∧ (t.cell k).qreq = true ∧ (t.cell k).qcut = w.v.extractLsb' 0 32 ∧
      ((t.cell k).inEp i).qc = ((s.cell k).inEp i).qc + 1 ∧ ((t.cell k).inEp i).occ = ((s.cell k).inEp i).occ ∧
      (t.cell k).acks = (s.cell k).acks ++ [⟨.cell a p n, w.seq, false⟩]) ∧
  (∀ (s : State) (cell i : Nat) (x : Chain), x = (s.cell cell).chain → i = x.port.toNat → x.run = true → x.marks = [] → x.ranOut = false →
    x.idx = true → x.stopping = false → x.indOf 0 + 1 < x.limOf 0 → ((s.cell cell).inEp i).waiting = [] → s.portBusy cell i = false →
    ((s.cell cell).inEp i).occ < ((s.cell cell).inEp i).slots → ((s.cell cell).inEp i).acc.getLsbD 0 = true →
    ((s.cell cell).inEp i).en = true → ((s.cell cell).inEp i).rbase.toNat % 8 = 0 →
    ∃ t, exec (.counterChainEmit cell) s = .next t ∧ ((t.cell cell).inEp i).occ = ((s.cell cell).inEp i).occ + 1 ∧
      ((t.cell cell).ldWord (((s.cell cell).inEp i).slotAddr ((s.cell cell).inEp i).tail)).v = x.idxWord ∧
      (t.cell cell).chain.indOf 0 = x.indOf 0 + 1 ∧ (t.cell cell).chain.run = true ∧ (t.cell cell).chain.seq = x.seq + 1)

/-- R213, R212: a message that arrives is stored whole: the words take the slots from TAIL on, in order, OCC grows by their number and
their senders are kept; a word stands in its slot with its side word. R213, R77, R218: a message whose tag the port does not accept and
cannot divert is acknowledged without being stored, with a QTAG arrival trap; one that is longer than the ring, with an OVERSIZE trap.
R214, R447, R225: a message that waited is stored when it fits; a QUIESCE marker raises QREQ with its cut number and is counted; the
counter chain writes its next index word into its ring. -/
def Obligations.MessagesArrive : Prop := Rule.MessagesAreStored ∧ Rule.RefusedMessagesTrap ∧ Rule.DeferredStoresMarkersAndChainWords

/-- R217, R218, R435, R221: an acknowledgement frees the head of the producer's window; a NACK does so too and sets OST.NACK; words held
for a SUSPENDED domain are sent again; the laggard timeout detaches the consumers that lag, unless all do. -/
def Obligations.WindowsAreFreed : Prop :=
  (∀ (s : State) (cell c p : Nat) (a : Ack) (rest : List Ack) (x : WinEnt) (xs : List WinEnt), (s.cell cell).acks = a :: rest →
    a.src = .cell c p 0 → p < 8 → ((s.cell c).outEp p).ents = x :: xs → x.w.seq = a.seq → ((s.cell c).outEp p).mcm1 = 0 →
    (∀ y ∈ xs, y.w.seq ≠ a.seq ∧ y.acked.getLsbD 0 = false) →
    (a.nack = false → ∃ t, exec (.wordAck cell) s = .next t ∧ ((t.cell c).outEp p).ents = xs ∧ (t.cell cell).acks = rest ∧
      ((t.cell c).outEp p).nack = ((s.cell c).outEp p).nack ∧ (t.cell c).g = (s.cell c).g) ∧
    (a.nack = true → ∃ t, exec (.wordNack cell) s = .next t ∧ ((t.cell c).outEp p).ents = xs ∧ (t.cell cell).acks = rest ∧
      ((t.cell c).outEp p).nack = true ∧ (t.cell c).g = (s.cell c).g)) ∧
  (∀ (s : State) (c p n : Nat), ∃ t, exec (.suspendedResend (.cell c p n)) s = .next t ∧
    ((t.cell c).outEp p).ents = ((s.cell c).outEp p).ents.map (fun x => { x with held := setBit x.held n false }) ∧
    (∀ k, k ≠ c → t.cell k = s.cell k)) ∧
  (∀ (s : State) (cell port : Nat) (e : OutEp) (x : WinEnt) (xs : List WinEnt) (lag : BitVec 8), e = (s.cell cell).outEp port →
    (s.cell cell).blocked port = true → e.lagt ≠ 3 → (s.cell cell).waitAt + 2 ^ (16 + 4 * e.lagt.toNat) ≤ s.now →
    e.ents = x :: xs → lag = e.consumers &&& ~~~x.acked → lag ≠ e.consumers → (s.row (yOf cell)).fq.length < 1024 →
    ∃ t, exec (.laggardTimeout cell port) s = .next t ∧ ((t.cell cell).outEp port).det = e.det ||| lag ∧
      ((t.cell cell).outEp port).ents.length < e.ents.length ∧
      (∃ w v, (t.row (yOf cell)).fq = (s.row (yOf cell)).fq ++ [(w, v)] ∧ field w 56 8 = 7))

/-- R29 to R31: a return word of weight 2^(255 - E) lowers D at the root, and the phase ends when D is 0; a borrow request raises D by
2^247 and is answered by a grant word with E = 8 for the cell and port that it names, at once or once D has room. -/
def Obligations.TheRootCountsTheWeight : Prop :=
  (∀ (s : State) (cell root : Nat) (w : QWord) (rest : List QWord), root = dstCell (s.cell cell).phaseq → cell ≠ root →
    dstModule (s.cell cell).phaseq = s.modNo → (s.cell cell).phaseSent = 0 → (s.cell cell).phaseOut = w :: rest →
    s.grantDue root = false → w.p = false → w.isCtl 3 = true → field w.v 46 2 = 1 → field w.v 0 46 = 0 →
    2 ^ (255 - field w.v 48 8) ≤ (s.cell root).phaseD → (s.cell root).phaseD ≠ 0 →
    ∃ t, exec (.phaseReturn cell) s = .next t ∧ (t.cell cell).phaseOut = rest ∧
      (t.cell root).phaseD = (s.cell root).phaseD - 2 ^ (255 - field w.v 48 8) ∧
      ((s.cell root).phaseD = 2 ^ (255 - field w.v 48 8) → (t.cell root).phaseEnd = true)) ∧
  (∀ (s : State) (cell root : Nat) (w : QWord) (rest : List QWord), root = dstCell (s.cell cell).phaseq → cell ≠ root →
    dstModule (s.cell cell).phaseq = s.modNo → (s.cell cell).phaseSent = 0 → (s.cell cell).phaseOut = w :: rest →
    (s.cell root).borrows = [] → w.p = false → w.isCtl 3 = true → field w.v 46 2 = 2 → field w.v 0 25 = 0 → (s.cell root).phaseD ≠ 0 →
    (s.cell root).phaseD + 2 ^ 247 < 2 ^ 256 →
    ∃ t g, exec (.borrowRequest cell) s = .next t ∧ (t.cell cell).phaseOut = rest ∧
      (t.cell root).phaseD = (s.cell root).phaseD + 2 ^ 247 ∧ t.net = s.net ++ [g] ∧ g.cell = field w.v 28 18 ∧
      g.port.toNat = field w.v 25 3 ∧ field g.w.v 56 8 = 3 ∧ field g.w.v 48 8 = 8 ∧ field g.w.v 46 2 = 3 ∧ g.w.tag = 7) ∧
  (∀ (s : State) (root m : Nat) (v : Word) (rest : List (Nat × Word)), (s.cell root).borrows = (m, v) :: rest → m = s.modNo.toNat →
    (s.cell root).phaseD + 2 ^ 247 < 2 ^ 256 →
    ∃ t g, exec (.borrowGrantDeferred root) s = .next t ∧ (t.cell root).borrows = rest ∧
      (t.cell root).phaseD = (s.cell root).phaseD + 2 ^ 247 ∧ t.net = s.net ++ [g] ∧ g.cell = field v 28 18 ∧
      field g.w.v 56 8 = 3 ∧ field g.w.v 48 8 = 8)

/-! ### Semaphores, copies and edge address generators (R244 to R265) -/

/-- R244, R245, R266, R267: a semaphore holds 40 bits and OVF; SINC adds S(a) and clamps, SSET sets, SRD reads, SWAIT waits for a
threshold and SWAITD subtracts it. -/
def Obligations.SemaphoreInstructions : Prop :=
  ∀ (h : Hdr) (f : FmtX) (s : State) (n : Nat) (a : Val), n = field f.ef 0 4 → a = s.me.reg f.a.toNat → f.a.toNat ∉ s.me.busy →
    (∀ x : Int, s.Ready (.sinc h f) h → a.p = false → x = (s.me.sem n).value.toNat + a.v.toInt →
      exec (.sinc h f) s = .next (s.retire h (s.me.setSem n
        (if x < 0 then ⟨0, true⟩ else if 2 ^ 40 ≤ x then ⟨BitVec.ofNat 40 (2 ^ 40 - 1), true⟩
          else ⟨BitVec.ofInt 40 x, (s.me.sem n).ovf⟩)))) ∧
    (s.Ready (.sset h f) h → a.p = false →
      exec (.sset h f) s = .next (s.retire h (s.me.setSem n
        (if 2 ^ 40 ≤ a.v.toNat then ⟨BitVec.ofNat 40 (2 ^ 40 - 1), true⟩ else ⟨BitVec.ofNat 40 a.v.toNat, false⟩)))) ∧
    (∀ c', s.Ready (.srd h f) h →
      writeDst s.me f.d ⟨BitVec.ofNat 64 ((if (s.me.sem n).ovf then 2 ^ 40 else 0) + (s.me.sem n).value.toNat), false⟩ = .ok c' →
      exec (.srd h f) s = .next (s.retire h c')) ∧
    (s.Ready (.swait h f) h → a.p = false → a.v.toNat ≤ (s.me.sem n).value.toNat →
      s.me.st = .running ∨ SMap.get 0 s.me.dbg.f 13 = 0 →
      exec (.swait h f) s = .next (s.retire h s.me)) ∧
    (∀ c', s.Ready (.swaitd h f) h → a.p = false → a.v.toNat ≤ (s.me.sem n).value.toNat →
      s.me.st = .running ∨ SMap.get 0 s.me.dbg.f 13 = 0 →
      writeDst (s.me.setSem n { s.me.sem n with value := (s.me.sem n).value - BitVec.ofNat 40 a.v.toNat }) f.d
        ⟨((s.me.sem n).value - BitVec.ofNat 40 a.v.toNat).zeroExtend 64, false⟩ = .ok c' →
      exec (.swaitd h f) s = .next (s.retire h c'))

/-- A copy command joins the queue of the cell's block, is outstanding, and its token is pending; no register and no byte changes. -/
def Sys2Proof.Machine.CopyJoins (s : State) (h : Hdr) (i : Instr) (form dst src len rows : Nat) (sstr dstr : Int) (target : Nat)
    (se : Bool) (sem : Nat) : Prop :=
  ∃ t m, exec i s = .next t ∧ (t.block (blockOf s.cur)).copyq = (s.block (blockOf s.cur)).copyq ++ [m] ∧
    m.cell = s.cur ∧ m.form = form ∧ m.dst = dst ∧ m.src = src ∧ m.len = len ∧ m.rows = rows ∧ m.sstr = sstr ∧ m.dstr = dstr ∧
    m.target = target ∧ m.se = se ∧ m.sem = sem ∧ m.dom = s.me.ident.dom ∧ m.tok = s.me.tok i h ∧
    (t.cell s.cur).copies = s.me.copies ++ [s.me.iseq] ∧ (h.ee = true → (t.cell s.cur).slot h.es.toNat = .pending) ∧
    (t.cell s.cur).g = s.me.g ∧ (t.cell s.cur).store = s.me.store ∧ t.mem = s.mem ∧ (t.cell s.cur).pc = s.me.pc + 1

/-- R262, R263: the four copy commands at their issue: between the local store and global memory by one row or by rows, between global
addresses, and into the local store of another cell. -/
def Sys2Proof.Machine.Rule.CopiesAreIssued : Prop :=
  ∀ (h : Hdr) (f : FmtX) (s : State) (d a b c : Val), d = s.me.reg f.d.toNat → a = s.me.reg f.a.toNat → b = s.me.reg f.b.toNat →
    c = s.me.reg f.c.toNat → (∀ n ≤ 55, n ∉ s.me.busy) → d.p = false → a.p = false → b.p = false → c.p = false →
    d.v.toNat % 8 = 0 → a.v.toNat % 8 = 0 → 0 < b.v.toNat → b.v.toNat < 2 ^ 40 → s.me.copies.length < 4 →
    (s.Ready (.cpy h f) h → bit f.ef 5 = false → d.v.toNat + b.v.toNat ≤ 0x20000 → a.v.toNat + b.v.toNat ≤ 2 ^ 57 →
      CopyJoins s h (.cpy h f) 0 d.v.toNat a.v.toNat b.v.toNat 1 0 0 0 (bit f.ef 4) (field f.ef 0 4)) ∧
    (s.Ready (.cpy h f) h → bit f.ef 5 = true → a.v.toNat + b.v.toNat ≤ 0x20000 → d.v.toNat + b.v.toNat ≤ 2 ^ 57 →
      CopyJoins s h (.cpy h f) 1 d.v.toNat a.v.toNat b.v.toNat 1 0 0 0 (bit f.ef 4) (field f.ef 0 4)) ∧
    (∀ (rows : Nat) (ss ds : Int), s.Ready (.cpys h f) h → rows = field c.v 48 16 → ss = (c.v.extractLsb' 24 24).toInt →
      ds = (c.v.extractLsb' 0 24).toInt → 0 < rows → rows * b.v.toNat < 2 ^ 40 → ss % 8 = 0 → ds % 8 = 0 → bit f.ef 5 = false →
      (∀ r : Nat, r < rows → 0 ≤ d.v.toNat + ds * r ∧ d.v.toNat + ds * r + b.v.toNat ≤ 0x20000 ∧ 0 ≤ a.v.toNat + ss * r ∧
        a.v.toNat + ss * r + b.v.toNat ≤ 2 ^ 57) →
      CopyJoins s h (.cpys h f) 0 d.v.toNat a.v.toNat b.v.toNat rows ss ds c.v.toNat (bit f.ef 4) (field f.ef 0 4)) ∧
    (s.Ready (.cpyg h f) h → d.v.toNat + b.v.toNat ≤ 2 ^ 57 → a.v.toNat + b.v.toNat ≤ 2 ^ 57 →
      CopyJoins s h (.cpyg h f) 2 d.v.toNat a.v.toNat b.v.toNat 1 0 0 0 (bit f.ef 4) (field f.ef 0 4)) ∧
    (s.Ready (.cpyd h f) h → d.v.toNat + b.v.toNat ≤ 0x20000 → a.v.toNat + b.v.toNat ≤ 0x20000 → c.v.toNat ≤ 262143 →
      CopyJoins s h (.cpyd h f) 3 d.v.toNat a.v.toNat b.v.toNat 1 0 0 c.v.toNat (bit f.ef 4) (field f.ef 0 4))

/-- R248, R249, R251, R253: a command starts while fewer than 8 run, or asks for leave first when it is long; a copy into another cell of
the load delivers every byte, adds their number to the target's semaphore and fires its token. -/
def Sys2Proof.Machine.Rule.CopiesRun : Prop :=
  (∀ (s : State) (block : Nat) (m : CopyCmd) (rest : List CopyCmd), (s.block block).copyq = m :: rest →
    (m.total ≤ 1048576 → (s.block block).running.length < 8 → ∃ t, exec (.copyStart block) s = .next t ∧
      (t.block block).copyq = rest ∧ (t.block block).running = (s.block block).running ++ [m]) ∧
    (1048576 < m.total → m.leave = 0 → ∃ t, exec (.copyStart block) s = .next t ∧
      (t.block block).copyq = { m with leave := 1 } :: rest ∧ (t.block block).running = (s.block block).running ∧
      (t.block block).reqs = (s.block block).reqs ++ [⟨.copy, 4, 0⟩])) ∧
  (∀ (s : State) (block k : Nat) (m : CopyCmd), (s.block block).running[k]? = some m →
    (∀ j y, (s.block block).running[j]? = some y → y.cell = m.cell → y.tok.seq = m.tok.seq → j = k) →
    m.checked = 0 → m.words = [] → m.fin = [] → m.causes = [] → m.stop = none → m.bytes = 0 → m.form = 3 → m.rows = 1 →
    m.dstr = 0 → m.sstr = 0 → m.leave = 0 → m.target ≠ m.cell → s.sameLoad m.cell m.target = true → m.dst % 8 = 0 → m.src % 8 = 0 →
    m.dst + m.len ≤ 0x20000 → m.src + m.len ≤ 0x20000 → (s.cell m.cell).priors = [] → s.storeBusy m.cell m.src m.len = false →
    s.storeBusy m.target m.dst m.len = false →
    ∃ t, exec (.copyCompletion block k) s = .next t ∧ (t.block block).running = (s.block block).running.eraseIdx k ∧
      (∀ j < m.len, Memory.byte (t.cell m.target).store (m.dst + j) = Memory.byte (s.cell m.cell).store (m.src + j)) ∧
      (∀ x, x < m.dst ∨ m.dst + m.len ≤ x → Memory.byte (t.cell m.target).store x = Memory.byte (s.cell m.target).store x) ∧
      (t.cell m.cell).store = (s.cell m.cell).store ∧ (t.cell m.cell).copies = (s.cell m.cell).copies.erase m.tok.seq ∧
      (m.se = true → (t.cell m.target).sem m.sem = ((s.cell m.target).sem m.sem).add m.len) ∧
      (∀ j, m.tok.slot = some j → (t.cell m.cell).slot j.toNat = .idle) ∧ t.mem = s.mem)

/-- R262, R263: the four copy commands at their issue: between the local store and global memory by one row or by rows, between global
addresses, and into the local store of another cell. R248, R249, R251, R253: a command starts while fewer than 8 run, or asks for leave
first when it is long; a copy into another cell of the load delivers every byte, adds their number to the target's semaphore and fires its
token. -/
def Obligations.CopiesAreIssuedAndRun : Prop := Rule.CopiesAreIssued ∧ Rule.CopiesRun

/-- R255, R259, R260, R264, R265: the registers of a generator are written and read through its handle, and its stream is started, resumed
and stopped. -/
def Sys2Proof.Machine.Rule.GeneratorInstructions : Prop :=
  ∀ (h : Hdr) (f : FmtX) (s : State) (e n : Nat), n = field f.ef 0 1 → s.me.eagOf n = some e →
    (s.Ready (.eagcfgW h f) h → s.me.eagRuns n = false → f.a.toNat ∉ s.me.busy → (s.me.reg f.a.toNat).p = false →
      ∃ t, exec (.eagcfgW h f) s = .next t ∧ (t.eag e).reg (field f.ef 1 5) = (s.me.reg f.a.toNat).v ∧
        (∀ r, r ≠ field f.ef 1 5 → (t.eag e).reg r = (s.eag e).reg r) ∧ (∀ e', e' ≠ e → t.eag e' = s.eag e') ∧
        (t.cell s.cur).g = s.me.g ∧ (t.cell s.cur).pc = s.me.pc + 1) ∧
    (∀ c', s.Ready (.eagcfgR h f) h → claimDst s.me f.d = .ok c' →
      ∃ t, exec (.eagcfgR h f) s = .next t ∧
        (t.cell s.cur).eagReads = s.me.eagReads ++ [(f.d, s.me.tok (.eagcfgR h f) h, (s.eag e).reg (field f.ef 1 5))] ∧
        (t.cell s.cur).busy = c'.busy ∧ (t.cell s.cur).g = s.me.g ∧ t.eag e = s.eag e) ∧
    (∀ g, s.Ready (.eaggoStart h f) h → s.me.eagRuns n = false → g = ((s.eag e).setReg 16 0).setReg 17 0 →
      eagCheck s.atIssue s.cur g = none → 0 < g.count →
      ∃ t, exec (.eaggoStart h f) s = .next t ∧ (t.eag e).next = 0 ∧ (t.eag e).reg 17 = 1 ∧
        (t.eag e).run = some { cell := s.cur, handle := n, tok := s.me.tok (.eaggoStart h f) h } ∧
        (t.cell s.cur).eagRuns n = true ∧ (t.cell s.cur).g = s.me.g ∧ (t.cell s.cur).pc = s.me.pc + 1) ∧
    (s.Ready (.eaggoResume h f) h → s.me.eagRuns n = false → eagCheck s.atIssue s.cur (s.eag e) = none →
      (s.eag e).next < (s.eag e).count →
      ∃ t, exec (.eaggoResume h f) s = .next t ∧ (t.eag e).next = (s.eag e).next ∧ (t.eag e).reg 17 = 1 ∧
        (t.eag e).run = some { cell := s.cur, handle := n, tok := s.me.tok (.eaggoResume h f) h } ∧
        (t.cell s.cur).eagRuns n = true ∧ (t.cell s.cur).pc = s.me.pc + 1) ∧
    (s.Ready (.eaggoStop h f) h →
      ((s.eag e).run = none → exec (.eaggoStop h f) s = .next (s.retire h s.me)) ∧
      (∀ r, (s.eag e).run = some r → ∃ t r', exec (.eaggoStop h f) s = .next t ∧ (t.eag e).run = some r' ∧ r'.stopping = true ∧
        r'.cell = r.cell ∧ (t.eag e).next = (s.eag e).next ∧ (h.ee = true → (t.cell s.cur).slot h.es.toNat = .pending)))

/-- R256, R257, R260, R264: the value of an EAGCFG.R arrives; a generator in queue mode reads the words of its next element in order and
pushes them as single words with its tag, NEXT advances, and the stream ends at N with DONE. -/
def Sys2Proof.Machine.Rule.GeneratorStreams : Prop :=
  (∀ (s : State) (cell : Nat) (d : BitVec 6) (t0 : Tok) (v : Word) (rest : List (BitVec 6 × Tok × Word)),
    (s.cell cell).eagReads = (d, t0, v) :: rest → d.toNat ≤ 55 → d ≠ 0 →
    ∃ t, exec (.eagcfgReadReply cell) s = .next t ∧ (t.cell cell).reg d.toNat = ⟨v, false⟩ ∧ (t.cell cell).eagReads = rest ∧
      (∀ n, n ≠ d.toNat → (t.cell cell).reg n = (s.cell cell).reg n) ∧
      (∀ j, t0.slot = some j → (t.cell cell).slot j.toNat = .idle)) ∧
  (∀ (s : State) (e : Nat) (g : Eag) (r : EagRun) (w : Val) (a : Nat) (p : Page), g = s.eag e → g.run = some r → g.dist = false → g.elw = 1 →
    g.part = 0 → g.words = [] → g.win.length < g.qwin → r.stopping = false → g.next + 1 < 2 ^ 48 → 0 ≤ g.addr g.next →
    s.enginePage (eagBlock e) g.dom (g.addr g.next).toNat false .source = .ok (a, p) → s.own a = true →
    s.combHolds (eagBlock e) a = false → s.vaultBusy (a % 2 ^ 50) = false → s.hostHeld (a % 2 ^ 50) = false →
    (pKind p.entry = 1 → s.isPresent (a % 2 ^ 50) = true) → w = s.gword (a % 2 ^ 50) →
    ∃ t x, exec (.eagElementCommit e) s = .next t ∧ (t.eag e).win = g.win ++ [x] ∧ x.w.v = w.v ∧ x.w.p = w.p ∧ x.w.tag = g.tag ∧
      x.w.pos = 0 ∧ (t.eag e).next = g.next + 1 ∧
      (g.next + 1 < g.count → (t.eag e).run = some r) ∧
      (g.count ≤ g.next + 1 → (t.eag e).run = none ∧ (t.eag e).reg 17 = 2 ∧ (t.cell r.cell).eagRuns r.handle = false ∧
        (∀ j, r.tok.slot = some j → (t.cell r.cell).slot j.toNat = .idle)))

/-- R255, R259, R260, R264, R265: the registers of a generator are written and read through its handle, and its stream is started, resumed
and stopped. R256, R257, R260, R264: the value of an EAGCFG.R arrives; a generator in queue mode reads the words of its next element in
order and pushes them as single words with its tag, NEXT advances, and the stream ends at N with DONE. -/
def Obligations.GeneratorsAndTheirStreams : Prop := Rule.GeneratorInstructions ∧ Rule.GeneratorStreams

/-! ### Global memory at the cell (R135 to R138, R282 to R289) -/

/-- The translation of ea is in the caches and allows the access: the address is aligned and exists, the entry is valid for the domain,
and the page's kind allows the use (R130, R137, R282). -/
def Sys2Proof.Machine.Allowed (s : State) (c : Cell) (ea : Word) (size : Nat) (write : Bool) (u : KindUse) (p : Page) : Prop :=
  ea.toNat % size = 0 ∧ ea.toNat < 2 ^ 57 ∧ s.lookup s.cur c ea.toNat = some p ∧ entryOk p.entry c.ident.dom write = true ∧
  s.exists_ (p.addr ea.toNat) = true ∧ kindOk u (pKind p.entry) = true ∧
  (u = .clrf → c.priv = true ∨ c.ident.dom = pDom p.entry)

/-- The access leaves the cell: it is outstanding, its token pending and its destination register claimed; no register, no semaphore and
no byte of any memory changes. -/
def Sys2Proof.Machine.AccessLeaves (s : State) (h : Hdr) (i : Instr) (c : Cell) (kind : AccKind) (ea : Word) (size : Nat) (p : Page)
    (d : BitVec 6) (claims : Bool) (data cmp : Val) : Prop :=
  ∃ t x, exec i s = .next t ∧ (t.cell s.cur).accs = c.accs ++ [x] ∧ x.kind = kind ∧ x.va = ea.toNat ∧ x.pa = p.addr ea.toNat ∧
    x.size = size ∧ (claims = true → x.d = d) ∧ x.data = data ∧ x.cmp = cmp ∧ x.tok = s.me.tok i h ∧ x.status = .sent ∧
    (t.cell s.cur).busy = (if claims = true ∧ d ≠ 0 ∧ d.toNat ≤ 55 then d.toNat :: c.busy else c.busy) ∧
    (h.ee = true → (t.cell s.cur).slot h.es.toNat = .pending) ∧ (t.cell s.cur).g = c.g ∧ (t.cell s.cur).sems = c.sems ∧
    (t.cell s.cur).store = c.store ∧ t.mem = s.mem ∧ (t.cell s.cur).pc = s.me.pc + 1 ∧ (∀ k, k ≠ s.cur → t.cell k = s.cell k)

/-- The destination of an asynchronous result can be claimed: a free g register, or a port bound outbound or to the phase. -/
def Sys2Proof.Machine.Claimable (c : Cell) (d : BitVec 6) : Prop :=
  (d.toNat ≤ 55 ∧ d.toNat ∉ c.busy) ∨ (56 ≤ d.toNat ∧ (c.binding (d.toNat - 56) = 2 ∨ c.binding (d.toNat - 56) = 3))

def Sys2Proof.Machine.LoadLeaves (mk : Hdr → FmtM → Instr) (kind : AccKind) (u : KindUse) : Prop :=
  ∀ (h : Hdr) (f : FmtM) (s : State) (a b : Val) (c : Cell) (ea : Word) (p : Page),
    s.Ready (mk h f) h → readAB s.me f.a f.b f.sa f.sb = .ok (a, b, c) → a.p = false → b.p = false → c.accs.length < 32 →
    ea = BitVec.ofInt 64 (a.v.toNat + b.v.toNat + f.disp.toInt) → Allowed s c ea (2 ^ f.sz.toNat) false u p → Claimable c f.d →
    AccessLeaves s h (mk h f) c kind ea (2 ^ f.sz.toNat) p f.d true ⟨0, false⟩ ⟨0, false⟩

def Sys2Proof.Machine.StoreLeaves (mk : Hdr → FmtM → Instr) (kind : AccKind) (u : KindUse) : Prop :=
  ∀ (h : Hdr) (f : FmtM) (s : State) (a b d : Val) (c c' : Cell) (ea : Word) (p : Page),
    s.Ready (mk h f) h → readAB s.me f.a f.b f.sa f.sb = .ok (a, b, c) → readSrc c f.d 0 = .ok (d, c') → a.p = false → b.p = false →
    d.p = false → c'.accs.length < 32 → ea = BitVec.ofInt 64 (a.v.toNat + b.v.toNat + f.disp.toInt) →
    Allowed s c' ea (2 ^ f.sz.toNat) true u p →
    AccessLeaves s h (mk h f) c' kind ea (2 ^ f.sz.toNat) p 0 false d ⟨0, false⟩

/-- R283, R284, R285, R130, R137: loads, stores, fills and CLRF pass the checks of their page and leave for the home tile. -/
def Sys2Proof.Machine.Rule.LoadsAndStoresLeave : Prop :=
  LoadLeaves .ldg .ldg .plainOnly ∧ LoadLeaves .ldf .ldf .fillOnly ∧ LoadLeaves .ald .ald .atomic ∧
  StoreLeaves .stg .stg .plainOnly ∧ StoreLeaves .stf .stf .fillOnly ∧
  (∀ (h : Hdr) (f : FmtM) (s : State) (a b : Val) (c : Cell) (ea : Word) (p : Page),
    s.Ready (.clrf h f) h → readAB s.me f.a f.b f.sa f.sb = .ok (a, b, c) → a.p = false → b.p = false → c.accs.length < 32 →
    ea = BitVec.ofInt 64 (a.v.toNat + b.v.toNat + f.disp.toInt) → Allowed s c ea 8 true .clrf p →
    AccessLeaves s h (.clrf h f) c .clrf ea 8 p 0 false ⟨0, false⟩ ⟨0, false⟩)

def Sys2Proof.Machine.AtomicLeaves (mk : Hdr → FmtX → Instr) (kind : AccKind) : Prop :=
  ∀ (h : Hdr) (f : FmtX) (s : State) (a b x : Val) (c1 c2 c3 : Cell) (p : Page),
    s.Ready (mk h f) h → readSrc s.me f.a 0 = .ok (a, c1) → readSrc c1 f.b 0 = .ok (b, c2) →
    (if kind = .acas then readSrc c2 f.c 0 = .ok (x, c3) else x = ⟨0, false⟩ ∧ c3 = c2) → a.p = false → b.p = false →
    x.p = false → c3.accs.length < 32 → Allowed s c3 a.v (2 ^ field f.ef 2 2) true .atomic p → Claimable c3 f.d →
    AccessLeaves s h (mk h f) c3 kind a.v (2 ^ field f.ef 2 2) p f.d true b x ∧
    (∀ t, exec (mk h f) s = .next t → (t.cell s.cur).nonReplay = true)

/-- R286, R443: the atomics leave with their operand, ACAS with its expected value too, and the firing is no longer replayable. -/
def Sys2Proof.Machine.Rule.AtomicsLeave : Prop :=
  AtomicLeaves .aadd .aadd ∧ AtomicLeaves .afadd .afadd ∧ AtomicLeaves .amin .amin ∧ AtomicLeaves .amax .amax ∧
  AtomicLeaves .axchg .axchg ∧ AtomicLeaves .acas .acas ∧ AtomicLeaves .aor .aor ∧ AtomicLeaves .aand .aand

/-- R283, R284, R285, R130, R137: loads, stores, fills and CLRF pass the checks of their page and leave for the home tile. R286, R443: the
atomics leave with their operand, ACAS with its expected value too, and the firing is no longer replayable. -/
def Obligations.GlobalAccessesLeave : Prop := Rule.LoadsAndStoresLeave ∧ Rule.AtomicsLeave

/-- R61, R76, R137, R282: what stops a load of plain memory: ILLOP where D names a port that takes no word, then ALIGN, then TRANS for an
address past the last, for a refused translation and for an entry that does not allow the access, then KIND, then POISON of the address; a
page that no cache holds is asked of the pager. -/
def Sys2Proof.Machine.Rule.GlobalAccessCauses : Prop :=
  ∀ (h : Hdr) (f : FmtM) (s : State) (a b : Val) (c : Cell) (ea : Word) (op : BitVec 8),
    s.Ready (.ldg h f) h → readAB s.me f.a f.b f.sa f.sb = .ok (a, b, c) → c.accs.length < 32 → op = Instr.op (.ldg h f) →
    ea = BitVec.ofInt 64 (a.v.toNat + b.v.toNat + f.disp.toInt) →
    (56 ≤ f.d.toNat → s.me.binding (f.d.toNat - 56) ≠ 2 → s.me.binding (f.d.toNat - 56) ≠ 3 →
      exec (.ldg h f) s = .next (s.atIssue.trapHere s.cur s.me op 1 (Instr.word (.ldg h f)))) ∧
    (Claimable s.me f.d →
    (ea.toNat % 2 ^ f.sz.toNat ≠ 0 → exec (.ldg h f) s = .next (s.atIssue.trapHere s.cur s.me op 3 ea)) ∧
    (ea.toNat % 2 ^ f.sz.toNat = 0 → 2 ^ 57 ≤ ea.toNat → exec (.ldg h f) s = .next (s.atIssue.trapHere s.cur s.me op 5 ea)) ∧
    (ea.toNat % 2 ^ f.sz.toNat = 0 → ea.toNat < 2 ^ 57 → s.lookup s.cur c ea.toNat = none →
      (c.refused = some ea.toNat → exec (.ldg h f) s = .next (s.atIssue.trapHere s.cur s.me op 5 ea)) ∧
      (c.refused ≠ some ea.toNat → ∃ t, exec (.ldg h f) s = .next t ∧ (t.cell s.cur).st = .asleep ∧
        (t.cell s.cur).missing = some (ea.toNat, false) ∧ (t.cell s.cur).pc = s.me.pc ∧ (t.cell s.cur).g = s.me.g ∧
        (t.cell s.cur).ins = s.me.ins)) ∧
    (∀ p, ea.toNat % 2 ^ f.sz.toNat = 0 → ea.toNat < 2 ^ 57 → s.lookup s.cur c ea.toNat = some p →
      (entryOk p.entry c.ident.dom false = false ∨ s.exists_ (p.addr ea.toNat) = false →
        exec (.ldg h f) s = .next (s.atIssue.trapHere s.cur s.me op 5 ea)) ∧
      (entryOk p.entry c.ident.dom false = true → s.exists_ (p.addr ea.toNat) = true → pKind p.entry ≠ 0 →
        exec (.ldg h f) s = .next (s.atIssue.trapHere s.cur s.me op 6 ea)) ∧
      (entryOk p.entry c.ident.dom false = true → s.exists_ (p.addr ea.toNat) = true → pKind p.entry = 0 → (a.p || b.p) = true →
        exec (.ldg h f) s = .next (s.atIssue.trapHere s.cur s.me op 8 (if a.p then 1 else 2)))))

/-- R36, R61, R76, R193: what a local access is stopped by: ILLOP, the lowest code, for an LDL to a port that takes no words, then PRIV
for an STL of a range that can only be read, then ALIGN before LBOUND before POISON. R61, R76, R137, R282: what stops a load of plain
memory: ILLOP where D names a port that takes no word, then ALIGN, then TRANS for an address past the last, for a refused translation and
for an entry that does not allow the access, then KIND, then POISON of the address; a page that no cache holds is asked of the pager. -/
def Obligations.AccessCauses : Prop := Rule.LocalAccessCauses ∧ Rule.GlobalAccessCauses

/-- R155, R288: FENCE completes when what its scope covers is done, and the cell sleeps until then; at scope MODULE and SYSTEM it sends home
every entry that the block's combining buffer held when it first looked, `step` keeping the number of the entry that followed them. -/
def Obligations.FencesWait : Prop :=
  ∀ (h : Hdr) (f : FmtM) (s : State) (mark : Nat), s.Ready (.fence h f) h →
    mark = (if s.me.step = 0 then (s.block (blockOf s.cur)).combNo else s.me.step - 1) →
    (f.scope.toNat < 3 → s.fenceMet s.cur s.me f.scope.toNat s.me.iseq mark = true →
      exec (.fence h f) s = .next (s.retire h s.me)) ∧
    (3 ≤ f.scope.toNat → s.fenceMet s.cur s.me f.scope.toNat s.me.iseq mark = true →
      ∃ t, exec (.fence h f) s = .next t ∧ (∀ e ∈ (t.block (blockOf s.cur)).comb, e.no < mark → e.sent = true) ∧
        (t.cell s.cur).pc = s.me.pc + 1 ∧ (t.cell s.cur).g = s.me.g ∧ t.mem = s.mem) ∧
    (s.fenceMet s.cur s.me f.scope.toNat s.me.iseq mark = false →
      ∃ t, exec (.fence h f) s = .next t ∧ (t.cell s.cur).st = .asleep ∧ (t.cell s.cur).pc = s.me.pc ∧
        (t.cell s.cur).wait = some (.token, .fence f.scope s.me.iseq) ∧ (t.cell s.cur).step = mark + 1 ∧
        (3 ≤ f.scope.toNat → ∀ e ∈ (t.block (blockOf s.cur)).comb, e.no < mark → e.sent = true))
/-! ### The memory tiles (R141, R268 to R287) -/

/-- Access x, number k of a cell, has its turn at its home tile on this module: it has been sent, no older access of the cell to the word,
or to the tile by the same channel, is before it, no combining-buffer entry is in its way, and nothing holds the word. -/
structure Sys2Proof.Machine.TileTurn (s : State) (cell k : Nat) (x : Access) : Prop where
  here : (s.cell cell).accs[k]? = some x
  sent : x.status = .sent
  order : s.inOrder (s.cell cell) x = true
  own : s.own x.pa = true
  past : s.combCase cell x = .past
  free : s.hostHeld (x.pa % 2 ^ 50) = false ∧ s.vaultBusy (x.pa % 2 ^ 50) = false
  aligned : x.pa % x.size = 0 ∧ x.size ∈ [1, 2, 4, 8]
  only : ∀ y ∈ (s.cell cell).accs, y.tok.seq = x.tok.seq → y = x

/-- R276, R283: a read gives the bytes at its address with the poison bit of their word; a read of an empty fill-once word is deferred and
takes an entry of the tile's table; no byte changes. -/
def Sys2Proof.Machine.Rule.TileReads : Prop :=
  ∀ (s : State) (cell k : Nat) (x : Access) (a : Nat), TileTurn s cell k x → a = x.pa % 2 ^ 50 →
    ((x.kind = .ldg ∨ (x.kind = .ldf ∧ s.present.has (a / 8) = true)) →
      ∃ t, exec (.tileRead cell k) s = .next t ∧
        (t.cell cell).accs[k]? = some { x with
          status := .done ⟨BitVec.ofNat 64 (s.mem.read a x.size), s.memPoison.has (a / 8)⟩ 0 } ∧
        t.mem = s.mem ∧ t.memPoison = s.memPoison ∧ t.present = s.present ∧ (t.cell cell).g = (s.cell cell).g) ∧
    (x.kind = .ldf → s.present.has (a / 8) = false → (s.deferTable (homeTile a)).length < 120 →
      ∃ t, exec (.tileRead cell k) s = .next t ∧ (t.cell cell).accs[k]? = some { x with status := .deferred } ∧
        t.deferTable (homeTile a) = s.deferTable (homeTile a) ++ [(a / 8, .ask (.cell cell x.tok.seq))] ∧ t.mem = s.mem) ∧
    (x.kind = .ldf → s.present.has (a / 8) = false → 120 ≤ (s.deferTable (homeTile a)).length →
      ∃ t, exec (.tileRead cell k) s = .next t ∧ (t.cell cell).accs[k]? = some { x with status := .nacked 1 } ∧ t.mem = s.mem)

/-- R284, R278, R285: a store writes its bytes, and a whole word becomes clean; a fill writes an empty word and makes it present, and of a
full word is a FILL2 fault; CLRF makes a word empty. Every byte outside those stored to is as before. -/
def Sys2Proof.Machine.Rule.TileWrites : Prop :=
  ∀ (s : State) (cell k : Nat) (x : Access) (a : Nat), TileTurn s cell k x → a = x.pa % 2 ^ 50 →
    (x.kind = .stg → (x.tok.slot ≠ none ∨ homeTile a = blockOf cell) →
      ∃ t, exec (.tileWrite (.cell cell k)) s = .next t ∧ t.mem.read a x.size = x.data.v.toNat % 2 ^ (8 * x.size) ∧
        (x.size = 8 → t.memPoison.has (a / 8) = false) ∧ (x.size < 8 → t.memPoison = s.memPoison) ∧
        (∀ j, j < a ∨ a + x.size ≤ j → Memory.byte t.mem j = Memory.byte s.mem j) ∧ t.present = s.present ∧
        (t.cell cell).accs[k]? = some { x with status := .done ⟨0, false⟩ 0 } ∧ t.dirty.has (a / 0x10000) = true) ∧
    (x.kind = .stf → x.size = 8 → s.present.has (a / 8) = false →
      ∃ t, exec (.tileFill cell k) s = .next t ∧ t.mem.read a 8 = x.data.v.toNat ∧ t.present.has (a / 8) = true ∧
        t.memPoison.has (a / 8) = false ∧ (∀ j, j < a ∨ a + 8 ≤ j → Memory.byte t.mem j = Memory.byte s.mem j) ∧
        (∀ j, j ≠ a / 8 → t.present.has j = s.present.has j)) ∧
    (x.kind = .stf → x.size = 8 → s.present.has (a / 8) = true → s.memPoison.has (a / 8) = false → x.tok.rpl = false →
      ∃ t, exec (.tileFill cell k) s = .next t ∧ (t.cell cell).accs[k]? = some { x with status := .failed 7 } ∧ t.mem = s.mem ∧
        t.present = s.present) ∧
    (x.kind = .clrf → x.size = 8 →
      ∃ t, exec (.tileClrf cell k) s = .next t ∧ t.present.has (a / 8) = false ∧ t.mem = s.mem ∧
        (∀ j, j ≠ a / 8 → t.present.has j = s.present.has j) ∧
        (t.cell cell).accs[k]? = some { x with status := .done ⟨0, false⟩ 0 })

/-- R275, R276: a fill completes the reads of its word that were deferred, with the word filled. -/
def Sys2Proof.Machine.Rule.FillsServeDeferredReads : Prop :=
  ∀ (s : State) (cell k reader : Nat) (x y : Access) (a j : Nat), TileTurn s cell k x → a = x.pa % 2 ^ 50 → x.kind = .stf → x.size = 8 →
    s.present.has (a / 8) = false → reader ≠ cell → (s.cell reader).accs[j]? = some y →
    (∀ z ∈ (s.cell reader).accs, z.tok.seq = y.tok.seq → z = y) → y.pa % 2 ^ 50 = a → y.size = 8 →
    s.deferTable (homeTile a) = [(a / 8, .ask (.cell reader y.tok.seq))] →
    ∃ t, exec (.tileFill cell k) s = .next t ∧ (t.cell reader).accs[j]? = some { y with status := .done ⟨x.data.v, false⟩ 0 } ∧
      t.deferTable (homeTile a) = []

/-- R276, R283: a read gives the bytes at its address with the poison bit of their word; a read of an empty fill-once word is deferred and
takes an entry of the tile's table; no byte changes. R284, R278, R285: a store writes its bytes, and a whole word becomes clean; a fill
writes an empty word and makes it present, and of a full word is a FILL2 fault; CLRF makes a word empty. Every byte outside those stored
to is as before. R275, R276: a fill completes the reads of its word that were deferred, with the word filled. -/
def Obligations.TileReadsAndWrites : Prop := Rule.TileReads ∧ Rule.TileWrites ∧ Rule.FillsServeDeferredReads

/-- R280, R286: an atomic gives the old value and stores its new one, computed on W = 8 * size bits; ALD reads alone. -/
def Sys2Proof.Machine.Rule.TileAtomics : Prop :=
  ∀ (s : State) (cell k : Nat) (x : Access) (a w old b c new : Nat), TileTurn s cell k x → a = x.pa % 2 ^ 50 → w = 8 * x.size →
    old = s.mem.read a x.size → b = x.data.v.toNat % 2 ^ w → c = x.cmp.v.toNat % 2 ^ w → s.memPoison.has (a / 8) = false →
    ((x.kind = .aadd ∧ new = (old + b) % 2 ^ w) ∨ (x.kind = .axchg ∧ new = b) ∨
     (x.kind = .acas ∧ new = if old = c then b else old) ∨ (x.kind = .aor ∧ new = old ||| b) ∨ (x.kind = .aand ∧ new = old &&& b) ∨
     (x.kind = .amin ∧ x.sgn = false ∧ new = min old b) ∨ (x.kind = .amax ∧ x.sgn = false ∧ new = max old b) ∨
     (x.kind = .amin ∧ x.sgn = true ∧ new = if (BitVec.ofNat w b).toInt < (BitVec.ofNat w old).toInt then b else old) ∨
     (x.kind = .amax ∧ x.sgn = true ∧ new = if (BitVec.ofNat w old).toInt < (BitVec.ofNat w b).toInt then b else old) ∨
     (x.kind = .ald ∧ new = old)) →
    ∃ t, exec (.tileAtomic cell k) s = .next t ∧ t.mem.read a x.size = new ∧
      (t.cell cell).accs[k]? = some { x with status := .done ⟨BitVec.ofNat 64 old, false⟩ 0 } ∧
      (∀ j, j < a ∨ a + x.size ≤ j → Memory.byte t.mem j = Memory.byte s.mem j) ∧ t.present = s.present

/-- R287, R101, R102: AFADD stores the rounded sum in the format of its size and gives the old value with the flags of the sum. -/
def Sys2Proof.Machine.Rule.TileFloatingAdd : Prop :=
  ∀ (s : State) (cell k : Nat) (x : Access) (a old b : Nat) (f : Fmt), TileTurn s cell k x → a = x.pa % 2 ^ 50 → x.kind = .afadd →
    (x.size = 4 ∧ f = Fmt.f32 ∨ x.size = 8 ∧ f = Fmt.f64) → old = s.mem.read a x.size → b = x.data.v.toNat % 2 ^ (8 * x.size) →
    s.memPoison.has (a / 8) = false →
    ∃ t fl, exec (.tileAtomic cell k) s = .next t ∧
      t.mem.read a x.size =
        (roundTo f x.mode false x.rnd (Num.add x.mode (f.decode old) (f.decode b)).1).1 % 2 ^ (8 * x.size) ∧
      fl = (roundTo f x.mode false x.rnd (Num.add x.mode (f.decode old) (f.decode b)).1).2 ||| f.snanFlag [old, b] |||
        (if (Num.add x.mode (f.decode old) (f.decode b)).2 then Flags.nv else Flags.none) ∧
      (t.cell cell).accs[k]? = some { x with status := .done ⟨BitVec.ofNat 64 old, false⟩ fl }

/-- R280, R286: an atomic gives the old value and stores its new one, computed on W = 8 * size bits; ALD reads alone. R287, R101, R102:
AFADD stores the rounded sum in the format of its size and gives the old value with the flags of the sum. -/
def Obligations.TileAtomicOperations : Prop := Rule.TileAtomics ∧ Rule.TileFloatingAdd

/-- R277, R281, R283, R154: a NACKed read is sent again and gives its word once it is full; the reply of an access writes its register,
extended, and fires its token, or faults its slot; the reply of a store fires its token. -/
def Obligations.RepliesReachTheCell : Prop :=
  (∀ (s : State) (cell k : Nat) (x : Access) (a n : Nat), (s.cell cell).accs[k]? = some x → x.status = .nacked n → x.kind = .ldf →
    a = x.pa % 2 ^ 50 → s.inOrder (s.cell cell) x = true → s.own x.pa = true → s.combCase cell x = .past → s.hostHeld a = false →
    s.vaultBusy a = false → (∀ y ∈ (s.cell cell).accs, y.tok.seq = x.tok.seq → y = x) → s.present.has (a / 8) = true →
    ∃ t, exec (.deferredReadRetry cell k) s = .next t ∧
      (t.cell cell).accs[k]? = some { x with status := .done (s.part a x.size) 0 } ∧ t.mem = s.mem) ∧
  (∀ (s : State) (cell k : Nat) (x : Access), (s.cell cell).accs[k]? = some x →
    (∀ v fl, x.status = .done v fl → x.kind ∉ [.stg, .stf, .clrf] → x.d ≠ 0 → x.d.toNat ≤ 55 →
      ∃ t, exec (.accessReply cell k) s = .next t ∧ (t.cell cell).reg x.d.toNat = ⟨extend x.sx x.size v.v.toNat, v.p⟩ ∧
        (t.cell cell).sys.flags = (s.cell cell).sys.flags ||| fl ∧ (t.cell cell).busy = (s.cell cell).busy.erase x.d.toNat ∧
        (∀ n, n ≠ x.d.toNat → (t.cell cell).reg n = (s.cell cell).reg n) ∧
        (t.cell cell).accs = (s.cell cell).accs.eraseIdx k ∧ (∀ j, x.tok.slot = some j → (t.cell cell).slot j.toNat = .idle)) ∧
    (∀ v fl, x.status = .done v fl → x.kind ∈ [.stg, .stf, .clrf] →
      ∃ t, exec (.accessReply cell k) s = .next t ∧ (t.cell cell).accs = (s.cell cell).accs.eraseIdx k ∧
        (t.cell cell).g = (s.cell cell).g ∧ (∀ j, x.tok.slot = some j → (t.cell cell).slot j.toNat = .idle)) ∧
    (∀ cause, x.status = .failed cause →
      ∃ t, exec (.accessReply cell k) s = .next t ∧ (t.cell cell).accs = (s.cell cell).accs.eraseIdx k ∧
        (t.cell cell).g = (s.cell cell).g ∧ (∀ j, x.tok.slot = some j → (t.cell cell).slot j.toNat = .faulted ∧
          ∃ r ∈ (t.cell cell).faults, r.cause = cause ∧ r.tval = BitVec.ofNat 64 x.va ∧ r.slot = j ∧ r.pc = x.tok.pc)))

/-- R141, R272, R273: the oldest entry that a combining buffer holds is sent when its time has come, and a sent one is written at its home;
a group with a parity mismatch in a row that is read goes to the recovery engine; 80 clk later a word whose failing bytes fail in no other
row has its stored value again, and two words that fail in one byte lane keep their data, take their poison bits and are reported. -/
def Obligations.BuffersFlushAndGroupsAreRebuilt : Prop :=
  (∀ (s : State) (block : Nat) (e : CombEnt) (es : List CombEnt), (s.block block).comb = e :: es → e.sent = false →
    ∃ t, exec (.combineFlushTimeout block) s = .next t ∧ (t.block block).comb = { e with sent := true } :: es ∧ t.mem = s.mem) ∧
  (∀ (s : State) (block k a : Nat) (e : CombEnt), (s.block block).comb[k]? = some e → e.sent = true → e.away = false →
    s.own (64 * e.line) = true → a = 64 * e.line % 2 ^ 50 →
    (∀ j y, j < k → (s.block block).comb[j]? = some y → y.sent = true → s.own (64 * y.line) = true →
      homeTile (64 * y.line % 2 ^ 50) ≠ homeTile a) →
    s.vaultBusy a = false → (s.region (regionOf a)).host = false →
    ∃ t, exec (.tileWrite (.comb block k)) s = .next t ∧ (∀ y ∈ (t.block block).comb, y.line ≠ e.line) ∧
      (∀ j x, j < 64 → SMap.find e.bytes j = some x → Memory.byte t.mem (a + j) = x) ∧
      (∀ j, j < 64 → SMap.find e.bytes j = none → Memory.byte t.mem (a + j) = Memory.byte s.mem (a + j)) ∧
      (∀ j, j < a ∨ a + 64 ≤ j → Memory.byte t.mem j = Memory.byte s.mem j)) ∧
  (∀ (s : State) (g : ParityGroup) (row : Nat), (∀ w, g ≠ .hbm w) → (∀ r ∈ s.rebuilds, r.grp ≠ g) →
    ((∃ x ∈ s.failing g, rowOf g x.1 = row) →
      ∃ t, exec (.backgroundScrub g row) s = .next t ∧ t.groupBusy g = true ∧ t.rebuilds = s.rebuilds ++ [⟨g, s.now⟩] ∧
        t.cells = s.cells ∧ t.mem = s.mem) ∧
    ((∀ x ∈ s.failing g, rowOf g x.1 ≠ row) → exec (.backgroundScrub g row) s = .next s)) ∧
  (∀ (s : State) (cell n since w : Nat) (u : Upset), s.rebuilds = [⟨.lstore cell n, since⟩] → since + 80 ≤ s.now → w / 64 = n →
    w < 16384 → (s.cell cell).upsets = [(w, u)] → u.seen = true → (∀ b, b < 8 → b ∉ u.lanes → field u.data (8 * b) 8 = 0) →
    ∃ t, exec (.parityRebuildDone (.lstore cell n)) s = .next t ∧ t.rebuilds = [] ∧ (t.cell cell).upsets = [] ∧
      (t.cell cell).ldWord (8 * w) = ⟨((s.cell cell).ldWord (8 * w)).v ^^^ u.data, ((s.cell cell).ldWord (8 * w)).p⟩ ∧
      (∀ j, j < 8 * w ∨ 8 * w + 8 ≤ j → Memory.byte (t.cell cell).store j = Memory.byte (s.cell cell).store j)) ∧
  (∀ (s : State) (cell n since v w b : Nat) (x u : Upset), s.rebuilds = [⟨.lstore cell n, since⟩] → since + 80 ≤ s.now → v / 64 = n →
    w / 64 = n → v < w → w < 16384 → (s.cell cell).upsets = [(v, x), (w, u)] → b ∈ x.lanes → b ∈ u.lanes →
    (s.row (yOf cell)).fq.length < 1023 →
    ∃ t, exec (.parityRebuildDone (.lstore cell n)) s = .next t ∧ t.rebuilds = [] ∧ (t.cell cell).store = (s.cell cell).store ∧
      (∀ j, (t.cell cell).storePoison.has j = ((s.cell cell).storePoison.has j || decide (j = v) || decide (j = w))) ∧
      (∃ y z, (t.row (yOf cell)).fq = (s.row (yOf cell)).fq ++ [(y, BitVec.ofNat 64 (8 * v)), (z, BitVec.ofNat 64 (8 * w))] ∧
        field y 56 8 = 3 ∧ field z 56 8 = 3))

/-- R138, R139, R473: a miss goes to the pager unit of its block, whose answer fills both caches, or leaves the cell refused; a change of
translations removes the entries that it names from every cache, and the acknowledgement follows. -/
def Obligations.TranslationsAreFilledAndRemoved : Prop :=
  (∀ (s : State) (cell va u : Nat) (wr : Bool), (s.cell cell).missing = some (va, wr) → u = blockOf cell % 256 →
    (∀ x ∈ SMap.get [] s.misses u, x.1 = .cell cell → x.2.1 ≠ va) →
    ∃ t w, exec (.translationMissRequest cell) s = .next t ∧
      SMap.get [] t.misses u = SMap.get [] s.misses u ++ [(.cell cell, va, w)] ∧ field w 52 12 = (s.cell cell).ident.dom.toNat ∧
      field w 11 41 = va / 2 ^ 16 % 2 ^ 41 ∧ w.getLsbD 10 = wr ∧ field w 0 10 = 0 ∧ t.cells = s.cells) ∧
  (∀ (s : State) (pager k va : Nat) (w : Word) (rest : List (MissBy × Nat × Word)),
    SMap.get [] s.misses pager = (.cell k, va, w) :: rest → s.changing va = false →
    (∀ p, s.pageOf va = some p → ∃ t, exec (.translationFill pager) s = .next t ∧ SMap.get [] t.misses pager = rest ∧
      (∃ q ∈ (t.cell k).tlb, q.va = p.va ∧ q.entry = p.entry) ∧
      (∃ q ∈ (t.block (blockOf k)).tlb, q.va = p.va ∧ q.entry = p.entry ∧ q.tag = (s.cell k).ident.dom)) ∧
    (s.pageOf va = none → ∃ t, exec (.translationFill pager) s = .next t ∧ SMap.get [] t.misses pager = rest ∧
      (t.cell k).refused = some va)) ∧
  (∀ (s : State) (pager b va : Nat) (dom : BitVec 12) (p : Page) (w : Word) (rest : List (MissBy × Nat × Word)),
    SMap.get [] s.misses pager = (.block b dom, va, w) :: rest → s.changing va = false → s.pageOf va = some p →
    ∃ t, exec (.translationFill pager) s = .next t ∧ SMap.get [] t.misses pager = rest ∧
      (∃ q ∈ (t.block b).tlb, q.va = p.va ∧ q.entry = p.entry ∧ q.tag = dom) ∧ t.cells = s.cells) ∧
  (∀ (s : State) (k va len : Nat) (dom : BitVec 12) (x : Change), s.changes = [x] → x.va = va → x.len = len → x.dom = dom →
    CacheId.cell k ∈ x.waits → CacheId.cell k ∉ x.cut →
    ∃ t, exec (.translationInvalidate (.cell k) va len dom) s = .next t ∧ (∀ p ∈ (t.cell k).tlb, x.names p = false) ∧
      (∀ p ∈ (s.cell k).tlb, x.names p = false → p ∈ (t.cell k).tlb) ∧
      t.changes = [{ x with cut := .cell k :: x.cut }]) ∧
  (∀ (s : State) (c : CacheId) (x : Change), s.changes = [x] → c ∈ x.cut → s.cacheQuiet x c = true →
    (∃ y ∈ x.waits, y ≠ c) →
    ∃ t, exec (.invalidateAck c) s = .next t ∧
      t.changes = [{ x with waits := x.waits.filter (fun y => y ≠ c), cut := x.cut.filter (fun y => y ≠ c) }])

/-- R142 to R146: a host request is refused outside host-shared memory, performed while the host owns the region, and held otherwise; a
region whose combining-buffer entries are home goes to the host; the snoops answered, it goes back; and its minimum interval ends. -/
def Obligations.HostSharedRegionsChangeOwner : Prop :=
  (∀ (s : State) (port a : Nat) (r : HostReq), (s.host port).up = true → (s.host port).mem = true → hostAddr port r.addr = some a →
    (s.hostShared a = false → r.write = true → (s.row ringRow).fq.length < 1024 →
      ∃ t, exec (.hostMemRequest port r) s = .next t ∧ t.mem = s.mem ∧
        ∃ z, (t.row ringRow).fq = (s.row ringRow).fq ++ [(z, BitVec.ofNat 64 r.addr)] ∧ field z 56 8 = 17) ∧
    (s.hostShared a = true → (∀ j, j < 8 → s.vaultBusy (a / 64 * 64 + 8 * j) = false) → (s.region (regionOf a)).host = true →
      (s.region (regionOf a)).held = [] → r.write = true →
      ∃ t, exec (.hostMemRequest port r) s = .next t ∧ t.mem.read (a / 64 * 64) 64 = r.data.toNat ∧
        (∀ j, j < a / 64 * 64 ∨ a / 64 * 64 + 64 ≤ j → Memory.byte t.mem j = Memory.byte s.mem j)) ∧
    (s.hostShared a = true → (∀ j, j < 8 → s.vaultBusy (a / 64 * 64 + 8 * j) = false) → (s.region (regionOf a)).host = false →
      ∃ t, exec (.hostMemRequest port r) s = .next t ∧
        (t.region (regionOf a)).reqs = (s.region (regionOf a)).reqs ++ [(port, (s.host port).accepted, r)] ∧ t.mem = s.mem)) ∧
  (∀ (s : State) (n : Nat) (q : Nat × Nat × HostReq), (s.region n).host = false → (s.region n).since = none →
    (s.region n).reqs = [q] →
    (∀ b ∈ s.blocks, ∀ e ∈ b.2.comb, s.own (64 * e.line) = true → regionOf (64 * e.line % 2 ^ 50) ≠ n) →
    ∃ t, exec (.ownershipToHost n) s = .next t ∧ (t.region n).host = true ∧ (t.region n).since = some s.now ∧ (t.region n).reqs = []) ∧
  (∀ (s : State) (n a m : Nat) (who : Asker), (s.region n).host = true → (s.region n).since = none →
    (s.region n).held = [(a, .ask who)] → s.wordSt who = some (.asked m) →
    ∃ t, exec (.backInvalidateComplete n []) s = .next t ∧ (t.region n).host = false ∧ (t.region n).since = some s.now ∧
      (t.region n).held = [] ∧ t.wordSt who = some (.got (s.gword a)) ∧ t.mem = s.mem ∧ (∀ p, ∀ x ∈ (t.host p).dir, regionOf (64 * x.1) ≠ n)) ∧
  (∀ (s : State) (n t0 : Nat), (s.region n).since = some t0 → t0 + 1600 ≤ s.now →
    ∃ t, exec (.ownerHoldExpiry n) s = .next t ∧ (t.region n).since = none ∧ (t.region n).host = (s.region n).host ∧ t.cells = s.cells)

/-! ### The strip event unit (R290 to R304) -/

/-- An instruction of the event unit has issued: the unit's queue ends with its operation, its token is pending, and no register,
no line and no mutex has changed yet (R303). -/
def Sys2Proof.Machine.JoinsUnit (i : Instr) (h : Hdr) (s t : State) (op : EvOp) : Prop :=
  (t.strip (stripOf s.cur)).evq = (s.strip (stripOf s.cur)).evq ++ [⟨s.atIssue.now, slotOf s.cur, op, s.me.tok i h⟩] ∧
  (h.ee = true → (t.cell s.cur).slot h.es.toNat = .pending) ∧ (t.cell s.cur).pc = s.me.pc + 1 ∧
  (∀ n, (t.cell s.cur).reg n = s.me.reg n) ∧ (t.cell s.cur).ins = s.me.ins ∧ (t.cell s.cur).outs = s.me.outs ∧
  (∀ n, ((t.strip (stripOf s.cur)).bar n).arr = ((s.strip (stripOf s.cur)).bar n).arr ∧
    ((t.strip (stripOf s.cur)).bar n).gen = ((s.strip (stripOf s.cur)).bar n).gen) ∧
  (∀ n, (t.strip (stripOf s.cur)).ev n = (s.strip (stripOf s.cur)).ev n) ∧
  (∀ n, (t.strip (stripOf s.cur)).mut n = (s.strip (stripOf s.cur)).mut n) ∧
  (∀ k, k ≠ s.cur → t.cell k = s.cell k) ∧ (∀ k, k ≠ stripOf s.cur → t.strip k = s.strip k) ∧ t.mem = s.mem

/-- R302: EVARR and EVCMB send an arrival, EVSIG a signal, EVUNLK a release; EVWAIT.B gives GEN * 2^32 + RES, EVWAIT.E consumes a
fire and gives FCNT; EVLOCK sends a request and sleeps until its slot holds the mutex. -/
def Obligations.EventUnitInstructions : Prop :=
  ∀ (h : Hdr) (f : FmtX) (s : State) (n j : Nat) (t : Strip), t = s.strip (stripOf s.cur) → j = slotOf s.cur →
    (n = field f.ef 0 2 → (t.bar n).en = true → (t.bar n).part.getLsbD j = true → (t.bar n).arr.getLsbD j = false →
      t.arriving n j = false →
      (s.Ready (.evarr h f) h → ∃ u, exec (.evarr h f) s = .next u ∧ JoinsUnit (.evarr h f) h s u (.arrive n none)) ∧
      (∀ a, s.Ready (.evcmb h f) h → f.a.toNat ≤ 55 → f.a.toNat ∉ s.me.busy → a = s.me.reg f.a.toNat →
        f.d.toNat ≤ 55 → f.d.toNat ∉ s.me.busy →
        ∃ u, exec (.evcmb h f) s = .next u ∧ JoinsUnit (.evcmb h f) h s u
          (.arrive n (some ⟨a.v.extractLsb' 0 32, a.p, f.ef.extractLsb' 2 3, false⟩)))) ∧
    (n = field f.ef 0 2 → (t.bar n).en = true → (t.bar n).part.getLsbD j = true →
      SMap.find (t.bar n).arrived j ≠ some (t.bar n).gen.toNat →
      ∀ c', s.Ready (.evwaitB h f) h →
        writeDst s.me f.d ⟨BitVec.ofNat 64 ((t.bar n).gen.toNat * 2 ^ 32 + (t.bar n).res.toNat), (t.bar n).resP⟩ = .ok c' →
        exec (.evwaitB h f) s = .next (s.retire h c')) ∧
    (n = field f.ef 0 3 → (t.ev n).en = true → (t.ev n).mask.getLsbD j = true → (t.ev n).pend.getLsbD j = true →
      ∀ c', s.Ready (.evwaitE h f) h → writeDst s.me f.d ⟨BitVec.ofNat 64 (t.ev n).fcnt.toNat, false⟩ = .ok c' →
        ∃ u, exec (.evwaitE h f) s = .next u ∧ ((u.strip (stripOf s.cur)).ev n).pend.getLsbD j = false ∧
          (∀ i, i ≠ j → ((u.strip (stripOf s.cur)).ev n).pend.getLsbD i = (t.ev n).pend.getLsbD i) ∧
          ((u.strip (stripOf s.cur)).ev n).fcnt = (t.ev n).fcnt ∧ (u.cell s.cur).g = c'.g ∧ (u.cell s.cur).pc = c'.pc + 1) ∧
    (n = field f.ef 0 3 → (t.ev n).en = true →
      ((t.ev n).andLine = false ∨ (t.ev n).mask.getLsbD j = true ∧ (t.ev n).sigd.getLsbD j = false ∧ t.signalling n j = false) →
      s.Ready (.evsig h f) h → ∃ u, exec (.evsig h f) s = .next u ∧ JoinsUnit (.evsig h f) h s u (.signal n)) ∧
    (n = field f.ef 0 2 → (t.mut n).hold = some j → t.unlocking n j = false → s.Ready (.evunlk h f) h →
      ∃ u, exec (.evunlk h f) s = .next u ∧ JoinsUnit (.evunlk h f) h s u (.unlock n)) ∧
    (n = field f.ef 0 2 → s.Ready (.evlock h f) h →
      (s.me.step ≠ 0 → (t.mut n).hold = some j → t.locking n j = false → exec (.evlock h f) s = .next (s.retire h s.me)) ∧
      (s.me.step = 0 → (t.mut n).hold ≠ some j → j ∉ (t.mut n).wq → t.locking n j = false →
        ∃ u, exec (.evlock h f) s = .next u ∧ (u.cell s.cur).st = .asleep ∧ (u.cell s.cur).pc = s.me.pc ∧
          (u.strip (stripOf s.cur)).evq = t.evq ++ [⟨s.atIssue.now, j, .lock n, s.me.tok (.evlock h f) h⟩] ∧
          (u.cell s.cur).g = s.me.g))

/-- R291, R292, R293, R295, R297: what an applied change does. An arrival sets ARR and combines its contribution, and the last one
of PART completes the episode: RES, GEN + 1, ARR and ACCV clear; a fire counts FCNT and sets PEND for MASK; a mutex that is
released goes to its oldest request; an UP message is combined and a DOWN message completes the episode. -/
def Obligations.EventUnitChanges : Prop :=
  (∀ (s : State) (st n j at0 : Nat) (w : Option Comb) (tok : Tok) (b : Barrier), n < 4 → j < 8 → b = (s.strip st).bar n →
    (s.strip st).due = [] → (s.strip st).evq = [⟨at0, j, .arrive n w, tok⟩] → b.en = true → b.tree = false → b.part ≠ 0 →
    ∃ t, exec (.eventApply st) s = .next t ∧ (t.strip st).evq = [] ∧
      ((∀ i < 8, b.part.getLsbD i = true → b.arr.getLsbD i = true ∨ i = j) →
        ((t.strip st).bar n).gen = b.gen + 1 ∧ ((t.strip st).bar n).arr = 0 ∧ ((t.strip st).bar n).accv = none ∧
        (((t.strip st).bar n).res, ((t.strip st).bar n).resP) = resultOf (combine b.accv w)) ∧
      ((∃ i < 8, b.part.getLsbD i = true ∧ b.arr.getLsbD i = false ∧ i ≠ j) →
        ((t.strip st).bar n).gen = b.gen ∧ ((t.strip st).bar n).accv = combine b.accv w ∧
        ∀ i < 8, ((t.strip st).bar n).arr.getLsbD i = (b.arr.getLsbD i || decide (i = j)))) ∧
  (∀ (s : State) (st n : Nat) (e : EventLine), e = (s.strip st).ev n →
    ((s.evFire st n).strip st).ev n = { e with fcnt := e.fcnt + 1, pend := e.pend ||| e.mask, sigd := 0 }) ∧
  (∀ (s : State) (st n j at0 : Nat) (tok : Tok) (e : EventLine), j < 8 → e = (s.strip st).ev n → (s.strip st).due = [] →
    (s.strip st).evq = [⟨at0, j, .signal n, tok⟩] → e.andLine = false →
    ∃ t, exec (.eventApply st) s = .next t ∧ (t.strip st).ev n = { e with fcnt := e.fcnt + 1, pend := e.pend ||| e.mask, sigd := 0 }) ∧
  (∀ (s : State) (st n j i at0 : Nat) (tok : Tok) (rest : List Nat), n < 4 → j < 8 → (s.strip st).due = [] →
    (s.strip st).evq = [⟨at0, j, .unlock n, tok⟩] → ((s.strip st).mut n).wq = i :: rest →
    ∃ t, exec (.eventApply st) s = .next t ∧ ((t.strip st).mut n).hold = some i ∧ ((t.strip st).mut n).wq = rest) ∧
  (∀ (s : State) (st n j at0 : Nat) (tok : Tok), n < 4 → j < 8 → (s.strip st).due = [] →
    (s.strip st).evq = [⟨at0, j, .lock n, tok⟩] → (s.strip st).mut n = {} →
    ∃ t, exec (.eventApply st) s = .next t ∧ ((t.strip st).mut n).hold = some j ∧ ((t.strip st).mut n).wq = []) ∧
  (∀ (s : State) (st i : Nat) (m : UpMsg) (rest : List UpMsg) (b : Barrier), i < 8 → b = (s.strip st).bar m.line →
    (s.strip st).ups = m :: rest → (s.strip st).kid i = some m.fromStrip → (s.strip st).parent ≠ some st → b.part &&& ~~~b.arr ≠ 0 →
    ∃ t, exec (.eventUpMessage st) s = .next t ∧ (t.strip st).ups = rest ∧
      ((t.strip st).bar m.line).accv = combine b.accv m.accv ∧ ((t.strip st).bar m.line).reports.getLsbD i = true) ∧
  (∀ (s : State) (st n : Nat) (r : BitVec 32 × Bool) (rest : List (Nat × BitVec 32 × Bool)) (b : Barrier),
    b = (s.strip st).bar n → (s.strip st).downs = (n, r) :: rest → b.part ≠ 0 →
    ∃ t, exec (.eventDownMessage st) s = .next t ∧ ((t.strip st).bar n).gen = b.gen + 1 ∧ ((t.strip st).bar n).arr = 0 ∧
      (((t.strip st).bar n).res, ((t.strip st).bar n).resP) = r) ∧
  (∀ (s : State) (st n : Nat) (rest : List Nat) (e : EventLine), e = (s.strip st).ev n → (s.strip st).fires = n :: rest →
    e.en = true →
    ∃ t, exec (.eventParentFire st) s = .next t ∧
      (t.strip st).ev n = { e with fcnt := e.fcnt + 1, pend := e.pend ||| e.mask, sigd := 0 })

/-! ### The vector unit (R305 to R339) -/

/-- An instruction of format V issues to the vector queue (R310): its entry, with the VL of the issue, stands last, its token is
pending, and no vector or mask register, g register, port or byte of the local store has changed. `gs` lists the fields in role g,
whose poison raises POISON, `ra` says that A is one of them, which the
entry holds, and `ok` is what the operands must satisfy besides. -/
def Sys2Proof.Machine.VectorQueues (mk : Hdr → FmtV → Instr) (gs : FmtV → List (BitVec 6)) (ra : Bool)
    (ok : Cell → FmtV → Prop) : Prop :=
  ∀ (h : Hdr) (f : FmtV) (s : State), s.Ready (mk h f) h → s.me.vec.queue.length < 16 → s.me.vec.predWrites = [] →
    s.me.mat.writesV = [] → s.me.mat.readsV = [] → (∀ x ∈ [f.d, f.a, f.b, f.c], 32 ≤ x.toNat → x.toNat - 32 ∉ s.me.busy) →
    (∀ x ∈ gs f, (s.me.reg (x.toNat - 32)).p = false) → ok s.me f →
    ∃ t e, exec (mk h f) s = .next t ∧ (t.cell s.cur).vec.queue = s.me.vec.queue ++ [e] ∧ e.op = Instr.op (mk h f) ∧ e.f = f ∧
      e.vl = s.me.vec.vl ∧ e.begun = false ∧ e.tok = s.me.tok (mk h f) h ∧
      (ra = true → e.ga = s.me.reg (f.a.toNat - 32)) ∧
      (h.ee = true → (t.cell s.cur).slot h.es.toNat = .pending) ∧ (t.cell s.cur).pc = s.me.pc + 1 ∧
      (t.cell s.cur).vec.v = s.me.vec.v ∧ (t.cell s.cur).vec.m = s.me.vec.m ∧ (t.cell s.cur).vec.vl = s.me.vec.vl ∧
      (t.cell s.cur).g = s.me.g ∧ (t.cell s.cur).ins = s.me.ins ∧ (t.cell s.cur).outs = s.me.outs ∧
      (t.cell s.cur).store = s.me.store ∧ t.mem = s.mem

/-- R310: every vector instruction but VSETL enters the queue. -/
def Obligations.VectorInstructionsEnterTheQueue : Prop :=
  (∀ mk ∈ [Instr.vadd, .vsub, .vmul, .vfma, .vfms, .vdiv, .vsqrt, .vrcp, .vexp2, .vsig, .vmin, .vmax, .vabs, .vneg, .vcmp, .vsel,
      .vand, .vor, .vxor, .vshl, .vshr, .vsra, .vcvt, .vred, .vscan, .vperm, .viotaCnt, .vmovp],
    VectorQueues mk (fun _ => []) false (fun _ _ => True)) ∧
  (∀ mk ∈ [Instr.vldl, .vstl, .vsdc, .viota], VectorQueues mk (fun f => [f.a, f.b]) true (fun _ _ => True)) ∧
  (∀ mk ∈ [Instr.vgath, .vscat], VectorQueues mk (fun f => [f.a]) true (fun _ _ => True)) ∧
  VectorQueues .vbcast (fun f => if f.a.toNat < 16 then [f.b] else []) false (fun _ _ => True) ∧
  VectorQueues .vext (fun f => [f.b]) false (fun _ _ => True) ∧
  VectorQueues .vsde (fun f => [f.b, f.c]) false
    (fun c f => hdrBad (c.reg (f.c.toNat - 32)).v = false ∧ hdrE (c.reg (f.c.toNat - 32)).v ≠ 255) ∧
  VectorQueues .vsdd (fun f => [f.a, f.b]) true (fun c f => (c.reg (f.b.toNat - 32)).v.toNat < 32) ∧
  VectorQueues .vmovpRd (fun f => [f.b]) false (fun c f => (c.reg (f.b.toNat - 32)).v.toNat ≤ 15) ∧
  VectorQueues .vmovpWr (fun f => [f.b]) false (fun c f => (c.reg (f.b.toNat - 32)).v.toNat ≤ 15) ∧
  VectorQueues .vpopq (fun _ => []) false (fun c f => c.binding f.c.toNat = 1 ∧ (c.vec.vl + 1) / 2 ≤ (c.inEp f.c.toNat).slots) ∧
  VectorQueues .vpushq (fun _ => []) false (fun c f => c.binding f.c.toNat = 2 ∧ (c.vec.vl + 1) / 2 ≤ (c.outEp f.c.toNat).win.toNat)

/-- R337: VSETL writes VL and the granted count, from a register or from id.ext0. -/
def Sys2Proof.Machine.VsetlSets : Prop :=
  ∀ (h : Hdr) (f : FmtV) (s : State) (n : Nat) (c : Cell), s.Ready (.vsetl h f) h →
    (f.fn = 0 → f.a.toNat - 32 ∉ s.me.busy ∧ (s.me.reg (f.a.toNat - 32)).p = false ∧ n = (s.me.reg (f.a.toNat - 32)).v.toNat) →
    (f.fn = 1 → n = s.me.ident.ext0.toNat) → (f.fn = 2 → n = s.me.ident.ext1.toNat) → (f.fn = 3 → n = s.me.ident.ext2.toNat) →
    (4 ≤ f.fn.toNat → n = s.me.ident.ext3.toNat) →
    writeDst s.me (f.d - 32) ⟨BitVec.ofNat 64 (min n (512 * 32 / tyWidth f.ty)), false⟩ = .ok c →
    exec (.vsetl h f) s = .next (s.retire h { c with vec := { c.vec with vl := min 512 ((n * tyWidth f.ty + 31) / 32) } })

/-- The element of an integer lane operation without SAT, of width w (R98, R319, R325). -/
def Sys2Proof.Machine.laneElem (op : Nat) (w a b : Nat) : Option Nat :=
  match op with
  | 0x88 => some ((a + b) % 2 ^ w)
  | 0x89 => some ((a + 2 ^ w - b) % 2 ^ w)
  | 0x8A => some (a * b % 2 ^ w)
  | 0x98 => some (a &&& b)
  | 0x99 => some (a ||| b)
  | 0x9A => some (a ^^^ b)
  | 0x9B => some (a * 2 ^ (b % w) % 2 ^ w)
  | 0x9C => some (a / 2 ^ (b % w))
  | _ => none

/-- R307, R314, R317, R319, R325, R337: VSETL; and the completion of the oldest lane instruction of the queue, which has taken all its slots: each active element of
an integer operation holds its result, an inactive one is unchanged, or 0 under PZ, elements beyond VL are unchanged, the
instruction leaves the queue and its token fires. -/
def Obligations.VectorLaneResults : Prop :=
  VsetlSets ∧
  (∀ (s : State) (k : Nat) (e : VEntry) (rest : List VEntry) (w d : Nat), (s.cell k).vec.queue = e :: rest →
    isLane e.op = true → e.spent = true → e.wrote = [] → (∀ r ∈ e.refired, r.majority = true) → e.vl ≤ 512 → w = tyWidth e.f.ty →
    d = e.f.d.toNat →
    ∃ t, exec (.vectorCompletion k 0) s = .next t ∧ (t.cell k).vec.queue = rest ∧
      (∀ j, e.tok.slot = some j → (t.cell k).slot j.toNat = .idle) ∧ (t.cell k).g = (s.cell k).g ∧
      (t.cell k).store = (s.cell k).store ∧
      (e.op ≠ 0x96 → (∀ n, n ≠ d → (t.cell k).vec.reg n = (s.cell k).vec.reg n) ∧
        (∀ i, elemCount e.vl w ≤ i → i < 16384 / w →
          (((t.cell k).vec.reg d).elem w i).1 = (((s.cell k).vec.reg d).elem w i).1) ∧
        (∀ i, i < elemCount e.vl w → ((s.cell k).vec.active e.f.p w i).1 = false →
          (((t.cell k).vec.reg d).elem w i).1 = if e.f.pz then 0 else (((s.cell k).vec.reg d).elem w i).1)) ∧
      (isInt e.f.ty = true → e.f.sat = false → ∀ i r, i < elemCount e.vl w → ((s.cell k).vec.active e.f.p w i).1 = true →
        laneElem e.op.toNat w ((s.cell k).vec.opnd e.f.a e.ga w i).1 ((s.cell k).vec.opnd e.f.b e.gb w i).1 = some r →
        (((t.cell k).vec.reg d).elem w i).1 = r))

/-- R312, R314, R315, R330, R332, R338: the oldest port instruction begins once its checks pass; a check that fails discards the queue,
writes nothing and makes one fault pending that owns every slot; at completion, once it has taken its port clk, VLDL has read its elements, VEXT its element and
VMOVP its mask. -/
def Obligations.VectorPortInstructions : Prop :=
  ∀ (s : State) (k : Nat) (e : VEntry) (rest : List VEntry), (s.cell k).vec.queue = e :: rest → e.isPred = false →
    isLane e.op = false → s.portWaits k e = false →
    (∀ d, e.begun = false → portRun (s.cell k) e s.fresh s.freeElem = .ok d → exec (.vectorPortStart k) s =
      .next (s.setCell k { s.cell k with vec := { (s.cell k).vec with queue := { e with begun := true, cost := portCost (s.cell k) e } :: rest } })) ∧
    (∀ x, e.begun = false → portRun (s.cell k) e s.fresh s.freeElem = .error x → ∃ t r, exec (.vectorPortStart k) s = .next t ∧
      (t.cell k).vec.queue = [] ∧ (t.cell k).vec.v = (s.cell k).vec.v ∧ (t.cell k).vec.m = (s.cell k).vec.m ∧
      (t.cell k).g = (s.cell k).g ∧ (t.cell k).store = (s.cell k).store ∧ (t.cell k).ins = (s.cell k).ins ∧
      (t.cell k).faults = (s.cell k).faults ++ [r] ∧ r.cause = x.cause ∧ r.tval = x.tval ∧ r.vector = true ∧
      (∀ y ∈ e :: rest, ∀ j, y.tok.slot = some j → (t.cell k).slot j.toNat = .faulted ∧ r.slots.getLsbD j.toNat = true)) ∧
    (e.begun = true → e.spent = true → ∀ d, portRun (s.cell k) e s.fresh s.freeElem = .ok d → ∃ t, exec (.vectorCompletion k 0) s = .next t ∧
      (t.cell k).vec.queue = rest ∧ (t.cell k).vec.v = d.c.vec.v ∧ (t.cell k).vec.m = d.c.vec.m ∧ (t.cell k).g = d.c.g ∧
      (t.cell k).store = d.c.store ∧ (∀ j, e.tok.slot = some j → (t.cell k).slot j.toNat = .idle)) ∧
    (e.op = 0xA2 → (s.cell k).priors = [] → e.f.p = 0 → e.gb.v = 0 → e.vl ≤ 512 → ∀ w, w = tyWidth e.f.ty → e.ga.v.toNat % (w / 8) = 0 →
      e.ga.v.toNat + elemCount e.vl w * (w / 8) ≤ 0x20000 → ∃ d, portRun (s.cell k) e s.fresh s.freeElem = .ok d ∧
      (∀ i, i < elemCount e.vl w →
        ((d.c.vec.reg e.f.d.toNat).elem w i).1 = ((s.cell k).ldStore (e.ga.v.toNat + i * (w / 8)) (w / 8)).1) ∧
      (∀ n, n ≠ e.f.d.toNat → d.c.vec.reg n = (s.cell k).vec.reg n) ∧ d.c.g = (s.cell k).g ∧ d.c.store = (s.cell k).store) ∧
    (e.op = 0xA7 → 32 < e.f.d.toNat → e.gb.v.toNat < 16384 / tyWidth e.f.ty → ∃ d, portRun (s.cell k) e s.fresh s.freeElem = .ok d ∧
      d.c.reg (e.f.d.toNat - 32) =
        ⟨extElem e.f.ty (((s.cell k).vec.reg e.f.a.toNat).elem (tyWidth e.f.ty) e.gb.v.toNat).1,
          (((s.cell k).vec.reg e.f.a.toNat).elem (tyWidth e.f.ty) e.gb.v.toNat).2⟩ ∧
      d.c.vec = (s.cell k).vec) ∧
    (e.op = 0xAD → e.f.fn.toNat ≤ 4 → ∃ d, portRun (s.cell k) e s.fresh s.freeElem = .ok d ∧ (d.c.vec.mask e.f.d.toNat).b =
        (if e.f.fn = 0 then ((s.cell k).vec.mask e.f.a.toNat).b &&& ((s.cell k).vec.mask e.f.b.toNat).b
          else if e.f.fn = 1 then ((s.cell k).vec.mask e.f.a.toNat).b ||| ((s.cell k).vec.mask e.f.b.toNat).b
          else if e.f.fn = 2 then ((s.cell k).vec.mask e.f.a.toNat).b ^^^ ((s.cell k).vec.mask e.f.b.toNat).b
          else if e.f.fn = 3 then ((s.cell k).vec.mask e.f.a.toNat).b &&& ~~~((s.cell k).vec.mask e.f.b.toNat).b
          else ~~~((s.cell k).vec.mask e.f.a.toNat).b) ∧
      (∀ n, n ≠ e.f.d.toNat → d.c.vec.mask n = (s.cell k).vec.mask n) ∧ d.c.vec.v = (s.cell k).vec.v)

/-! ### The predicate unit (R341 to R364) -/

/-- A predicate instruction issues to the vector queue (R356). -/
def Sys2Proof.Machine.PredicateQueues (mk : Hdr → FmtX → Instr) : Prop :=
  ∀ (h : Hdr) (f : FmtX) (s : State), s.Ready (mk h f) h → s.me.vec.queue.length < 16 → s.me.vec.predWrites = [] →
    s.me.mat.writesV = [] → s.me.mat.readsV = [] → f.a.toNat ∉ s.me.busy → f.b.toNat ∉ s.me.busy →
    (s.me.reg f.a.toNat).p = false → (s.me.reg f.b.toNat).p = false →
    ∃ t e, exec (mk h f) s = .next t ∧ (t.cell s.cur).vec.queue = s.me.vec.queue ++ [e] ∧ e.op = Instr.op (mk h f) ∧ e.x = f ∧
      e.ga = s.me.reg f.a.toNat ∧ e.gb = s.me.reg f.b.toNat ∧ e.begun = false ∧ e.tok = s.me.tok (mk h f) h ∧
      (h.ee = true → (t.cell s.cur).slot h.es.toNat = .pending) ∧ (t.cell s.cur).pc = s.me.pc + 1 ∧
      (t.cell s.cur).vec.v = s.me.vec.v ∧ (t.cell s.cur).vec.m = s.me.vec.m ∧ (t.cell s.cur).g = s.me.g ∧
      (t.cell s.cur).store = s.me.store ∧ t.mem = s.mem

/-- R356, R364: predicates enter the queue; PSTAT gives the counters and, with CLR, sets them to 0. -/
def Sys2Proof.Machine.Rule.PredicateInstructions : Prop :=
  (∀ mk ∈ [Instr.pori2, .pori3, .pinci, .pinsp, .psegx], PredicateQueues mk) ∧
  (∀ (h : Hdr) (f : FmtX) (s : State) (c : Cell), s.Ready (.pstat h f) h → s.me.vec.cnta < 2 ^ 16 → s.me.vec.cntb < 2 ^ 16 →
    s.me.vec.cntc < 2 ^ 16 → s.me.vec.cntp < 2 ^ 8 → s.me.vec.preds.length ≤ 4 →
    writeDst s.me f.d ⟨BitVec.ofNat 64 (s.me.vec.cnta * 2 ^ 48 + s.me.vec.cntb * 2 ^ 32 + s.me.vec.cntc * 2 ^ 16 +
      s.me.vec.cntp * 2 ^ 8 + s.me.vec.preds.length * 2 ^ 4), false⟩ = .ok c →
    exec (.pstat h f) s = .next (s.retire h (if f.ef.getLsbD 0 then
      { c with vec := { c.vec with cnta := 0, cntb := 0, cntc := 0, cntp := 0 } } else c)))

/-- R344, R347, R350, R356 to R359, R363, R364: a predicate through its phases. A failed read discards the queue; hand-off passes the
instruction on; a stage settles a lane with its result, which for PORI2 past stage A is the sign of the exact determinant; a burst asks
for leave; completion writes the result register and the mask of zeros and counts the lanes. -/
def Sys2Proof.Machine.Rule.PredicatePhases : Prop :=
  (∀ (s : State) (k : Nat) (e : VEntry) (rest : List VEntry), (s.cell k).vec.queue = e :: rest → e.isPred = true →
    (e.begun = false → s.predWaits k e = false →
      (∀ ls, predRead ((s.cell k).asRead e s.fresh) e = .ok ls → ∃ t, exec (.predicateReadPhase k) s = .next t ∧
        (t.cell k).vec.queue = { e with begun := true, lanes := ls, cost := if ls.isEmpty then 1 else e.rl } :: rest ∧ (t.cell k).vec.v = (s.cell k).vec.v) ∧
      (∀ x, predRead ((s.cell k).asRead e s.fresh) e = .error x → ∃ t r, exec (.predicateReadPhase k) s = .next t ∧ (t.cell k).vec.queue = [] ∧
        (t.cell k).faults = (s.cell k).faults ++ [r] ∧ r.cause = x.cause ∧ r.tval = x.tval ∧
        (t.cell k).vec.v = (s.cell k).vec.v)) ∧
    (e.spent = true → (∀ r ∈ e.refired, r.majority = true) → (s.cell k).vec.preds.length < 4 →
      ∃ t x, exec (.predicateHandoff k e.tok.seq) s = .next t ∧
      (t.cell k).vec.queue = rest ∧ (t.cell k).vec.preds = (s.cell k).vec.preds ++ [x] ∧ x.op = e.op ∧ x.tok = e.tok ∧
      x.lanes = e.lanes.map (fun y => e.leave s.freeElem .a false y) ∧
      (∀ y, y ∈ (t.quad (quadOf k)).stageB ↔ y ∈ (s.quad (quadOf k)).stageB ∨
        ∃ l ∈ e.lanes, e.toB l = true ∧ y = ⟨k, e.tok.seq, l.lane, s.now⟩))) ∧
  (∀ (s : State) (q n k seq l at0 : Nat) (e : VEntry), n < 4 → (s.quad q).stageB[n]? = some ⟨k, seq, l, at0⟩ →
    (s.cell k).vec.predOf seq = some e → e.tok.seq = seq → ∃ t, exec (.stageBSettle q n []) s = .next t ∧
    (t.quad q).stageB = (s.quad q).stageB.eraseIdx n ∧ (t.cell k).vec.predOf seq =
      some { e with lanes := e.lanes.map (fun x => if x.lane = l then e.leave s.freeElem .b false x else x) }) ∧
  (∀ (s : State) (q : Nat) (b : Burst) (rest : List Burst) (e : VEntry), (s.quad q).stageC = b :: rest →
    (s.cell b.cell).vec.predOf b.seq = some e →
    (b.asked = false → ∃ t, exec (.stageCBurstStart q) s = .next t ∧ (t.quad q).stageC = { b with asked := true } :: rest ∧
      ∃ x, (t.block (blockOf b.cell)).reqs = (s.block (blockOf b.cell)).reqs ++ [x]) ∧
    (∀ l ls, b.granted = true → b.lanes = l :: ls → e.tok.seq = b.seq → ∃ t, exec (.stageCLaneSettle q []) s = .next t ∧
      (t.quad q).stageC = (if ls.isEmpty then rest else { b with lanes := ls } :: rest) ∧
      (t.cell b.cell).vec.predOf b.seq =
        some { e with lanes := e.lanes.map (fun x => if x.lane = l then e.leave s.freeElem .c false x else x) })) ∧
  (∀ (e : VEntry) (x : PredLane) (free : Nat → Nat) (st : Stage) (ax ay bx by_ cx cy : Val), e.op = 0xC0 → e.tb = false →
    x.words = [ax, ay, bx, by_, cx, cy] → (∀ v ∈ x.words, nonFinite v.v = false) → st ≠ .a →
    ∀ r, e.laneRes x = some r → r.stage = st → (e.leave free st false x).stage = st ∧
      (e.leave free st false x).res = BitVec.ofInt 32 (sign
        ((coordInt ax.v - coordInt cx.v) * (coordInt by_.v - coordInt cy.v) -
          (coordInt ay.v - coordInt cy.v) * (coordInt bx.v - coordInt cx.v)))) ∧
  (∀ (s : State) (k n : Nat) (e : VEntry), (s.cell k).vec.preds[n]? = some e → (∀ x ∈ e.lanes, x.stage ≠ .none ∧ x.lane < 16) →
    (e.lanes.map (fun x => x.lane)).Nodup → ∃ t, exec (.predicateCompletion k n) s = .next t ∧
      (t.cell k).vec.preds = (s.cell k).vec.preds.eraseIdx n ∧
      (∀ x ∈ e.lanes, (((t.cell k).vec.reg e.x.d.toNat).elem 32 x.lane).1 = x.res.toNat) ∧
      (e.tb = false → ∀ x ∈ e.lanes, ((t.cell k).vec.mask e.x.c.toNat).b.getLsbD x.lane = x.z) ∧
      (∀ j, e.tok.slot = some j → (t.cell k).slot j.toNat = .idle) ∧
      (t.cell k).vec.cnta = min 65535 ((s.cell k).vec.cnta + (e.lanes.filter (fun x => x.stage = .a)).length))

/-- R356, R364: predicates enter the queue; PSTAT gives the counters and, with CLR, sets them to 0. R344, R347, R350, R356 to R359, R363,
R364: a predicate through its phases. A failed read discards the queue; hand-off passes the instruction on; a stage settles a lane with
its result, which for PORI2 past stage A is the sign of the exact determinant; a burst asks for leave; completion writes the result
register and the mask of zeros and counts the lanes. -/
def Obligations.PredicatesRun : Prop := Rule.PredicateInstructions ∧ Rule.PredicatePhases

/-! ### The matrix arrays (R365 to R393) -/

/-- What a matrix instruction that adds entries leaves alone: accumulators, scales, registers, ports and memory. -/
def Sys2Proof.Machine.MatrixQueues (h : Hdr) (s t : State) : Prop :=
  (h.ee = true → (t.cell s.cur).slot h.es.toNat = .pending) ∧ (t.cell s.cur).pc = s.me.pc + 1 ∧
  (t.cell s.cur).mat.acc = s.me.mat.acc ∧ (t.cell s.cur).mat.sc = s.me.mat.sc ∧ (t.cell s.cur).vec = s.me.vec ∧
  (t.cell s.cur).g = s.me.g ∧ (t.cell s.cur).ins = s.me.ins ∧ (t.cell s.cur).outs = s.me.outs ∧
  (t.cell s.cur).store = s.me.store ∧ (∀ k, k ≠ s.cur → t.cell k = s.cell k) ∧ t.mem = s.mem

/-- A per-slot instruction adds one entry for each accumulator of its list (R388). -/
def Sys2Proof.Machine.TransferQueues (mk : Hdr → FmtX → Instr) (accs : FmtX → List Nat) (v : FmtX → Nat) (clr : FmtX → Bool) : Prop :=
  ∀ (h : Hdr) (f : FmtX) (s : State), s.Ready (mk h f) h → s.me.mat.entries.length + (accs f).length ≤ 16 →
    ∃ t, exec (mk h f) s = .next t ∧ MatrixQueues h s t ∧ (t.cell s.cur).mat.joined = s.me.mat.joined ∧
      (t.cell s.cur).mat.entries = s.me.mat.entries ++
        (accs f).map (fun a => ⟨s.me.tok (mk h f) h, none, a, v f, clr f⟩)

/-- R368, R387, R388, R392: MGANG and MLEAVE join their group, transfers enter, each as an entry of the cell, and no accumulator or
register changes at issue. -/
def Sys2Proof.Machine.Rule.MatrixEntries : Prop :=
  (∀ (h : Hdr) (f : FmtX) (s : State) (ga gb gk : Val), s.Ready (.mgang h f) h → s.me.mat.entries.length < 16 →
    f.a.toNat ∉ s.me.busy → f.b.toNat ∉ s.me.busy → f.c.toNat ∉ s.me.busy → ga = s.me.reg f.a.toNat → gb = s.me.reg f.b.toNat →
    gk = s.me.reg f.c.toNat → gb.p = false → gk.p = false → 1 ≤ gk.v.toNat → gk.v.toNat ≤ 4096 → stripInLoad s s.me = true →
    (slotOf s.cur = 0 → ga.p = false ∧ descIllegal ga.v 43 (field f.ef 3 5) 0 = false ∧ descAlign ga.v (aStride ga.v) = false ∧
      descBound ga.v (aRows ga.v) (aStride ga.v) gk.v.toNat = false) →
    (bCols gb.v ≠ 0 → descIllegal gb.v 45 (field f.ef 3 5) (bCols gb.v) = false ∧ descAlign gb.v (bStride gb.v) = false ∧
      descBound gb.v (bCols gb.v) (bStride gb.v) gk.v.toNat = false) →
    ∃ t e x, exec (.mgang h f) s = .next t ∧ MatrixQueues h s t ∧ (t.cell s.cur).mat.entries = s.me.mat.entries ++ [e] ∧
      (t.cell s.cur).mat.joined = s.me.mat.joined + 1 ∧ e.tok = s.me.tok (.mgang h f) h ∧ e.join = some x ∧ x.kind = 0 ∧
      x.j = s.me.mat.joined ∧ x.acc = field f.ef 0 3 ∧ x.n = field f.ef 3 5 ∧ x.kb = gk.v.toNat ∧ x.a = ga.v ∧ x.b = gb.v ∧
      x.cut = s.me.mat.cut ∧ x.t = s.me.mat.scale (field f.ef 8 2)) ∧
  (∀ (h : Hdr) (f : FmtX) (s : State), s.me.mat.entries.length < 16 →
    (s.Ready (.mleaveRsv h f) h → ∃ t e x, exec (.mleaveRsv h f) s = .next t ∧ MatrixQueues h s t ∧
      (t.cell s.cur).mat.entries = s.me.mat.entries ++ [e] ∧ (t.cell s.cur).mat.joined = s.me.mat.joined + 1 ∧
      e.join = some x ∧ x.kind = 1 ∧ x.j = s.me.mat.joined ∧ x.w = f.ef.toNat) ∧
    (s.Ready (.mleaveRel h f) h → ∃ t e x, exec (.mleaveRel h f) s = .next t ∧ MatrixQueues h s t ∧
      (t.cell s.cur).mat.entries = s.me.mat.entries ++ [e] ∧ (t.cell s.cur).mat.joined = s.me.mat.joined + 1 ∧
      e.join = some x ∧ x.kind = 2 ∧ x.j = s.me.mat.joined)) ∧
  TransferQueues .mread (fun f => [field f.ef 0 3]) (fun f => f.d.toNat) (fun f => f.ef.getLsbD 3) ∧
  TransferQueues .mfill (fun f => [field f.ef 0 3]) (fun f => f.a.toNat) (fun _ => false) ∧
  TransferQueues .mswap (fun f => [field f.ef 0 3]) (fun f => f.d.toNat) (fun _ => false) ∧
  TransferQueues .mclr (fun f => (List.range 8).filter (fun i => f.ef.getLsbD i)) (fun _ => 0) (fun _ => false)

/-- R389, R390, R391, R393: the instructions that act at issue. -/
def Sys2Proof.Machine.Rule.MatrixSettings : Prop :=
  ∀ (h : Hdr) (f : FmtX) (s : State),
    (s.Ready (.mscl h f) h → f.a.toNat ∉ s.me.busy → (s.me.reg f.a.toNat).p = false → -32768 ≤ (s.me.reg f.a.toNat).v.toInt →
      (s.me.reg f.a.toNat).v.toInt ≤ 32767 → ∃ t, exec (.mscl h f) s = .next t ∧
        (t.cell s.cur).mat.scale (field f.ef 0 2) = (s.me.reg f.a.toNat).v.toInt ∧
        (∀ n, n ≠ field f.ef 0 2 → (t.cell s.cur).mat.scale n = s.me.mat.scale n) ∧ (t.cell s.cur).g = s.me.g ∧
        (t.cell s.cur).mat.entries = s.me.mat.entries) ∧
    (∀ c, s.Ready (.msclRd h f) h → writeDst s.me f.d ⟨BitVec.ofInt 64 (s.me.mat.scale (field f.ef 0 2)), false⟩ = .ok c →
      exec (.msclRd h f) s = .next (s.retire h c)) ∧
    (∀ c, s.Ready (.mstat h f) h → s.me.mat.entries.length ≤ 16 → (s.stripMat (stripOf s.cur)).rsv < 16 →
      writeDst s.me f.d ⟨BitVec.ofNat 64 (s.me.mat.entries.length * 2 ^ 24 + (s.stripMat (stripOf s.cur)).rsv * 2 ^ 20 +
        s.me.mat.stat.toNat), false⟩ = .ok c →
      exec (.mstat h f) s = .next (s.retire h (if f.ef.getLsbD 0 then { c with mat := { c.mat with stat := 0 } } else c))) ∧
    (s.Ready (.mcut h f) h → exec (.mcut h f) s =
      .next (s.retire h { s.me with mat := { s.me.mat with cut := (true, f.ef.extractLsb' 0 4) } })) ∧
    (s.Ready (.mcutOff h f) h → ∃ t, exec (.mcutOff h f) s = .next t ∧ (t.cell s.cur).mat.cut.1 = false) ∧
    (s.Ready (.msync h f) h → s.me.mat.entries = [] → exec (.msync h f) s = .next (s.retire h s.me))

/-- R368, R387, R388, R392: MGANG and MLEAVE join their group, transfers enter, each as an entry of the cell, and no accumulator or
register changes at issue. R389, R390, R391, R393: the instructions that act at issue. -/
def Obligations.MatrixEntriesAndSettings : Prop := Rule.MatrixEntries ∧ Rule.MatrixSettings

/-- R369, R370, R376, R380, R383, R388: a group whose eight joins agree forms, and one whose joins differ faults in every slot with
GANGMM; a gang asks for its leave, starts, and completes, which fires its eight entries and changes no other accumulator; a transfer
moves its accumulator, where an element whose parity fails is read poisoned (R385). -/
def Obligations.MatrixArray : Prop :=
  (∀ (s : State) (st : Nat) (x : Join) (ys : List Join), s.joins st (s.stripMat st).next = x :: ys → ys.length = 7 →
    (x.kind = 0 → (∀ g ∈ (s.stripMat st).groups, g.kind ≠ 2) →
      (∀ y ∈ ys, y.kind = 0 ∧ y.acc = x.acc ∧ y.n = x.n ∧ y.kb = x.kb ∧ y.int = x.int ∧ y.cut = x.cut) →
      ∃ t g, exec (.groupFormation st) s = .next t ∧ (t.stripMat st).groups = (s.stripMat st).groups ++ [g] ∧
        (t.stripMat st).next = (s.stripMat st).next + 1 ∧ g.j = (s.stripMat st).next ∧ g.kind = 0 ∧ g.acc = x.acc ∧ g.n = x.n ∧
        g.kb = x.kb ∧ g.started = false ∧ ∀ k, t.cell k = s.cell k) ∧
    ((∃ y ∈ ys, y.kind ≠ x.kind ∨ (x.kind = 0 ∧ y.acc ≠ x.acc) ∨ (x.kind = 0 ∧ y.n ≠ x.n) ∨ (x.kind = 0 ∧ y.kb ≠ x.kb) ∨
        (x.kind = 1 ∧ y.w ≠ x.w)) →
      ∃ t, exec (.groupFormation st) s = .next t ∧ (t.stripMat st).groups = (s.stripMat st).groups ∧
        ∀ i < 8, ∀ e y, (s.cell (cellOfStrip st i)).joinOf (s.stripMat st).next = some (e, y) →
          (t.cell (cellOfStrip st i)).mat.entries = (s.cell (cellOfStrip st i)).mat.entries.erase e ∧
          (t.cell (cellOfStrip st i)).mat.acc = (s.cell (cellOfStrip st i)).mat.acc ∧
          ∀ j, e.tok.slot = some j → (t.cell (cellOfStrip st i)).slot j.toNat = .faulted ∧
            ∃ r ∈ (t.cell (cellOfStrip st i)).faults, r.cause = 11 ∧ r.slot = j)) ∧
  (∀ (s : State) (st : Nat) (g : Group), (s.stripMat st).groups = [g] → g.kind = 0 →
    (g.asked = false → g.granted = false → s.eligible st g = true → (s.stripMat st).rsv < g.w →
      ∃ t, exec (.gangLeaveRequest st) s = .next t ∧ (t.stripMat st).groups = [{ g with asked := true }] ∧
        (t.block (blockOfStrip st)).reqs = (s.block (blockOfStrip st)).reqs ++ [⟨.gang st g.j, g.w, g.streaming⟩]) ∧
    (s.eligible st g = true → g.granted = true ∨ g.w ≤ (s.stripMat st).rsv →
      ∃ t, exec (.gangStart st) s = .next t ∧
        (t.stripMat st).groups =
          [{ g with started := true, covered := !g.granted && decide (0 < g.w), endAt := s.now + g.streaming }]) ∧
    (g.started = true → s.gangBusy st g = false →
      ∃ t, exec (.gangCompletion st 0 []) s = .next t ∧ (t.stripMat st).groups = [] ∧
        ∀ i < 8, (∀ n, n ≠ g.acc →
            (t.cell (cellOfStrip st i)).mat.accOf n = (s.cell (cellOfStrip st i)).mat.accOf n) ∧
          ∀ e y, (s.cell (cellOfStrip st i)).joinOf g.j = some (e, y) →
            (t.cell (cellOfStrip st i)).mat.entries = (s.cell (cellOfStrip st i)).mat.entries.erase e ∧
            ((∀ z ∈ (s.cell (cellOfStrip st i)).mat.entries.erase e, z.tok.seq ≠ e.tok.seq) →
              ∀ j, e.tok.slot = some j → (t.cell (cellOfStrip st i)).slot j.toNat = .idle))) ∧
  (∀ (s : State) (k : Nat) (e : MatEntry) (rest : List MatEntry), (s.cell k).mat.entries = e :: rest → e.join = none →
    (s.cell k).vec.queue = [] → (s.cell k).vec.preds = [] → ∃ t, exec (.matrixTransferComplete k 0) s = .next t ∧
      (t.cell k).mat.entries = rest ∧ (∀ n, n ≠ e.acc → (t.cell k).mat.accOf n = (s.cell k).mat.accOf n) ∧
      (∀ n, n ≠ e.v → (t.cell k).vec.reg n = (s.cell k).vec.reg n) ∧
      ((∀ x ∈ (s.cell k).mat.bad, x.1 ≠ e.acc) →
        (e.tok.opb = 0xC9 → (t.cell k).vec.reg e.v = (s.cell k).mat.accOf e.acc ∧
          (t.cell k).mat.accOf e.acc = if e.clr then {} else (s.cell k).mat.accOf e.acc) ∧
        (e.tok.opb = 0xCF → (t.cell k).mat.accOf e.acc = (s.cell k).vec.reg e.v ∧
          (t.cell k).vec.reg e.v = (s.cell k).mat.accOf e.acc)) ∧
      (e.tok.opb = 0xC9 ∨ e.tok.opb = 0xCF → ∀ x ∈ (s.cell k).mat.bad, x.1 = e.acc → x.2 < 512 →
        (((t.cell k).vec.reg e.v).pos x.2).2 = true ∧ x ∉ (t.cell k).mat.bad) ∧
      (e.tok.opb = 0xCD → (t.cell k).mat.accOf e.acc = (s.cell k).vec.reg e.v ∧ (t.cell k).vec.reg e.v = (s.cell k).vec.reg e.v) ∧
      (e.tok.opb = 0xCA → (t.cell k).mat.accOf e.acc = {} ∧ (t.cell k).vec.reg e.v = (s.cell k).vec.reg e.v))
/-! ### The exchange arbiter (R406 to R423) -/

/-- R419 to R423: XSEND appends a segment, XPOST posts the demands, XGRANT names the place of the record and becomes GRANTING, XDONE
closes, XSTAT reads the agent's status. -/
def Obligations.ExchangeInstructions : Prop :=
  ∀ (h : Hdr) (f : FmtX) (s : State) (n : Nat) (g : XGroup) (a : Agent), n = field f.ef 0 4 → g = s.xgroup n → a = s.me.agent n →
    g.en = true → (s.partOf g s.cur).isSome = true → (∀ x ∈ [f.d, f.a, f.b, f.c], x.toNat ∉ s.me.busy) →
    (∀ gp ga gl, s.Ready (.xsend h f) h → gp = s.me.reg f.d.toNat → ga = s.me.reg f.a.toNat → gl = s.me.reg f.b.toNat →
      gp.p = false → ga.p = false → gl.p = false → a.st = 0 → gp.v.toNat < g.np → gl.v.toNat < 2 ^ 40 → 0 < gl.v.toNat →
      a.segs.length < 64 → ga.v.toNat % 8 = 0 → gl.v.toNat % 8 = 0 → ga.v.toNat + gl.v.toNat ≤ 2 ^ 57 →
      exec (.xsend h f) s = .next (s.retire h { s.me.setAgent n { a with
        segs := a.segs ++ [⟨gp.v.toNat, ga.v.toNat, gl.v.toNat, false⟩] } with nonReplay := true })) ∧
    (∀ gt gb gl, s.Ready (.xpost h f) h → gt = s.me.reg f.a.toNat → gb = s.me.reg f.b.toNat → gl = s.me.reg f.c.toNat →
      gt.p = false → gb.p = false → gl.p = false → a.st = 0 → gl.v.toNat < 2 ^ 40 → gt.v.toNat % 8 = 0 → gb.v.toNat % 8 = 0 →
      gl.v.toNat % 8 = 0 → gt.v.toNat + 8 * g.np ≤ 0x20000 → gb.v.toNat + gl.v.toNat ≤ 2 ^ 57 →
      (∀ p < g.np, (s.me.ldWord (gt.v.toNat + 8 * p)).v.toNat < 2 ^ 40 ∧ (s.me.ldWord (gt.v.toNat + 8 * p)).p = false) →
      ∃ t x, exec (.xpost h f) s = .next t ∧ ((t.cell s.cur).agent n).st = 1 ∧ ((t.cell s.cur).agent n).post = some x ∧
        ((t.cell s.cur).agent n).acks = a.acks ++ [(s.me.tok (.xpost h f) h, false)] ∧
        x.base = gb.v.toNat ∧ x.limit = gl.v.toNat ∧ (∀ p < g.np, x.demand.getD p 0 =
          (s.me.ldWord (gt.v.toNat + 8 * p)).v.toNat + a.heldFor p) ∧
        (t.cell s.cur).g = s.me.g ∧ (h.ee = true → (t.cell s.cur).slot h.es.toNat = .pending)) ∧
    (∀ ga, s.Ready (.xgrant h f) h → ga = s.me.reg f.a.toNat → ga.p = false → a.st = 1 → f.d.toNat ≤ 55 → ga.v.toNat % 8 = 0 →
      ga.v.toNat + 16 * g.np + 16 ≤ 0x20000 →
      ∃ t, exec (.xgrant h f) s = .next t ∧ ((t.cell s.cur).agent n).st = 2 ∧ ((t.cell s.cur).agent n).recAt = ga.v.toNat ∧
        ((t.cell s.cur).agent n).grant = some (f.d, s.me.tok (.xgrant h f) h) ∧ (t.cell s.cur).g = s.me.g ∧
        (h.ee = true → (t.cell s.cur).slot h.es.toNat = .pending)) ∧
    (s.Ready (.xdone h f) h → f.d.toNat ≤ 55 → (a.st = 2 ∧ a.closing = none) ∨ a.st = 3 →
      ∃ t, exec (.xdone h f) s = .next t ∧ ((t.cell s.cur).agent n).st = (if a.st = 3 then 4 else 2) ∧
        ((t.cell s.cur).agent n).closing = some (f.d, s.me.tok (.xdone h f) h) ∧ (t.cell s.cur).g = s.me.g ∧
        (h.ee = true → (t.cell s.cur).slot h.es.toNat = .pending)) ∧
    (∀ c, s.Ready (.xstat h f) h → a.st < 8 → a.fails < 16 → a.held < 2 ^ 40 →
      writeDst s.me f.d ⟨BitVec.ofNat 64 (a.round.toNat * 2 ^ 48 + a.st * 2 ^ 45 + (if a.stby then 2 ^ 44 else 0) +
        a.fails * 2 ^ 40 + a.held), false⟩ = .ok c →
      exec (.xstat h f) s = .next (s.retire h c))

/-- R409: the grants of a receiver never pass its limit nor a sender's demand, and a phase is a partial permutation: no sender and no
receiver has two pairs in it. -/
def Sys2Proof.Machine.Rule.RoundPlans : Prop :=
  (∀ (p : Nat) (d : Nat → Nat) (ss : List Nat) (room : Nat),
    ((grantRow p d ss room).map (fun x => x.2)).sum ≤ room ∧
    (∀ x ∈ grantRow p d ss room, x.1.2 = p ∧ x.1.1 ∈ ss ∧ x.2 ≤ d x.1.1) ∧ (grantRow p d ss room).length = ss.length) ∧
  (∀ (ns : List ((Nat × Nat) × Nat)), ((phasePairs ns).map (fun x => x.1)).Nodup ∧ ((phasePairs ns).map (fun x => x.2)).Nodup ∧
    ∀ x ∈ phasePairs ns, ∃ n, (x, n) ∈ ns ∧ 0 < n)

/-- R407, R408, R411, R413, R416, R420 to R422: a post reaches the arbiter, in the round that its deadline leaves open, and is
acknowledged; the last one or the deadline closes the round, the calendar is written, phases start on the circuits reserved, a pair moves
the bytes of its supply to the receiver's region, or sends SHORT where it has none, the part of a participant ends, and the standby takes
over after four missing heartbeats. -/
def Sys2Proof.Machine.Rule.ExchangeRounds : Prop :=
  ∀ (s : State) (n p k : Nat) (g : XGroup) (c : Cell) (a : Agent), g = s.xgroup n → s.agentCell g p = some k → c = s.cell k →
    a = c.agent n →
    (∀ x, g.serves = true → a.post = some x → a.arrived = false → (g.due s.now = false → ∀ y ∈ g.posts, y.1 ≠ p) →
      ∃ t, exec (.xaPostArrival n p) s = .next t ∧ ((t.cell k).agent n).arrived = true ∧
      (g.due s.now = false → ((t.cell k).agent n).round = g.round ∧
        (g.posts.length + 1 ≠ g.np → (t.xgroup n).posts = g.posts ++ [(p, x)] ∧ (t.xgroup n).rounds = g.rounds) ∧
        (g.posts.length + 1 = g.np → (t.xgroup n).posts = [] ∧ (t.xgroup n).round = g.round + 1 ∧
          (t.xgroup n).rounds = g.rounds ++ [planRound g.round g.q (g.posts ++ [(p, x)]) g.np])) ∧
      (g.due s.now = true → 1 < g.np → ((t.cell k).agent n).round = g.round + 1 ∧ (t.xgroup n).posts = [(p, x)] ∧
        (t.xgroup n).rounds = g.rounds ++ [planRound g.round g.q g.posts g.np])) ∧
    (∀ w rest, a.acks = (w, true) :: rest → ∃ t, exec (.xpostAck n p) s = .next t ∧ ((t.cell k).agent n).acks = rest ∧
      (∀ j, w.slot = some j → (t.cell k).slot j.toNat = .idle)) ∧
    (g.serves = true → g.dl ≠ 0 → g.posts ≠ [] → g.firstAt + 1024 * g.dl ≤ s.now → ∃ t, exec (.roundDeadline n) s = .next t ∧
      (t.xgroup n).posts = [] ∧ (t.xgroup n).rounds = g.rounds ++ [planRound g.round g.q g.posts g.np]) ∧
    (∀ d w r, a.grant = some (d, w) → d ≠ 0 → g.find a.round = some r → a.st = 2 → a.arrived = true → p ∉ r.written →
      s.storeBusy k a.recAt (16 * g.np + 16) = false →
      ∃ t, exec (.calendarWrite n p) s = .next t ∧ (t.cell k).reg d.toNat = ⟨BitVec.ofNat 64 r.phases.length, false⟩ ∧
        (t.cell k).store = (c.stWords a.recAt (r.record g.np p)).store ∧
        ((t.cell k).agent n).st = (if a.closing.isSome then 4 else 3) ∧ ((t.cell k).agent n).grant = none ∧
        (∀ j, w.slot = some j → (t.cell k).slot j.toNat = .idle)) ∧
    (∀ r, g.serves = true → g.rounds = [r] → r.phase < r.phases.length → r.running = false → r.short = [] → r.pairs ≠ [] →
      g.each * r.pairs.length ≤ g.reserved →
      ∃ t, exec (.exchangePhaseStart n) s = .next t ∧ (t.xgroup n).rounds =
        [{ r with running := true, ended := [], circuits := bindCircuits g.each r.pairs }]) ∧
    (∀ r q kq, g.rounds = [r] → r.running = true → r.pairs = [(p, q)] → s.agentCell g q = some kq → p ∉ r.ended → p ∈ r.written →
      q ∈ r.written → r.used = [] → r.through = [] → r.inbox = [] → r.asm = [] → 0 < r.slotLen g.q (p, q) →
      (∀ x ∈ a.segs, x.dst ≠ q) →
      ∃ t, exec (.exchangePairEnd n p) s = .next t ∧ t.mem = s.mem ∧ ((t.cell k).agent n).segs = a.segs ∧
        (t.xgroup n).rounds = [{ r with
          short := (p, q) :: r.short, phase := r.phase + 1, running := false, ended := [], circuits := [], used := [], through := []
          inbox := [], fresh := SMap.erase r.fresh q }]) ∧
    (∀ r q kq y z sa da hb sp dp, g.rounds = [r] → r.running = true → r.pairs = [(p, q)] → s.agentCell g q = some kq → kq ≠ k →
      p ∉ r.ended → p ∈ r.written → q ∈ r.written → r.used = [] → r.through = [] → r.inbox = [] → r.asm = [] → r.delivered = [] →
      r.slotLen g.q (p, q) = 8 → a.segs = [⟨q, y, 8, hb⟩] → y % 8 = 0 → z = r.place g.q (p, q) → z % 8 = 0 → a.words = [] →
      ((s.cell kq).agent n).words = [] →
      s.enginePage (blockOf k) c.ident.dom y false .source = .ok (sa, sp) → pKind sp.entry = 0 → s.own sa = true →
      s.combHolds (blockOf k) sa = false → s.vaultBusy (sa % 2 ^ 50) = false → s.hostHeld (sa % 2 ^ 50) = false →
      s.enginePage (blockOf kq) (s.cell kq).ident.dom z true .dest = .ok (da, dp) → pKind dp.entry = 0 → s.own da = true →
      s.combHolds (blockOf kq) da = false → s.vaultBusy (da % 2 ^ 50) = false → s.hostHeld (da % 2 ^ 50) = false →
      (s.gword (sa % 2 ^ 50)).p = false →
      ∃ t r', exec (.exchangePairEnd n p) s = .next t ∧ t.mem.read (da % 2 ^ 50) 8 = (s.gword (sa % 2 ^ 50)).v.toNat ∧
        (∀ j, j < da % 2 ^ 50 ∨ da % 2 ^ 50 + 8 ≤ j → Memory.byte t.mem j = Memory.byte s.mem j) ∧
        ((t.cell k).agent n).segs = [] ∧ (t.xgroup n).rounds = [r'] ∧ r'.phase = r.phase + 1 ∧ r'.running = false ∧
        r'.short = r.short ∧ r'.deliveredTo p q = 8 ∧
        (((s.cell kq).agent n).se = true → (t.cell kq).sem ((s.cell kq).agent n).sem =
          ((s.cell kq).sem ((s.cell kq).agent n).sem).add (SMap.get 0 r.fresh q + 8 : Nat))) ∧
    (∀ d w r, a.closing = some (d, w) → d ≠ 0 → g.find a.round = some r → a.st = 4 → p ∈ r.written → r.partOver p = true →
      a.causes = [] → s.storeBusy k a.recAt (16 * g.np + 16) = false →
      ∃ t, exec (.xdoneComplete n p) s = .next t ∧ ((t.cell k).agent n).st = 0 ∧
        (t.cell k).reg d.toNat = ⟨BitVec.ofNat 64 ((a.segs.map (fun x => x.len)).sum), false⟩ ∧
        (t.cell k).store = (c.stWords (a.recAt + 16) ((upto g.np).map (fun x => r.deliveredTo x p))).store ∧
        ((t.cell k).agent n).segs = a.segs.map (fun x => { x with held := true }) ∧
        (∀ j, w.slot = some j → (t.cell k).slot j.toNat = .idle)) ∧
    (g.hasStandby = true →
      (g.dead = false → ∃ t, exec (.xaHeartbeat n) s = .next t ∧ (t.xgroup n).beatAt = s.now) ∧
      (g.beatAt + 4 * 2 ^ 16 ≤ s.now → ∃ t, exec (.xaStandbyTakeover n) s = .next t ∧ (t.xgroup n).taken = true ∧
        ((t.cell k).agent n).stby = true ∧ (t.xgroup n).rounds = g.rounds.filter XRound.issued) ∧
      (s.now < g.beatAt + 4 * 2 ^ 16 → exec (.xaStandbyTakeover n) s = .next s))

/-- R409: the grants of a receiver never pass its limit nor a sender's demand, and a phase is a partial permutation: no sender and no
receiver has two pairs in it. R407, R408, R411, R413, R416, R420 to R422: a post reaches the arbiter, in the round that its deadline
leaves open, and is acknowledged; the last one or the deadline closes the round, the calendar is written, phases start on the circuits
reserved, a pair moves the bytes of its supply to the receiver's region, or sends SHORT where it has none, the part of a participant ends,
and the standby takes over after four missing heartbeats. -/
def Obligations.ExchangeRoundsRun : Prop := Rule.RoundPlans ∧ Rule.ExchangeRounds

/-! ### Supervisor instructions and the configuration stream (R43 to R52, R458 to R463) -/

/-- R459 to R463: QFWD sends the cut's markers, PARK parks once the cell is settled, REINJ rewinds a consumer, PTEST asks the row manager,
whose answer is written, WDOG arms and disarms the watchdog, whose expiry parks the cell with HANG. -/
def Obligations.SupervisorInstructions : Prop :=
  (∀ (h : Hdr) (f : FmtX) (s : State) (m : BitVec 8), m = f.ef.extractLsb' 3 8 → s.Ready (.qfwd h f) h → s.me.qreq = true →
    s.me.rpl = false → (∀ i < 8, m.getLsbD i = true → (s.me.outEp i).en = true ∧ ((s.me.outEp i).fwd = true ∨ 0 < (s.me.outEp i).room)) →
    ∃ t, exec (.qfwd h f) s = .next t ∧ (∀ i < 8, m.getLsbD i = true → ((t.cell s.cur).outEp i).fwd = true ∧
        ((s.me.outEp i).fwd = true → (t.cell s.cur).outEp i = s.me.outEp i) ∧
        ((s.me.outEp i).fwd = false → ∃ x, ((t.cell s.cur).outEp i).ents = (s.me.outEp i).ents ++ [x] ∧ x.w.tag = 7 ∧
          field x.w.v 56 8 = 2 ∧ field x.w.v 0 32 = s.me.qcut.toNat ∧ x.w.seq = (s.me.outEp i).seq)) ∧
      (∀ i < 8, m.getLsbD i = false → (t.cell s.cur).outEp i = s.me.outEp i) ∧ (t.cell s.cur).g = s.me.g) ∧
  (∀ (h : Hdr) (f : FmtX) (s : State) (i : Instr) (why : PCause),
    (i = .parkCut h f ∧ why = .cut ∧ s.me.sys.entry = 17 ∧ s.me.qreq = true ∧
        (∀ p < 8, (s.me.outEp p).en = true → (s.me.outEp p).fwd = true)) ∨ (i = .parkSelf h f ∧ why = .self) →
    s.Ready i h → (s.atIssue.setCell s.cur { s.me with parkWait := some why }).settled s.cur = true →
    ∃ t, exec i s = .next t ∧ (t.cell s.cur).st = .parked ∧ (t.cell s.cur).pcause = why ∧ (t.cell s.cur).pc = s.me.pc + 1 ∧
      (t.cell s.cur).g = s.me.g ∧ (t.cell s.cur).sems = s.me.sems ∧ (why = .cut → (t.cell s.cur).qreq = false ∧
        ∀ p < 8, ((t.cell s.cur).inEp p).popped = [] ∧ ((t.cell s.cur).outEp p).fwd = false)) ∧
  (∀ (h : Hdr) (f : FmtX) (s : State) (i n : Nat) (a b : Val) (q : BitVec 32), i = field f.ef 0 3 → s.Ready (.reinj h f) h →
    f.a.toNat ∉ s.me.busy → f.b.toNat ∉ s.me.busy → f.d.toNat ∉ s.me.busy → f.d.toNat ≤ 55 → f.d ≠ 0 → a = s.me.reg f.a.toNat →
    b = s.me.reg f.b.toNat → a.p = false → b.p = false → n = a.v.toNat → q = b.v.extractLsb' 0 32 → field b.v 32 32 = 0 →
    (s.me.outEp i).en = true → n ≤ (s.me.outEp i).mcm1.toNat → s.me.unretired i n q = true →
    (dstModule ((s.me.outEp i).dstOf n) = s.modNo → (s.cell (dstCell ((s.me.outEp i).dstOf n))).rewinds.length < 16) →
    ∃ t, exec (.reinj h f) s = .next t ∧ (t.cell s.cur).reg f.d.toNat =
        ⟨BitVec.ofNat 64 ((s.me.outEp i).ents.filter (fun x => !x.acked.getLsbD n && seqFrom q x.w.seq)).length, false⟩ ∧
      (∀ r, r ≠ f.d.toNat → (t.cell s.cur).reg r = s.me.reg r) ∧
      (dstModule ((s.me.outEp i).dstOf n) = s.modNo → q ≠ (s.me.outEp i).seq →
        ∃ r, r ∈ (t.cell (dstCell ((s.me.outEp i).dstOf n))).rewinds ∧
          r.port = BitVec.ofNat 3 (dstPort ((s.me.outEp i).dstOf n)) ∧ r.expected = q.extractLsb' 0 16 ∧
          r.stop = (s.me.outEp i).seq.extractLsb' 0 16)) ∧
  (∀ (h : Hdr) (f : FmtX) (s : State) (i : Instr) (sel : Nat), f.a.toNat ∉ s.me.busy → f.d.toNat ∉ s.me.busy → f.d.toNat ≤ 55 →
    (s.me.reg f.a.toNat).p = false → (i = .ptestDom h f ∧ sel = 0 ∧ (s.me.reg f.a.toNat).v.toNat < 4096) ∨
      (i = .ptestCell h f ∧ sel = 1 ∧ (s.me.reg f.a.toNat).v.toNat < 2 ^ 18) → s.Ready i h →
    ∃ t w, exec i s = .next t ∧ (t.cell s.cur).ptests = s.me.ptests ++ [(f.d, s.me.tok i h, w)] ∧
      w.toNat = sel * 2 ^ 32 + (s.me.reg f.a.toNat).v.toNat ∧ (t.cell s.cur).g = s.me.g ∧
      (h.ee = true → (t.cell s.cur).slot h.es.toNat = .pending)) ∧
  (∀ (s : State) (k : Nat) (d : BitVec 6) (w : Tok) (q : Word) (rest : List (BitVec 6 × Tok × Word)),
    (s.cell k).ptests = (d, w, q) :: rest → d ≠ 0 → d.toNat ≤ 55 → ∃ t, exec (.ptestReply k) s = .next t ∧
      (t.cell k).ptests = rest ∧ (t.cell k).reg d.toNat = ⟨if q.getLsbD 32 then (s.cell (field q 0 18)).cstat
        else (s.row (yOf k)).quinceOf (field q 0 12), false⟩ ∧ ∀ j, w.slot = some j → (t.cell k).slot j.toNat = .idle) ∧
  (∀ (h : Hdr) (f : FmtX) (s : State),
    (s.Ready (.wdogSet h f) h → f.a.toNat ∉ s.me.busy → (s.me.reg f.a.toNat).p = false → 0 < (s.me.reg f.a.toNat).v.toNat →
      (s.me.reg f.a.toNat).v.toNat < 2 ^ 32 → exec (.wdogSet h f) s =
        .next (s.retire h { s.me with wdog := some ((s.me.reg f.a.toNat).v.toNat, s.atIssue.now) })) ∧
    (s.Ready (.wdogOff h f) h → exec (.wdogOff h f) s = .next (s.retire h { s.me with wdog := none }))) ∧
  (∀ (s : State) (k us t0 : Nat), (s.cell k).wdog = some (us, t0) → (s.cell k).started = true → (s.cell k).st ≠ .parked →
    t0 + us * microsecond ≤ s.now → ∃ t, exec (.rmWatchdogExpiry k) s = .next t ∧ (t.cell k).st = .parked ∧
      (t.cell k).pcause = .hang ∧ (t.cell k).wdog = none ∧ (t.cell k).g = (s.cell k).g)

/-- The stream of an issuer stops at a command: nothing is carried out, and a FAIL report with the code and the index of the command's
first word is sent (R46, R49). -/
def Sys2Proof.Machine.StopsWith (m : Master) (s : State) (i : Instr) (code : Nat) : Prop :=
  ∃ t, exec i s = .next t ∧ (t.issuer m).stopped = true ∧ t.cells = s.cells ∧ t.mem = s.mem ∧ t.blocks = s.blocks ∧
    t.eags = s.eags ∧ ∃ w, t.reports = s.reports ++ [(masterKey m, w)] ∧ field w 56 8 = 2 ∧ field w 48 8 = code ∧
      field w 0 32 = (s.issuer m).words % 2 ^ 32

/-- R43 to R46, R48 to R52, R204, R244: BASE sets the context; WRITE and WIDE write a field of page 0 of a cell that has not started or is parked;
ISTORE and LSTORE write its stores; START starts it; MARK reports and CLRERR ends the stopped state; a reserved command, an element
beyond its space and a started cell stop the stream with their codes, and a stopped stream carries nothing out. -/
def Obligations.ConfigurationCommands : Prop :=
  ∀ (m : Master) (s : State) (x : Issuer), x = s.issuer m →
    (∀ w, x.stopped = false → StopsWith m s (.cfgReservedCommand m w) 0x81) ∧
    (∀ (sp : BitVec 3) (el : BitVec 18), x.stopped = false →
      (sp.toNat < 4 → el.toNat < spaceSize sp.toNat → exec (.base m sp el) s =
        .next (s.setIssuer m { based := true, space := sp, base := el.toNat, stopped := false, words := x.words + 1 })) ∧
      (4 ≤ sp.toNat → StopsWith m s (.base m sp el) 0x82) ∧
      (sp.toNat < 4 → spaceSize sp.toNat ≤ el.toNat → StopsWith m s (.base m sp el) 0x83)) ∧
    (∀ (off : BitVec 10) (k : Nat), x.stopped = false → x.based = true → x.space = 0 → k = x.base + off.toNat → k < 262144 →
      (∀ (fl : BitVec 6) (i : Instr) (v : BitVec 32) (d : Ident), (s.cell k).page = 0 → fl ≠ 63 →
        ((∃ v12 : BitVec 12, i = .write m off fl v12 ∧ v = v12.zeroExtend 32) ∨ i = .wide m off fl v) →
        ((s.cell k).writable = true → cfgIdentity (s.cell k).ident fl.toNat v = .ok d → ∃ t, exec i s = .next t ∧
          (t.cell k).ident = d ∧ (t.cell k).g = (s.cell k).g ∧ (t.cell k).store = (s.cell k).store ∧
          (t.cell k).st = (if (s.cell k).st = .free then .configured else (s.cell k).st) ∧
          (fl = 0 → d.unit.toNat = v.toNat) ∧ (fl = 2 → d.node.toNat = v.toNat) ∧ (fl = 7 → d.ext0 = v) ∧
          (fl = 11 → d.dom.toNat = v.toNat)) ∧
        ((s.cell k).writable = false → StopsWith m s i 0x85)) ∧
      (∀ (ix : BitVec 11) (w : Word),
        ((s.cell k).writable = true → ∃ t, exec (.istore m off ix w) s = .next t ∧ (t.cell k).code ix.toNat = w ∧
          (∀ j, j ≠ ix.toNat → (t.cell k).code j = (s.cell k).code j) ∧ (t.cell k).store = (s.cell k).store) ∧
        ((s.cell k).writable = false → StopsWith m s (.istore m off ix w) 0x85)) ∧
      (∀ (n : BitVec 14) (w : Word), s.storeBusyAt k (8 * n.toNat) = false → (s.cell k).writable = true →
        ∃ t, exec (.lstore m off n w) s = .next t ∧ (t.cell k).ldWord (8 * n.toNat) = ⟨w, false⟩ ∧
          ∀ a, a < 8 * n.toNat ∨ 8 * n.toNat + 8 ≤ a → Memory.byte (t.cell k).store a = Memory.byte (s.cell k).store a) ∧
      ((s.cell k).st = .configured → (s.cell k).kept = [] → ∃ t, exec (.start m off) s = .next t ∧ (t.cell k).st = .idle ∧
        (∀ i < 8, (t.cell k).binding i = if (s.cell k |>.inEp i).en then 1 else if (s.cell k |>.outEp i).en then 2 else 0) ∧
        (∀ n < 16, (t.cell k).sem n = ⟨(SMap.get 0 (s.cell k).semInit n).zeroExtend 40, false⟩) ∧ (t.cell k).g = (s.cell k).g) ∧
      ((s.cell k).started = true → StopsWith m s (.start m off) 0x85)) ∧
    (∀ (off : BitVec 10) (k : Nat) (w : Word) (ix : BitVec 11), x.stopped = false → x.based = true → x.space = 0 →
      k = x.base + off.toNat → 262144 ≤ k → StopsWith m s (.istore m off ix w) 0x83) ∧
    (∀ (v : BitVec 12), x.based = true → x.space = 3 → x.base = 0 →
      (x.stopped = false → ∃ t, exec (.mark m 0 v) s = .next t ∧ t.cells = s.cells ∧
        ∃ w, t.reports = s.reports ++ [(masterKey m, w)] ∧ field w 56 8 = 1 ∧ field w 0 32 = v.toNat) ∧
      (x.stopped = true → exec (.clrerr m 0 0) s = .next (s.setIssuer m { x with stopped := false, words := 0 }))) ∧
    (x.stopped = true → ∀ (off : BitVec 10) (fl : BitVec 6) (v : BitVec 32) (ix : BitVec 11) (w : Word),
      ∀ i ∈ [Instr.wide m off fl v, .istore m off ix w, .start m off],
      exec i s = .next (s.setIssuer m { x with based := false }))

/-! ### The scheduler's events and the load's (R13, R14, R23, R24, R32, R50, R73, R164, R178) -/

/-- R24, R23, R178, R164, R73, R267: a sleeping task resumes at its instruction once what it waits for is there, and the end of a wait on a
semaphore is traced where that is enabled; the scheduler notes since when
an entry has been runnable; a task that sleeps too long is reported once; a fetch error parks the cell; an unassigned opcode raises
ILLOP with its word. -/
def Sys2Proof.Machine.Rule.SchedulerEvents : Prop :=
  (∀ (s : State) (k : Nat) (why : Stall) (on : WaitCond), (s.cell k).st = .asleep → (s.cell k).wait = some (why, on) →
    ((∃ m, on = .slots m ∧ (s.cell k).pendingMask &&& m = 0) ∨ (∃ n, on = .reg n ∧ n ∉ (s.cell k).busy) ∨
     (∃ p n, on = .head p n ∧ n < ((s.cell k).inEp p).occ) ∨ (∃ p n, on = .room p n ∧ n ≤ ((s.cell k).outEp p).room) ∨
     (∃ n v, on = .sem n v ∧ v ≤ ((s.cell k).sem n).value.toNat)) →
    ∃ t, exec (.taskWake k) s = .next t ∧ t.cell k = { s.cell k with st := .running, wait := none } ∧
      (∀ j, j ≠ k → t.cell j = s.cell j) ∧ t.mem = s.mem ∧ ((∀ n v, on ≠ .sem n v) → t.rows = s.rows) ∧
      (∀ n v, on = .sem n v → (SMap.get 0 (s.cell k).dbg.f 13).getLsbD 4 = true → (s.row (yOf k)).traceLost = 0 →
        (s.row (yOf k)).trace.length < 1024 → ∃ w0, (t.row (yOf k)).trace = (s.row (yOf k)).trace ++
          [(w0, BitVec.ofNat 64 (n * 2 ^ 40 + v % 2 ^ 40))] ∧ field w0 59 5 = 7)) ∧
  (∀ (s : State) (k : Nat), (s.cell k).started = true → ∃ t, exec (.priorityAging k) s = .next t ∧
    t.cell k = { s.cell k with runSince := (t.cell k).runSince } ∧ (∀ j, j ≠ k → t.cell j = s.cell j) ∧ t.mem = s.mem ∧
    ∀ e < 16, SMap.find (t.cell k).runSince e =
      if (s.cell k).runnable e then some ((SMap.find (s.cell k).runSince e).getD s.now) else none) ∧
  (∀ (s : State) (k : Nat) (c : Cell), c = s.cell k → c.st = .asleep → c.sys.wd ≠ 0 → c.wdSent = false →
    c.sleepAt + c.sys.wd.toNat * 1024 ≤ s.now → (s.row (yOf k)).fq.length < 1024 →
    ∃ t w, exec (.watchdogSleepLimit k) s = .next t ∧ t.cell k = { c with wdSent := true, sys := { c.sys with wde := true } } ∧
      (t.row (yOf k)).fq = (s.row (yOf k)).fq ++ [(w, BitVec.ofNat 64 c.pc)] ∧ field w 56 8 = 6 ∧
      field w 43 12 = c.ident.dom.toNat ∧ field w 25 18 = k % 2 ^ 18) ∧
  (∀ (s : State) (k : Nat), (s.cell k).st = .running → ∃ t, exec (.istoreFetchError k) s = .next t ∧
    ParksWith s t k (s.cell k) .istore 0 (BitVec.ofNat 64 (s.cell k).pc)) ∧
  (∀ (s : State) (w : Word), s.Ready (.unassignedOpcode w) (Hdr.ofWord w) →
    exec (.unassignedOpcode w) s = .next (s.atIssue.enter s.cur s.me 16
      { cause := 1, tpc := s.me.pc, taken := s.me.pc, opb := w.extractLsb' 56 8, tval := w }))

/-- R13, R50: the loader's START brings every CONFIGURED cell of the graph's load to idle, and no other load starts. R14, R32: a load whose
phase has ended and whose engines have drained is marked with the load-mark word of its serial (R15, R120), its cells become FREE, and the oldest load that waits becomes the graph's; the
local stores keep their contents (the model's reading, DEDUCED, log entry 29). -/
def Sys2Proof.Machine.Rule.LoadsStartAndRetire : Prop :=
  ∀ (s : State) (n : Nat) (g : Graph), s.carrier.svc.graphs = [(n, g)] → g.marked = false →
    (∃ t, exec (.loadStart g.serial.toNat) s = .next t ∧
      (∀ k ∈ g.cells, (s.cell k).st = .configured → (t.cell k).st = .idle ∧ (t.cell k).g = (s.cell k).g ∧
        (t.cell k).store = (s.cell k).store ∧ (t.cell k).istore = (s.cell k).istore) ∧
      (∀ k, k ∉ g.cells ∨ (s.cell k).st ≠ .configured → t.cell k = s.cell k) ∧ t.mem = s.mem) ∧
    (∀ m, m ≠ g.serial.toNat → exec (.loadStart m) s = .next s) ∧
    (g.ended = true → g.cut = none → s.loadDrained g = true →
      ∃ t, exec (.loadMark g.serial.toNat) s = .next t ∧
        (∃ w, t.carrier.svc.marks = s.carrier.svc.marks ++ [w] ∧ field w 56 8 = 4 ∧ field w 32 24 = 0 ∧
          field w 0 32 = g.serial.toNat) ∧
        (∀ k ∈ g.cells, (∃ ls ts, t.cell k = { Cell.init k with
            store := (s.cell k).store, storePoison := (s.cell k).storePoison, upsets := (s.cell k).upsets, lanes := ls, laneTag := ts }) ∧
          ((s.cell k).laneTag = [] → (t.cell k).lanes = [])) ∧
        (∀ k, k ∉ g.cells → (∃ ls ts, t.cell k = { s.cell k with lanes := ls, laneTag := ts }) ∧
          ((s.cell k).laneTag = [] → t.cell k = s.cell k)) ∧
        (∀ k, ∀ y ∈ (t.cell k).laneTag, y.2 ≠ (g.dom, BitVec.ofNat 32 n ++ g.serial)) ∧ t.mem = s.mem ∧
        (s.carrier.svc.waiting.find? (fun x => x.1 = n) = none →
          t.graph n = some { g with marked := true, units := [], eags := [], groups := [] }) ∧
        (∀ w, s.carrier.svc.waiting.find? (fun x => x.1 = n) = some w → t.graph n = some { w.2 with vas := g.vas } ∧
          t.carrier.svc.waiting = s.carrier.svc.waiting.erase w))

/-- R24, R23, R178, R164, R73, R267: a sleeping task resumes at its instruction once what it waits for is there, and the end of a wait on
a semaphore is traced where that is enabled; the scheduler notes since when an entry has been runnable; a task that sleeps too long is
reported once; a fetch error parks the cell; an unassigned opcode raises ILLOP with its word. R13, R50: the loader's START brings every
CONFIGURED cell of the graph's load to idle, and no other load starts. R14, R32: a load whose phase has ended and whose engines have
drained is marked with the load-mark word of its serial (R15, R120), its cells become FREE, and the oldest load that waits becomes the
graph's; the local stores keep their contents (the model's reading, DEDUCED, log entry 29). -/
def Obligations.SchedulerAndLoadEvents : Prop := Rule.SchedulerEvents ∧ Rule.LoadsStartAndRetire

/-! ### Links (R394 to R403) -/

/-- R394, R396: a port comes up on at least 6 good lanes to the peer it expects, and is down otherwise; lost lanes stay out; a replay
request sends a flit and every later one again, and the sixteenth replay takes the port down. -/
def Sys2Proof.Machine.Rule.PortsTrainAndReplay : Prop :=
  ∀ (s : State) (p : Nat) (x : LinkPort), x = s.linkPort p →
    (∀ (peer : Nat) (lanes good : BitVec 8), x.ctl.getLsbD 8 = true → good = lanes &&& x.ctl.extractLsb' 0 8 &&& ~~~x.failed →
      (6 ≤ popCount good 8 → peer = field x.peer 0 10 → ∃ t, exec (.linkTrain p peer lanes) s = .next t ∧
        (t.linkPort p).up = true ∧ (t.linkPort p).good = good ∧ (t.linkPort p).peerMod = BitVec.ofNat 10 peer ∧ t.cells = s.cells) ∧
      (popCount good 8 < 6 ∨ peer ≠ field x.peer 0 10 → (s.row 256).fq.length < 1024 →
        ∃ t w v, exec (.linkTrain p peer lanes) s = .next t ∧ (t.linkPort p).up = false ∧
          (t.row 256).fq = (s.row 256).fq ++ [(w, v)] ∧ field w 56 8 = 5)) ∧
    (∀ (peer : Nat) (lanes : BitVec 8), x.ctl.getLsbD 8 = false → exec (.linkTrain p peer lanes) s = .next s) ∧
    (∀ lost : BitVec 8, lost ≠ 0 → (s.row 256).fq.length < 1024 → ∃ t w v, exec (.lossOfLink p lost) s = .next t ∧
      (t.linkPort p).good = x.good &&& ~~~lost ∧ (t.linkPort p).failed = x.failed ||| lost ∧
      (t.linkPort p).up = (x.up && decide (6 ≤ popCount (x.good &&& ~~~lost) 8)) ∧
      (t.row 256).fq = (s.row 256).fq ++ [(w, v)] ∧ field w 56 8 = 5) ∧
    (∀ (old new : List SentFlit) (f : SentFlit) (q : BitVec 12), x.up = true → x.peerFrozen = false → x.sent = old ++ f :: new →
      (f.words.headD 0).extractLsb' 52 12 = q → (x.tx - q).toNat = new.length + 1 →
      ∃ t, exec (.linkReplayRequest p q) s = .next t ∧
        (t.linkPort p).sent = old ++ (f :: new).map (fun y => { y with tries := y.tries + 1 }) ∧
        ((∀ y ∈ f :: new, y.tries < 15) → (t.linkPort p).up = true) ∧ ((∃ y ∈ f :: new, y.tries = 15) → (t.linkPort p).up = false))

/-- R395 to R397, R399, R401: a flit out of order or with a failed check is asked for again; a packet of one flit for this module joins its
stream; a head for another module goes on by the table its TBL names with HOPS one higher, or is discarded with a record; a marker is
noted. A port that is down takes no packet. -/
def Sys2Proof.Machine.Rule.FlitsAreReceived : Prop :=
  ∀ (s : State) (p : Nat) (x : LinkPort) (ws : List Word) (w0 w1 w2 : Word) (rest : List Word) (ok : Bool) (vc : BitVec 2),
    x = s.linkPort p → x.up = true → ws = w0 :: w1 :: w2 :: rest → vc = w0.extractLsb' 38 2 →
    ((∀ good, good = false ∨ w0.extractLsb' 52 12 ≠ x.rx → ∃ t, exec (.flitReceive p ⟨good, true, ok, ws⟩) s = .next t ∧
      (t.linkPort p).ask = some x.rx ∧ (t.linkPort p).rx = x.rx ∧ t.cells = s.cells ∧ t.mem = s.mem ∧
      t.carrier.ins = s.carrier.ins)) ∧
    (w0.extractLsb' 52 12 = x.rx →
      (field w0 35 3 = 4 → w0.getLsbD 34 = false → field w1 54 10 = s.modNo.toNat → (s.inStream (field w1 44 10) vc).held = [] →
        (w1.extractLsb' 0 32 - (s.inStream (field w1 44 10) vc).next).toNat < 2 ^ 31 →
        ∃ t, exec (.flitReceive p ⟨true, true, true, ws⟩) s = .next t ∧ (t.linkPort p).rx = x.rx + 1 ∧
          (t.inStream (field w1 44 10) vc).held = [⟨field w1 44 10, field w1 40 3, w1.extractLsb' 0 32⟩] ∧ t.cells = s.cells) ∧
      (field w0 35 3 = 1 → field w1 54 10 ≠ s.modNo.toNat → field w2 59 5 < 30 →
        (∀ q, s.route (p / 8) (w1.getLsbD 43) (field w1 54 10) = some q → q ≠ p → (s.linkPort q).up = true →
          ∃ t f, exec (.flitReceive p ⟨true, true, ok, ws⟩) s = .next t ∧ (t.linkPort q).sent.getLast? = some f ∧
            f.words.getD 1 0 = w1 ∧ field (f.words.getD 2 0) 59 5 = field w2 59 5 + 1 ∧
            field (f.words.getD 2 0) 0 59 = field w2 0 59 ∧ (t.linkPort q).tx = (s.linkPort q).tx + 1 ∧ t.cells = s.cells) ∧
        ((s.route (p / 8) (w1.getLsbD 43) (field w1 54 10) = none ∨ ∃ q, s.route (p / 8) (w1.getLsbD 43) (field w1 54 10) = some q ∧
            q ≠ p ∧ (s.linkPort q).up = false) → (s.row 256).fq.length < 1024 →
          ∃ t w v, exec (.flitReceive p ⟨true, true, ok, ws⟩) s = .next t ∧ (t.row 256).fq = (s.row 256).fq ++ [(w, v)] ∧
            field w 56 8 = 10 ∧ t.cells = s.cells)) ∧
      (field w0 35 3 = 5 → (p, vc.toNat) ∉ (s.plane (p / 8)).marks → ∃ t, exec (.flitReceive p ⟨true, true, ok, ws⟩) s = .next t ∧
        (t.plane (p / 8)).marks = (s.plane (p / 8)).marks ++ [(p, vc.toNat)] ∧ t.cells = s.cells))

/-- R394, R396: a port comes up on at least 6 good lanes to the peer it expects, and is down otherwise; lost lanes stay out; a replay
request sends a flit and every later one again, and the sixteenth replay takes the port down. R395 to R397, R399, R401: a flit out of
order or with a failed check is asked for again; a packet of one flit for this module joins its stream; a head for another module goes on
by the table its TBL names with HOPS one higher, or is discarded with a record; a marker is noted. A port that is down takes no packet. -/
def Obligations.PortsAndFlits : Prop := Rule.PortsTrainAndReplay ∧ Rule.FlitsAreReceived

/-- R399: the next packet of a stream takes effect in ESEQ order (a write its bytes, a reply its access, which a NACK sends again); a later one waits; and an
acknowledged packet leaves its window. -/
def Sys2Proof.Machine.Rule.PacketsAreDelivered : Prop :=
  ∀ (s : State) (m : Nat) (vc : BitVec 2),
    (∀ (h : PacketHead) (op : PacketOp), (s.inStream m vc).held = [h] → h.eseq ≠ (s.inStream m vc).next →
      exec (.packetDelivery m vc op) s = .next s) ∧
    (∀ (h : PacketHead) (a size : Nat) (who : Asker) (v : Word), (s.inStream m vc).held = [h] → h.eseq = (s.inStream m vc).next → h.kind = 1 →
      populated a = true → s.vaultBusy a = false → s.hostHeld a = false →
      ∃ t, exec (.packetDelivery m vc (.write a size v who)) s = .next t ∧ t.mem.read a size = v.toNat % 2 ^ (8 * size) ∧
        (∀ j, j < a ∨ a + size ≤ j → Memory.byte t.mem j = Memory.byte s.mem j) ∧ t.cells = s.cells ∧
        (t.inStream m vc).next = (s.inStream m vc).next + 1 ∧ (t.inStream m vc).held = []) ∧
    (∀ (h : PacketHead) (k j n : Nat) (x : Access) (d : Word), (s.inStream m vc).held = [h] → h.eseq = (s.inStream m vc).next →
      h.kind = 3 → (s.cell k).accs[j]? = some x → x.status = .away n → (∀ y ∈ (s.cell k).accs, y.tok.seq = x.tok.seq → y = x) →
      (∃ t, exec (.packetDelivery m vc (.reply (.cell k x.tok.seq) 0 d false 0)) s = .next t ∧
        (t.cell k).accs[j]? = some { x with status := .done ⟨d, false⟩ 0 } ∧ (t.inStream m vc).next = (s.inStream m vc).next + 1) ∧
      (∃ t, exec (.packetDelivery m vc (.nack (.cell k x.tok.seq))) s = .next t ∧
        (t.cell k).accs[j]? = some { x with status := .nacked (n + 1) } ∧ (t.inStream m vc).next = (s.inStream m vc).next + 1)) ∧
    (∀ (p : OutPacket) (rest : List OutPacket), (s.outStream m vc).unacked = p :: rest → (s.outStream m vc).waiting = [] →
      (∀ y ∈ rest, y.eseq ≠ p.eseq) → ∃ t, exec (.packetAck m vc) s = .next t ∧ (t.outStream m vc).unacked = rest ∧
        t.cells = s.cells ∧ t.mem = s.mem)

/-- R402, R403: a write of ACT switches the plane to the other table and sends four markers on each port that is up; a TDATA write stores
the entry that TIDX names in the copy that is free and moves TIDX on, and is refused for the copy in use. -/
def Sys2Proof.Machine.Rule.RoutingTables : Prop :=
  (∀ (s : State) (q : Nat) (act : Bool), ((s.plane q).act = act → exec (.routeSwitch q act) s = .next s) ∧
    ((s.plane q).act ≠ act → ∃ t, exec (.routeSwitch q act) s = .next t ∧ (t.plane q).act = act ∧ (t.plane q).marks = [] ∧
      (t.plane q).table = (s.plane q).table ∧ (∀ j, j ≠ q → t.plane j = s.plane j) ∧ t.cells = s.cells ∧
      ∀ j < 8, (t.linkPort (8 * q + j)).tx = (s.linkPort (8 * q + j)).tx + if (s.linkPort (8 * q + j)).up then 4 else 0)) ∧
  (∀ (s : State) (q i : Nat) (copy : Bool) (v : BitVec 4), copy = (s.linkPort (8 * q)).tidx.getLsbD 11 →
    i = field (s.linkPort (8 * q)).tidx 0 10 →
    ((s.plane q).act = copy → exec (.routeTableWrite q (v.zeroExtend 12)) s = .next s) ∧
    ((s.plane q).act ≠ copy → (s.plane q).switched = false → s.carrier.outs = [] →
      ∃ t, exec (.routeTableWrite q (v.zeroExtend 12)) s = .next t ∧ (t.plane q).entry copy i = v ∧
        (∀ j, j ≠ i → j < 1024 → (t.plane q).entry copy j = (s.plane q).entry copy j) ∧
        (∀ j < 1024, (t.plane q).entry (!copy) j = (s.plane q).entry (!copy) j) ∧
        field (t.linkPort (8 * q)).tidx 0 10 = (i + 1) % 1024 ∧ t.cells = s.cells))

/-- R399: the next packet of a stream takes effect in ESEQ order (a write its bytes, a reply its access, which a NACK sends again); a
later one waits; and an acknowledged packet leaves its window. R402, R403: a write of ACT switches the plane to the other table and sends
four markers on each port that is up; a TDATA write stores the entry that TIDX names in the copy that is free and moves TIDX on, and is
refused for the copy in use. -/
def Obligations.PacketsAndRoutes : Prop := Rule.PacketsAreDelivered ∧ Rule.RoutingTables

/-! ### Parks, row managers and containment (R425 to R446, R449, R450, R453, R455, R456) -/

/-- R429, R430, R170, R460: CCTL.PARK parks an idle cell at once and marks a running one, which parks between two instructions; a cell
that waits to park does so once it is settled; RESUME brings a parked cell back in the state it held, its firing a replay as RPL says;
ABORT leaves it idle with its slots IDLE and its popped words retired, once the engine entries of its task are complete. -/
def Obligations.CellsParkAndResume : Prop :=
  ∀ (s : State) (k : Nat) (c : Cell), c = s.cell k →
    (c.st = .idle → ∃ t, exec (.cctlPark k) s = .next t ∧ ParksWith s t k c .rmPark 0 0) ∧
    (c.st = .running ∨ c.st = .asleep → exec (.cctlPark k) s = .next (s.setCell k { c with rmParkReq := true })) ∧
    (c.st = .parked ∨ c.st = .configured ∨ c.st = .free → exec (.cctlPark k) s = .next s) ∧
    (c.rmParkReq = true → c.abortReq = false → c.st = .running ∨ c.st = .asleep → ∃ t, exec (.rmParkEffect k) s = .next t ∧
      ParksWith s t k c .rmPark 0 0) ∧
    (∀ why, why = .cut ∨ why = .self → c.parkWait = some why → c.st ≠ .parked →
      (s.settled k = false → exec (.cutParkComplete k) s = .next s) ∧
      (s.settled k = true → ∃ t, exec (.cutParkComplete k) s = .next t ∧ (t.cell k).st = .parked ∧ (t.cell k).pcause = why ∧
        (t.cell k).pc = (if c.st = .idle then c.pc else c.pc + 1) ∧ (t.cell k).g = c.g ∧ (t.cell k).sems = c.sems ∧
        (t.cell k).store = c.store ∧ (why = .cut → (t.cell k).qreq = false ∧ (t.cell k).accs = [] ∧
          (t.cell k).pendingReads.length = c.accs.length ∧ ∀ i < 8, ((t.cell k).inEp i).popped = [] ∧ ((t.cell k).inEp i).qc = 0))) ∧
    (∀ rpl, c.st = .parked → c.pendingReads = [] → c.savedCopies = [] → ∃ t, exec (.cctlResume k rpl) s = .next t ∧
      (t.cell k).st = c.heldSt ∧ (t.cell k).wait = (if c.heldSt = .asleep then c.wait else none) ∧ (t.cell k).g = c.g ∧
      (t.cell k).pc = c.pc ∧ (t.cell k).sys = c.sys ∧ (t.cell k).store = c.store ∧ (t.cell k).rpl = rpl ∧ (t.cell k).rplReg = rpl ∧
      (∀ i < 8, ((t.cell k).inEp i).hb = (List.range (min 4 (c.inEp i).occ)).map (fun j => c.ringSlot i ((c.inEp i).nth j))) ∧
      (∀ j, j ≠ k → t.cell j = s.cell j) ∧ t.mem = s.mem) ∧
    (∀ rpl, c.st ≠ .parked → exec (.cctlResume k rpl) s = .next s) ∧
    (∀ i, i = Instr.cctlAbort k ∨ (c.abortReq = true ∧ i = .rmParkEffect k) → c.st = .parked → s.enginesDone k = true →
      ∃ t, exec i s = .next t ∧ (t.cell k).st = .idle ∧ (t.cell k).abortReq = false ∧ (t.cell k).rpl = false ∧ (t.cell k).sys.entry = 31 ∧ (t.cell k).sys.intrap = false ∧ (∀ j, (t.cell k).slot j = .idle) ∧ (t.cell k).faults = [] ∧
      (∀ i < 8, ((t.cell k).inEp i).popped = []) ∧ (t.cell k).g = c.g ∧ (t.cell k).store = c.store ∧ (t.cell k).busy = []) ∧
    (c.st = .parked → s.enginesDone k = false → exec (.cctlAbort k) s = .next (s.setCell k { c with abortReq := true })) ∧
    (c.st ≠ .parked → exec (.cctlAbort k) s = .next s)

/-- R424 to R428, R430, R434: a row manager writes physical memory, its SRAM, its timer, a register of a parked cell and the Quince map; a write that a cell's
page does not take, or to a window that is not active, is discarded with a record of kind 9; a strip or quad page takes the item that a
word of it stands for (which word stands for which item, and how, the spec does not give: opaque constants, log entry 32); a misaligned
write, one to the block pages of a row that has none and one outside every window trap in the row manager's core (which causes they
have there is PRESUMED from RISC-V, log entry 63). -/
def Sys2Proof.Machine.Rule.RowManagersWriteTheirWindows : Prop :=
  ∀ (s : State) (y : Nat) (v : Word), y < 512 →
    (∀ pa, pa % 8 = 0 → populated pa = true → s.vaultBusy pa = false → s.hostHeld pa = false →
      ∃ t, exec (.rmWindowWrite y (2 ^ 50 + pa) v) s = .next t ∧ t.mem.read pa 8 = v.toNat ∧ t.memPoison.has (pa / 8) = false ∧
        (∀ j, j < pa ∨ pa + 8 ≤ j → Memory.byte t.mem j = Memory.byte s.mem j) ∧ t.cells = s.cells) ∧
    (∀ (x n k : Nat), x < 512 → k = 512 * y + x → 1 ≤ n → n ≤ 55 →
      (s.serves y y = true → (s.cell k).st = .parked ∨ (s.cell k).st = .configured →
        exec (.rmWindowWrite y (0x40000000 + 0x40000 * x + 0x30100 + 8 * n) v) s =
          .next { s.setCell k ((s.cell k).setReg n ⟨v, ((s.cell k).reg n).p⟩) with fresh := s.fresh + 1 }) ∧
      (s.serves y y = false ∨ ((s.cell k).st ≠ .parked ∧ (s.cell k).st ≠ .configured) → (s.row y).fq.length < 1024 →
        ∃ t w, exec (.rmWindowWrite y (0x40000000 + 0x40000 * x + 0x30100 + 8 * n) v) s = .next t ∧ t.cells = s.cells ∧
          (t.row y).fq = (s.row y).fq ++ [(w, BitVec.ofNat 64 (0x40000000 + 0x40000 * x + 0x30100 + 8 * n))] ∧ field w 56 8 = 9)) ∧
    (s.serves y y = true → ∀ d, d < 4096 → ∃ t, exec (.rmWindowWrite y (0x4C000000 + 8 * d) v) s = .next t ∧
      (field v 0 3 < 5 → (t.row y).domState d = field v 0 3) ∧ (t.row y).domState d < 5 ∧
      field ((t.row y).quinceOf d) 16 44 = field v 16 44 ∧
      (∀ e, e ≠ d → (t.row y).quinceOf e = (s.row y).quinceOf e) ∧ (∀ z, z ≠ y → t.row z = s.row z) ∧ t.cells = s.cells) ∧
    (s.serves y y = true → ∀ o, o % 8 = 0 →
      (0x8000000 ≤ o → o < 0x9000000 → exec (.rmWindowWrite y (0x40000000 + o) v) s = .next
        (s.setStripItem (64 * y + (o - 0x8000000) / 0x40000) (Config.pageTake 1 (o % 0x40000) v) (Config.stripItem (o % 0x40000)))) ∧
      (0x9000000 ≤ o → o < 0xB000000 → exec (.rmWindowWrite y (0x40000000 + o) v) s = .next
        (s.setQuadItem (128 * y + (o - 0x9000000) / 0x40000) (Config.pageTake 2 (o % 0x40000) v) (Config.quadItem (o % 0x40000)))) ∧
      (0xB000000 ≤ o → o < 0xB400000 → y % 8 = 0 → exec (.rmWindowWrite y (0x40000000 + o) v) s = .next s)) ∧
    (∀ addr, 0x1000000 ≤ addr → addr < 0x1200000 → addr % 8 = 0 → ∃ t, exec (.rmWindowWrite y addr v) s = .next t ∧
      (t.row y).hart.sram.read (addr - 0x1000000) 8 = v.toNat ∧ t.cells = s.cells ∧ t.mem = s.mem ∧
      ∀ j, j < addr - 0x1000000 ∨ addr - 0x1000000 + 8 ≤ j →
        Memory.byte (t.row y).hart.sram j = Memory.byte (s.row y).hart.sram j) ∧
    (∃ t, exec (.rmWindowWrite y 0x2004000 v) s = .next t ∧ (t.row y).hart.mtimecmp = v ∧ t.cells = s.cells ∧ t.mem = s.mem) ∧
    (∃ t, exec (.rmWindowWrite y 0x200BFF8 v) s = .next t ∧ t.mtime (t.row y).hart = v ∧ t.cells = s.cells ∧ t.mem = s.mem) ∧
    (∀ addr cause, (cause = 6 ∧ addr % 8 ≠ 0) ∨ (cause = 7 ∧ addr % 8 = 0 ∧ (addr < 0x1000000 ∨
          (0x1200000 ≤ addr ∧ addr < 0x2000000) ∨ (0x2010000 ≤ addr ∧ addr < 0x40000000) ∨
          (0x4B000000 ≤ addr ∧ addr < 0x4B400000 ∧ y % 8 ≠ 0 ∧ s.serves y y = true))) →
      ∃ t, exec (.rmWindowWrite y addr v) s = .next t ∧ (t.row y).hart.mcause = BitVec.ofNat 64 cause ∧
        (t.row y).hart.mtval = BitVec.ofNat 64 addr ∧ (t.row y).hart.mepc = (s.row y).hart.pc ∧ (t.row y).hart.machine = true ∧
        (t.row y).hart.pc = (s.row y).hart.mtvec &&& ~~~3#64 ∧ (t.row y).hart.x = (s.row y).hart.x ∧ t.cells = s.cells ∧
        t.mem = s.mem)

/-- R431, R432, R274, R456, R10, R424: a read of the fault queue pops its oldest record and one of MTSTAT clears it; a heartbeat counts; a
neighbour that works takes a row over after three missed, and its core is reset; a fault queue that is not empty raises the external
interrupt of the row manager that serves the row; ORA reattaches a consumer, and its SEQSYNC word goes ahead. -/
def Sys2Proof.Machine.Rule.RowManagersWatchTheirRows : Prop :=
  (∀ (s : State) (y : Nat) (r : Word × Word) (rest : List (Word × Word)), (s.row y).fq = r :: rest →
    exec (.faultQueuePop y) s = .next (s.setRow y { s.row y with fq := rest, popped := r.2 })) ∧
  (∀ (s : State) (y : Nat), (s.row y).fq = [] → exec (.faultQueuePop y) s = .next (s.setRow y { s.row y with popped := 0 })) ∧
  (∀ (s : State) (y : Nat), ((s.mip y).getLsbD 11 = true ↔
    ∃ r, (r = y - 1 ∨ r = y ∨ r = y + 1) ∧ s.serves y r = true ∧ (s.row r).fq ≠ [])) ∧
  (∀ (s : State) (b : Nat), exec (.mtstatReadClear b) s = .next (s.setBlock b { s.block b with mtstat := 0 })) ∧
  (∀ (s : State) (y : Nat), (s.row y).takenBy = none → (s.row y).beatAt + 160000 ≤ s.now →
    exec (.heartbeatTick y) s = .next (s.setRow y { s.row y with hbeat := (s.row y).hbeat + 1, beatAt := s.now })) ∧
  (∀ (s : State) (y z : Nat), z + 1 = y ∨ z = y + 1 → (s.row y).takenBy = none →
    ((s.row y).beatAt + 480000 ≤ s.now → y < 512 → z < 512 → (s.row z).takenBy = none → s.now < (s.row z).beatAt + 480000 →
      exec (.rowManagerTakeover y z) s = .next (s.setRow y { s.row y with takenBy := some z, hart := {} })) ∧
    (s.now < (s.row y).beatAt + 480000 ∨ 512 ≤ y ∨ 512 ≤ z ∨ (s.row z).takenBy ≠ none ∨ (s.row z).beatAt + 480000 ≤ s.now →
      exec (.rowManagerTakeover y z) s = .next s)) ∧
  (∀ (s : State) (k i n : Nat) (d : BitVec 32), n < 8 → i < 8 → d = ((s.cell k).outEp i).dstOf n →
    ((s.cell k).outEp i).det.getLsbD n = true → dstModule d = s.modNo →
    (s.row (yOf (dstCell d))).domState ((s.cell k).outEp i).odom.toNat = 1 →
    ∃ t w, exec (.oraReattach k i (oneBit 8 n)) s = .next t ∧
      (∀ j < 8, ((t.cell k).outEp i).det.getLsbD j = (((s.cell k).outEp i).det.getLsbD j && decide (j ≠ n))) ∧
      t.net = s.net ++ [⟨dstCell d, BitVec.ofNat 3 (dstPort d), w, some (k, i)⟩] ∧ w.tag = 7 ∧ field w.v 56 8 = 6 ∧
      field w.v 0 32 = ((s.cell k).outEp i).seq.toNat ∧ field w.v 32 18 = (s.cell k).ident.unit.toNat ∧ (t.cell k).g = (s.cell k).g)

/-- R424 to R428, R430, R434: a row manager writes physical memory, its SRAM, its timer, a register of a parked cell and the Quince map; a
write that a cell's page does not take, or to a window that is not active, is discarded with a record of kind 9; a strip or quad page
takes the item that a word of it stands for (which word stands for which item, and how, the spec does not give: opaque constants, log
entry 32); a misaligned write, one to the block pages of a row that has none and one outside every window trap in the row manager's core
(which causes they have there is PRESUMED from RISC-V, log entry 63). R431, R432, R274, R456, R10, R424: a read of the fault queue pops
its oldest record and one of MTSTAT clears it; a heartbeat counts; a neighbour that works takes a row over after three missed, and its
core is reset; a fault queue that is not empty raises the external interrupt of the row manager that serves the row; ORA reattaches a
consumer, and its SEQSYNC word goes ahead. -/
def Obligations.RowManagersAct : Prop := Rule.RowManagersWriteTheirWindows ∧ Rule.RowManagersWatchTheirRows

/-- R438, R437, R444: termination tears the domain down in every row and frees its cells, and leaves the registers of cells of other
domains; a sink that cannot be replayed terminates; else the checkpoint is restored and the firing runs again as a replay. -/
def Sys2Proof.Machine.Rule.ContainmentOfADomain : Prop :=
  (∀ (s : State) (d : BitVec 12), ∃ t, exec (.taggedStructureError d) s = .next t ∧ t.mem = s.mem ∧
    (∀ y < 512, (t.row y).domState d.toNat = 4) ∧
    (∀ k, (s.cell k).ident.dom = d → (s.cell k).st ≠ .free → (t.cell k).st = .free ∧ (t.cell k).g = [] ∧ (t.cell k).accs = []) ∧
    (∀ k, (∀ x ∈ s.cells, x.1 = k → x.2.ident.dom ≠ d) → (t.cell k).st = (s.cell k).st ∧ (t.cell k).g = (s.cell k).g ∧
      (t.cell k).pc = (s.cell k).pc ∧ (t.cell k).sys = (s.cell k).sys ∧ (t.cell k).istore = (s.cell k).istore)) ∧
  (∀ (s : State) (k : Nat) (c : Cell), c = s.cell k → c.st = .parked → c.pcause = .sink → c.sinkPending = true →
    (c.nonReplay = true ∨ 2 ≤ c.replays → ∃ t, exec (.sinkReplay k) s = .next t ∧
      (∀ y < 512, (t.row y).domState c.ident.dom.toNat = 4)) ∧
    (c.nonReplay = false → c.replays < 2 → s.enginesDone k = false → exec (.sinkReplay k) s = .next s) ∧
    (∀ (i a p n : Nat) (q : BitVec 32), c.nonReplay = false → c.replays < 2 → s.enginesDone k = true → c.rewinds = [] →
      c.ckpt.pops = [(i, ⟨.cell a p n, q⟩)] ∨ c.ckpt.pops = [] → a ≠ k → i < 8 → ((s.cell a).outEp p).seq ≠ q →
      ∃ t, exec (.sinkReplay k) s = .next t ∧ (t.cell k).st = .running ∧ (t.cell k).pc = c.ckpt.pc ∧ (t.cell k).g = c.ckpt.g ∧
        (t.cell k).sems = c.ckpt.sems ∧ (t.cell k).sys = { c.sys with
          loop := c.ckpt.loop, lfsr := c.ckpt.lfsr, flags := c.ckpt.flags, rm := c.ckpt.rm, entry := c.ckpt.entry
          intrap := c.ckpt.intrap } ∧
        (t.cell k).vec.vl = c.ckpt.vl ∧ (t.cell k).rpl = true ∧ (t.cell k).rplReg = true ∧ (t.cell k).replays = c.replays + 1 ∧
        (∀ j, (t.cell k).slot j = .idle) ∧
        (∀ j < 8, ((t.cell k).outEp j).seq = SMap.get 0 c.ckpt.seqs j ∧ ((t.cell k).outEp j).hseq = (c.outEp j).seq) ∧
        (c.ckpt.pops ≠ [] → ∃ r ∈ (t.cell k).rewinds, r.port = BitVec.ofNat 3 i ∧ r.expected = q.extractLsb' 0 16 ∧
          r.punit = (s.cell a).ident.unit)))

/-- R439, R455: a tile that is reset NACKs what stands in it, a router and a copy engine lose nothing; a retired cell is marked; a row is
remapped where its cells are free or parked and fewer than 8 are; a stack has one spare channel,
for a channel whose pages have moved; a port gives one lane up for its spare. -/
def Sys2Proof.Machine.Rule.SharedUnitsAreResetAndRepaired : Prop :=
  (∀ (s : State) (b : Nat), ∃ t, exec (.sharedControlError (.tile b)) s = .next t ∧ t.mem = s.mem ∧
    ∀ k, (t.cell k).g = (s.cell k).g ∧ (t.cell k).st = (s.cell k).st) ∧
  (∀ (s : State) (b k j : Nat) (x : Access), (s.cell k).accs = [x] → j = 0 → x.status = .sent → s.own x.pa = true →
    homeTile (x.pa % 2 ^ 50) = b → ∃ t, exec (.sharedControlError (.tile b)) s = .next t ∧
      (t.cell k).accs[j]? = some { x with status := .nacked 0 }) ∧
  (∀ (s : State) (n : Nat), exec (.sharedControlError (.router n)) s = .next s ∧
    exec (.sharedControlError (.copyEngine n)) s = .next s) ∧
  (∀ (s : State) (r : RxPacket) (v : Nat), (s.linkPort 0).rxs = [(v, r)] → ∃ t, exec (.sharedControlError .crossbar) s = .next t ∧
    (t.linkPort 0).rxs = [] ∧ (t.linkPort 0).ask = some r.fseq ∧ t.cells = s.cells) ∧
  (∀ (s : State) (k l p : Nat), (∃ t, exec (.inServiceRepair (.retireCell k)) s = .next t ∧ t.carrier.svc.retired.has k = true ∧
      (∀ j, j ≠ k → t.carrier.svc.retired.has j = s.carrier.svc.retired.has j) ∧ t.cells = s.cells) ∧
    (s.lineIdle true l = true → s.carrier.svc.rowMap.length < 8 → ∃ t, exec (.inServiceRepair (.remapRow l p)) s = .next t ∧
      SMap.find t.carrier.svc.rowMap l = some p ∧ t.cells = s.cells) ∧
    (s.lineIdle true l = false → exec (.inServiceRepair (.remapRow l p)) s = .next s) ∧
    ((∀ x ∈ s.carrier.svc.spared, x.1 ≠ l) → (∀ y ∈ s.pages, s.onChannel y l p = false) →
      ∃ t, exec (.inServiceRepair (.spareChannel l p)) s = .next t ∧ t.carrier.svc.spared = s.carrier.svc.spared ++ [(l, p)]) ∧
    (∀ y ∈ s.pages, s.onChannel y l p = true → exec (.inServiceRepair (.spareChannel l p)) s = .next s)) ∧
  (∀ (s : State) (p lane : Nat) (x : LinkPort) (good : BitVec 8), x = s.linkPort p → good = x.good &&& ~~~oneBit 8 lane →
    x.ctl.getLsbD 8 = true → 6 ≤ popCount good 8 → exec (.inServiceRepair (.spareLane p lane)) s = .next (s.setLinkPort p
      { x with good, failed := oneBit 8 lane, up := decide (x.peerMod.toNat = field x.peer 0 10) }))

/-- R438, R437, R444: termination tears the domain down in every row and frees its cells, and leaves the registers of cells of other
domains; a sink that cannot be replayed terminates; else the checkpoint is restored and the firing runs again as a replay. R439, R455: a
tile that is reset NACKs what stands in it, a router and a copy engine lose nothing; a retired cell is marked; a row is remapped where its
cells are free or parked and fewer than 8 are; a stack has one spare channel, for a channel whose pages have moved; a port gives one lane
up for its spare. -/
def Obligations.ContainmentAndRepair : Prop := Rule.ContainmentOfADomain ∧ Rule.SharedUnitsAreResetAndRepaired

/-! ### The resident services (R134, R139, R140, R464 to R486) -/

/-- The service of x has answered with a status and a value (R466): a call of a cell holds its reply; a mailbox call is gone, and its two
words wait for outbound queue 15. -/
def Sys2Proof.Machine.Answered (s t : State) (x : Request) (status : Nat) (v : Word) : Prop :=
  match x.id with
  | .cell k n => ∀ (j : Nat) (q : Call), (s.cell k).calls[j]? = some q → q.tok.seq = n →
      (t.cell k).calls[j]? = some { q with reply := some (BitVec.ofNat 64 status, v) }
  | .mailbox p n => (∀ m ∈ (t.host p).mail, m.n ≠ n) ∧ ∃ r w a b, (t.host p).replies = r ++ [(15, w, a, 0), (15, v, b, 0)] ∧
      field w 48 16 = status ∧ field w 32 3 = field x.header 32 3 ∧ field w 14 18 = field x.header 14 18

/-- Call x has reached its service unit, for function func of service svcn, and it is its turn (R465, R469). -/
structure Sys2Proof.Machine.ServiceTurn (s : State) (x : Request) (svcn func : Nat) : Prop where
  found : s.request x.id = some x
  turn : s.callTurn x = true
  service : field x.header 59 5 = svcn
  function : field x.header 51 8 = func

/-- R464, R465, R468, R469, R471: a gate forwards a cell's calls in order once the services run; a call waits for its turn; an unassigned
FUNC is SV_FUNC, a function of domain 0 alone is SV_PERM elsewhere, and an argument out of range is SV_ARG. -/
def Sys2Proof.Machine.Rule.CallsAreForwardedAndChecked : Prop :=
  (∀ (s : State) (k n : Nat) (pre post : List Call) (q : Call), (s.cell k).calls = pre ++ q :: post → (∀ y ∈ pre, y.stamp ≠ none) →
    q.stamp = none → q.tok.seq = n → (∀ y ∈ pre ++ post, y.tok.seq ≠ n) →
    (s.carrier.svc.running = true → ∃ t, exec (.gateForward (.cell k n)) s = .next t ∧
      (t.cell k).calls = pre ++ { q with stamp := some s.carrier.svc.stamp } :: post ∧
      t.carrier.svc.stamp = s.carrier.svc.stamp + 1 ∧ (t.cell k).g = (s.cell k).g) ∧
    (s.carrier.svc.running = false → exec (.gateForward (.cell k n)) s = .next s)) ∧
  (∀ (s : State) (x : Request), s.request x.id = some x → s.callTurn x = false →
    ∀ i ∈ [Instr.serviceBadFunc x.id, .topo x.id, .avail x.id, .free x.id, .entry x.id, .wait x.id, .kill x.id, .portstat x.id,
      .logWrite x.id, .logFlush x.id, .prot x.id, .fwmin x.id, .attest x.id, .routes x.id], exec i s = .next s) ∧
  (∀ (s : State) (x : Request) (svcn func : Nat), ServiceTurn s x svcn func →
    ((5 ≤ svcn ∨ (svcn < 2 ∧ 3 ≤ func) ∨ (svcn = 2 ∧ 8 ≤ func) ∨ (svcn = 3 ∧ 3 ≤ func) ∨ (svcn = 4 ∧ 2 ≤ func)) →
      ∃ t, exec (.serviceBadFunc x.id) s = .next t ∧ Answered s t x 1 0 ∧ t.mem = s.mem) ∧
    (∀ i, (svcn = 3 ∧ func = 2 ∧ i = Instr.routes x.id) ∨ (svcn = 2 ∧ func = 6 ∧ i = .fwmin x.id) ∨
        (svcn = 2 ∧ func = 7 ∧ i = .attest x.id) → x.auth ≠ 0 → ∃ t, exec i s = .next t ∧ Answered s t x 4 0 ∧ t.mem = s.mem ∧
      t.carrier.svc = { s.carrier.svc with latched := s.carrier.svc.latched.filter (fun y => y.1 ≠ x.id) } ∧ t.carrier.planes = s.carrier.planes) ∧
    (∀ i, (svcn = 0 ∧ func = 2 ∧ x.arg.getLsbD 0 = true ∧ i = Instr.avail x.id) ∨ (svcn = 3 ∧ func = 1 ∧ x.arg ≠ 0 ∧ i = .topo x.id) ∨
        (svcn = 3 ∧ func = 0 ∧ 32 ≤ x.arg.toNat ∧ i = .portstat x.id) ∨ (svcn = 4 ∧ func = 1 ∧ x.arg ≠ 0 ∧ i = .logFlush x.id) ∨
        (svcn = 1 ∧ func = 2 ∧ field x.arg 57 7 ≠ 0 ∧ i = .entry x.id) ∨
        (svcn = 2 ∧ func = 1 ∧ field x.arg 32 32 ≠ 0 ∧ i = .wait x.id) →
      ∃ t, exec i s = .next t ∧ Answered s t x 2 0 ∧ t.mem = s.mem))

/-- R197: SVC sends the header word and the argument to the service and stays outstanding; its reply writes D with status 0, and faults
the slot with SVCREJ and the status otherwise. R464, R465, R468, R469, R471: a gate forwards a cell's calls in order once the services
run; a call waits for its turn; an unassigned FUNC is SV_FUNC, a function of domain 0 alone is SV_PERM elsewhere, and an argument out of
range is SV_ARG. -/
def Obligations.CallsAndTheirGate : Prop := Rule.ServiceCalls ∧ Rule.CallsAreForwardedAndChecked

/-- R134, R139, R140, R471, R472: ALLOC maps its pages, which read 0, or answers SV_NOMEM; FREE, PROT and MIGRATE take effect once no cache
holds an entry, and answer then; AVAIL counts the free bytes; ENTRY gives the page's entry. -/
def Obligations.AllocatorAndPagerCalls : Prop :=
  ∀ (s : State) (x : Request),
    (∀ (place size kind n b : Nat) (c0 : PageChoice) (cs : List PageChoice), ServiceTurn s x 0 0 → place = field x.arg 57 3 →
      size = field x.arg 60 2 → kind = field x.arg 62 2 → n = pageSize size → b = field x.header 14 18 → field x.arg 48 9 = 0 →
      field x.arg 0 48 ≠ 0 → kind < 3 → place < 3 → size < 2 →
      ((c0 :: cs).length * n = (field x.arg 0 48 + n - 1) / n * n → s.choiceOk place (blockOf b) n (c0 :: cs) = true →
        ∃ t, exec (.alloc x.id (c0 :: cs)) s = .next t ∧ Answered s t x 0 (BitVec.ofNat 64 c0.va) ∧
          (∀ c ∈ c0 :: cs, ∃ p ∈ t.pages, p.va = c.va ∧ pKind p.entry = kind ∧ pSizeCode p.entry = size ∧
            pAddr p.entry % 2 ^ 50 = c.pa ∧ pDom p.entry = x.dom ∧ pWrite p.entry = true ∧ pValid p.entry = true ∧
            ∀ j < n, Memory.byte t.mem (c.pa + j) = 0 ∧ t.present.has ((c.pa + j) / 8) = false ∧
              t.memPoison.has ((c.pa + j) / 8) = false) ∧
          (∀ a, (∀ c ∈ c0 :: cs, a < c.pa ∨ c.pa + n ≤ a) → Memory.byte t.mem a = Memory.byte s.mem a) ∧
          (∀ p ∈ s.pages, p ∈ t.pages)) ∧
      (s.freeBytes place (blockOf b) < (field x.arg 0 48 + n - 1) / n * n →
        ∃ t, exec (.alloc x.id []) s = .next t ∧ Answered s t x 3 0 ∧ t.pages = s.pages ∧ t.mem = s.mem)) ∧
    (∀ (a : Alloc), ServiceTurn s x 0 1 → s.changes = [] →
      s.carrier.svc.allocs.find? (fun y => y.dom = x.dom && y.va = x.arg.toNat) = some a →
      (s.holders ⟨x.id, a.va, a.len, a.dom, .unmap, [], []⟩ = [] → ∃ t, exec (.free x.id) s = .next t ∧ Answered s t x 0 0 ∧
        (∀ p, p ∈ t.pages ↔ p ∈ s.pages ∧ ¬(pValid p.entry = true ∧ pDom p.entry = a.dom ∧ p.va < a.va + a.len ∧
          a.va < p.va + pSize p.entry)) ∧ a ∉ t.carrier.svc.allocs) ∧
      (∀ h, h = s.holders ⟨x.id, a.va, a.len, a.dom, .unmap, [], []⟩ → h ≠ [] → ∃ t, exec (.free x.id) s = .next t ∧
        t.changes = [⟨x.id, a.va, a.len, a.dom, .unmap, h, []⟩] ∧ t.pages = s.pages ∧ t.cells = s.cells)) ∧
    (ServiceTurn s x 0 1 → s.changes = [] → (∀ y ∈ s.carrier.svc.allocs, y.dom ≠ x.dom ∨ y.va ≠ x.arg.toNat) →
      ∃ t, exec (.free x.id) s = .next t ∧ Answered s t x 2 0 ∧ t.pages = s.pages) ∧
    (∀ (p : Page) (c : Change), ServiceTurn s x 1 0 → field x.arg 57 6 = 0 → s.changes = [] →
      s.callerPage x (field x.arg 0 57) = some p → c = ⟨x.id, p.va, pSize p.entry, x.dom, .setWrite (x.arg.getLsbD 63), [], []⟩ →
      s.holders c = [] → ∃ t, exec (.prot x.id) s = .next t ∧ Answered s t x 0 0 ∧ t.mem = s.mem ∧
        t.pages = s.pages.map (fun q => if pValid q.entry && c.names q then
          { q with entry := setBit q.entry 3 (x.arg.getLsbD 63) } else q)) ∧
    (∀ (p : Page) (c : Change) (pa old n place : Nat), ServiceTurn s x 1 1 → field x.arg 60 4 = 0 → place = field x.arg 57 3 →
      place < 3 → s.changes = [] → s.callerPage x (field x.arg 0 57) = some p → pHostShared p.entry = false →
      (place = 0 ∨ pSizeCode p.entry < 2) → n = pSize p.entry → old = pAddr p.entry % 2 ^ 50 → n ≤ s.freeBytes place (blockOf x.cell) →
      pa % n = 0 → old % n = 0 → inPlace place (blockOf x.cell) pa n = true → s.unused pa n = true → s.sharesOk pa n false = true → s.deferred = [] →
      s.own (pAddr p.entry) = true → c = ⟨x.id, p.va, n, x.dom, .move pa, [], []⟩ → s.holders c = [] →
      (∀ q ∈ s.pages, pValid q.entry = true → c.names q = true → q = p) → s.mem.wf = true →
      ∃ t, exec (.migrate x.id pa) s = .next t ∧ Answered s t x 0 0 ∧
        (∀ j < n, Memory.byte t.mem (pa + j) = Memory.byte s.mem (old + j)) ∧
        (∀ a, a < pa ∨ pa + n ≤ a → Memory.byte t.mem a = Memory.byte s.mem a) ∧
        (∃ q ∈ t.pages, q.va = p.va ∧ pAddr q.entry % 2 ^ 50 = pa ∧ pDom q.entry = pDom p.entry ∧ pKind q.entry = pKind p.entry)) ∧
    (ServiceTurn s x 0 2 → field x.arg 0 57 = 0 → field x.arg 59 5 = 0 → ∃ t, exec (.avail x.id) s = .next t ∧
      Answered s t x 0 (BitVec.ofNat 64 (s.freeBytes (field x.arg 57 3) (blockOf x.cell))) ∧ t.mem = s.mem ∧ t.pages = s.pages) ∧
    (∀ p, ServiceTurn s x 1 2 → field x.arg 57 7 = 0 → s.callerPage x (field x.arg 0 57) = some p →
      ∃ t, exec (.entry x.id) s = .next t ∧ Answered s t x 0 p.entry ∧ t.pages = s.pages) ∧
    (ServiceTurn s x 1 2 → field x.arg 57 7 = 0 → s.callerPage x (field x.arg 0 57) = none →
      ∃ t, exec (.entry x.id) s = .next t ∧ Answered s t x 2 0 ∧ t.pages = s.pages)

/-- R13, R471, R476 to R478: LOAD answers with the code of the first check that fails, and changes no cell then; else every unit's cell is
CONFIGURED with its identity, and the answer is the graph ID and the load serial, a further load of a graph waiting for the mark of the
loads before it (R14). WAIT answers once the load is marked, KILL tears the domain down; a graph that does not exist is SV_ARG, and one of
another domain SV_PERM. Where the units go and the graph ID are the loader's choices, operands of the model (log entry 14). -/
def Sys2Proof.Machine.Rule.LoadsWaitsAndKills : Prop :=
  (∀ (s : State) (x : Request) (img : Image) (pl : Placement) (b : Lpb) (p : Plan), ServiceTurn s x 2 0 → field x.arg 57 7 = 0 →
    x.arg.toNat % 8 = 0 → (∀ n ∈ [6, b.all.length], s.recordHeld x.id x.auth x.arg.toNat n = []) → s.readBlock x.id x.auth x.arg.toNat = some b →
    x.auth = 0 ∨ b.dom = 0 ∨ b.dom = x.auth →
    p = Plan.inGraph ⟨b, img, pl, if b.dom = 0 then pl.dom else b.dom, pl.graph, s.carrier.svc.serial + 1, s.modNo.toNat⟩ s →
    (∀ code w, p.check s false = some (code, w) → ∃ t, exec (.load x.id img pl) s = .next t ∧ Answered s t x code 0 ∧
      (∀ k, (t.cell k).st = (s.cell k).st ∧ (t.cell k).ident = (s.cell k).ident) ∧ t.carrier.svc.graphs = s.carrier.svc.graphs) ∧
    (∀ u, p.check s false = none → p.cellsOk s = true → p.eagsOk s = true → p.regionsOk s (blockOf x.cell) = true →
      s.graph pl.graph.toNat = none → (b.dom = 0 → s.domUsed pl.dom.toNat = false) → p.apply s = .ok u → p.treesOk u = true →
      ∃ t, exec (.load x.id img pl) s = .next t ∧ Answered s t x 0 (pl.graph ++ (s.carrier.svc.serial + 1)) ∧
        t.graph pl.graph.toNat = some p.record ∧ t.carrier.svc.serial = s.carrier.svc.serial + 1 ∧
        ∀ y ∈ p.units, (t.cell y.2.2).st = .configured ∧ (t.cell y.2.2).ident = p.ident y.1 y.2.1) ∧
    (∀ g u, p.check s false = none → s.graph pl.graph.toNat = some g → g.dom = p.dom → g.img = img → g.swapped = false →
      g.torn = false → p.cellsOk s = true → p.eagsOk s = true → p.apply s = .ok u → p.treesOk u = true →
      ∃ t, exec (.load x.id img pl) s = .next t ∧ Answered s t x 0 (pl.graph ++ (s.carrier.svc.serial + 1)) ∧
        t.carrier.svc.serial = s.carrier.svc.serial + 1 ∧
        (g.marked = true → t.graph pl.graph.toNat = some p.record ∧ t.carrier.svc.waiting = s.carrier.svc.waiting) ∧
        (g.marked = false → t.graph pl.graph.toNat = some g ∧
          t.carrier.svc.waiting = s.carrier.svc.waiting ++ [(pl.graph.toNat, p.record)]) ∧
        ∀ y ∈ p.units, (t.cell y.2.2).st = .configured ∧ (t.cell y.2.2).ident = p.ident y.1 y.2.1)) ∧
  (∀ (s : State) (x : Request) (n : Nat), n = x.arg.toNat → field x.arg 32 32 = 0 →
    (∀ g, s.graph n = some g → x.auth = 0 ∨ x.auth = g.dom →
      (ServiceTurn s x 2 1 → g.marked = true → ∃ t, exec (.wait x.id) s = .next t ∧ Answered s t x 0 (g.serial.zeroExtend 64) ∧
        t.mem = s.mem) ∧
      (ServiceTurn s x 2 1 → g.marked = false → exec (.wait x.id) s = .next s) ∧
      (ServiceTurn s x 2 4 → (∀ k m, x.id = .cell k m → ∀ y ∈ s.cells, y.1 = k → y.2.ident.dom ≠ g.dom) →
        ∃ t, exec (.kill x.id) s = .next t ∧ Answered s t x 0 0 ∧ (∀ y < 512, (t.row y).domState g.dom.toNat = 4) ∧
          (∀ k, (s.cell k).ident.dom = g.dom → (s.cell k).st ≠ .free → (t.cell k).st = .free))) ∧
    (∀ i, (ServiceTurn s x 2 1 ∧ i = Instr.wait x.id) ∨ (ServiceTurn s x 2 4 ∧ i = .kill x.id) ∨
        (ServiceTurn s x 2 2 ∧ ∃ sp, i = .cut x.id sp) ∨ (ServiceTurn s x 2 3 ∧ ∃ pl, i = .resume x.id pl) →
      (s.graph n = none → ∃ t, exec i s = .next t ∧ Answered s t x 2 0 ∧ t.mem = s.mem) ∧
      (∀ g, s.graph n = some g → x.auth ≠ 0 → x.auth ≠ g.dom → ∃ t, exec i s = .next t ∧ Answered s t x 4 0 ∧ t.mem = s.mem)))

/-- R448, R451 to R454: CUT asks the sources of the graph for the next cut; complete, it saves every unit, writes
the record to plain pages of domain 0, whose words 0 and 1 name the cut, the graph and the load, frees the cells and answers its
number. RESUME gives each unit's cell the registers of its record, and REPLACE, which cuts a graph that runs
first, those of the units whose nodes keep their names. -/
def Sys2Proof.Machine.Rule.CutsAreTakenAndRestored : Prop :=
  (∀ (s : State) (x : Request) (n : Nat) (g : Graph) (sp : List (Nat × Nat)), ServiceTurn s x 2 2 → n = x.arg.toNat →
    field x.arg 32 32 = 0 → s.graph n = some g → x.auth = 0 ∨ x.auth = g.dom → g.swapped = false → g.torn = false → g.marked = false →
    (g.cut = none → ∃ t, exec (.cut x.id sp) s = .next t ∧ t.graph n = some { g with cut := some (s.carrier.svc.cutNo + 1) } ∧
      t.carrier.svc.cutNo = s.carrier.svc.cutNo + 1 ∧ t.mem = s.mem ∧
      (∀ k ∈ g.cells, (∀ i < 8, ((s.cell k).inEp i).qnp = 0) →
        (t.cell k).qreq = true ∧ (t.cell k).qcut = s.carrier.svc.cutNo + 1 ∧ (t.cell k).g = (s.cell k).g) ∧
      (∀ k ∈ g.cells, (∃ i < 8, ((s.cell k).inEp i).qnp ≠ 0) → (t.cell k).qreq = (s.cell k).qreq ∧ (t.cell k).g = (s.cell k).g) ∧
      (∀ k, k ∉ g.cells → t.cell k = s.cell k)) ∧
    (∀ cut, g.cut = some cut → (∀ e ∈ g.eags, (s.eag e).cut = none) → s.cutComplete g = true → s.placesOk g cut sp = true →
      (∀ k m, x.id = .cell k m → k ∉ g.cells) →
      ∃ t r, exec (.cut x.id sp) s = .next t ∧ Answered s t x 0 (cut.zeroExtend 64) ∧
        t.graph n = some { g with cut := none, swapped := true, saved := some r } ∧ r.cut = cut ∧
        r.units = g.units.map (fun y => ⟨y.1, y.2.1, y.2.2, s.cell y.2.2⟩) ∧ (∀ k ∈ g.cells, (t.cell k).st = .free) ∧
        (∀ k, k ∉ g.cells → (∀ m, x.id ≠ .cell k m) → (∃ ls ts, t.cell k = { s.cell k with lanes := ls, laneTag := ts }) ∧
          ((s.cell k).laneTag = [] → t.cell k = s.cell k)) ∧
        (∀ c ∈ (recordPages sp).head?, t.mem.read c.pa 8 = 2 ^ 56 + cut.toNat ∧
          t.mem.read (c.pa + 8) 8 = n * 2 ^ 32 + g.serial.toNat) ∧
        (∀ c ∈ recordPages sp, ∃ p ∈ t.pages, p.va = c.va ∧ pAddr p.entry % 2 ^ 50 = c.pa ∧ pKind p.entry = 0 ∧ pDom p.entry = 0 ∧
          pGlobal p.entry = false ∧ pHostShared p.entry = false) ∧
        (∀ a, (∀ c ∈ recordPages sp, a < c.pa ∨ c.pa + 0x10000 ≤ a) → Memory.byte t.mem a = Memory.byte s.mem a)) ∧
    (∀ cut, g.cut = some cut → (∀ e ∈ g.eags, (s.eag e).cut = none) → s.cutComplete g = false → exec (.cut x.id sp) s = .next s)) ∧
  (∀ (s : State) (x : Request) (n : Nat) (g : Graph) (pl : Placement), ServiceTurn s x 2 3 → n = x.arg.toNat →
    field x.arg 32 32 = 0 → s.graph n = some g → x.auth = 0 ∨ x.auth = g.dom →
    (g.saved = none → ∃ t, exec (.resume x.id pl) s = .next t ∧ Answered s t x 2 0 ∧ t.mem = s.mem) ∧
    (∀ r p u, g.saved = some r → g.swapped = true ∨ g.torn = true → g.marked = false → p = g.plan n pl (s.carrier.svc.serial + 1) s.modNo.toNat →
      pl.fits = true → p.cellsOk s = true → p.eagsOk s = true → relinkOk r p.cells = true → p.apply s = .ok u → p.treesOk u = true →
      ∃ t, exec (.resume x.id pl) s = .next t ∧ Answered s t x 0 ((s.carrier.svc.serial + 1).zeroExtend 64) ∧
        ∀ y ∈ p.cells.zip r.units, (t.cell y.1).g = y.2.st.g ∧ (t.cell y.1).pc = y.2.st.pc ∧ (t.cell y.1).sems = y.2.st.sems ∧
          (t.cell y.1).sys = y.2.st.sys ∧ (t.cell y.1).st = y.2.st.heldSt)) ∧
  (∀ (s : State) (x : Request) (img : Image) (pl : Placement) (sp : List (Nat × Nat)) (b : Lpb) (g : Graph) (p : Plan),
    ServiceTurn s x 2 5 → field x.arg 57 7 = 0 → x.arg.toNat % 8 = 0 →
    (∀ n ∈ [6, b.all.length], s.recordHeld x.id x.auth x.arg.toNat n = []) → s.readBlock x.id x.auth x.arg.toNat = some b → s.graph b.target = some g → x.auth = 0 ∨ x.auth = g.dom →
    p = ⟨b, img, pl, g.dom, BitVec.ofNat 32 b.target, s.carrier.svc.serial + 1, s.modNo.toNat⟩ →
    (∀ code w, p.check s true = some (code, w) → ∃ t, exec (.replace x.id sp img pl) s = .next t ∧ Answered s t x code 0 ∧
      t.carrier.svc.graphs = s.carrier.svc.graphs ∧ ∀ k, (t.cell k).st = (s.cell k).st) ∧
    (g.marked = false → g.swapped = false → g.torn = false → g.cut = none → p.check s true = none →
      ∃ t, exec (.replace x.id sp img pl) s = .next t ∧ t.graph b.target = some { g with cut := some (s.carrier.svc.cutNo + 1) } ∧
        t.carrier.svc.cutNo = s.carrier.svc.cutNo + 1 ∧ t.mem = s.mem ∧ ∀ k, (t.cell k).g = (s.cell k).g) ∧
    (∀ r u, p.check s true = none → g.marked = false → g.swapped = true ∨ g.torn = true → g.saved = some r → p.cellsOk s = true →
      p.eagsOk s = true → p.regionsOk s (blockOf x.cell) = true →
      relinkOk { r with units := (p.inherited g.img r).map (fun y => y.2.1) } ((p.inherited g.img r).map (fun y => y.1)) = true →
      p.apply s = .ok u → p.treesOk u = true →
      ∃ t, exec (.replace x.id sp img pl) s = .next t ∧
        Answered s t x 0 (BitVec.ofNat 32 b.target ++ (s.carrier.svc.serial + 1)) ∧
        ∀ y ∈ p.inherited g.img r, (t.cell y.1).g = y.2.1.st.g ∧ (t.cell y.1).pc = y.2.1.st.pc ∧
          (t.cell y.1).sems = y.2.1.st.sems))

/-- R13, R471, R476 to R478: LOAD answers with the code of the first check that fails, and changes no cell then; else every unit's cell is
CONFIGURED with its identity, and the answer is the graph ID and the load serial, a further load of a graph waiting for the mark of the
loads before it (R14). WAIT answers once the load is marked, KILL tears the domain down; a graph that does not exist is SV_ARG, and one of
another domain SV_PERM. Where the units go and the graph ID are the loader's choices, operands of the model (log entry 14). R448, R451 to
R454: CUT asks the sources of the graph for the next cut; complete, it saves every unit, writes the record to plain pages of domain 0,
whose words 0 and 1 name the cut, the graph and the load, frees the cells and answers its number. RESUME gives each unit's cell the
registers of its record, and REPLACE, which cuts a graph that runs first, those of the units whose nodes keep their names. -/
def Obligations.LoadsCutsAndRestores : Prop := Rule.LoadsWaitsAndKills ∧ Rule.CutsAreTakenAndRestored

/-- R402, R403, R471, R474, R475, R484 to R486: what PORTSTAT, TOPO and the log answer; ROUTES writes this module's table and switches the
plane; FWMIN raises the minimum version within the version that runs; ATTEST uses a leaf of its counter for each quote. -/
def Obligations.NetworkLogAndFirmwareCalls : Prop :=
  ∀ (s : State) (x : Request),
    (ServiceTurn s x 3 0 → x.arg.toNat < 32 → ∃ t v, exec (.portstat x.id) s = .next t ∧ Answered s t x 0 v ∧
      field v 9 10 = (s.linkPort x.arg.toNat).peerMod.toNat ∧ v.getLsbD 8 = (s.linkPort x.arg.toNat).up ∧
      field v 0 8 = (s.linkPort x.arg.toNat).good.toNat) ∧
    (ServiceTurn s x 3 1 → x.arg = 0 → ∃ t v, exec (.topo x.id) s = .next t ∧ Answered s t x 0 v ∧
      field v 0 10 = s.modNo.toNat ∧ field v 10 10 = Config.systemModules % 2 ^ 10) ∧
    (ServiceTurn s x 4 0 → ∃ t, exec (.logWrite x.id) s = .next t ∧
      Answered s t x 0 (BitVec.ofNat 64 (s.carrier.svc.log x.dom).count) ∧
      (t.carrier.svc.log x.dom).count = (s.carrier.svc.log x.dom).count + 1 ∧
      (∃ r, (t.carrier.svc.log x.dom).recs.getLast? = some r ∧ r.value = x.arg ∧ r.cell = x.cell ∧ r.dtag = x.dtag) ∧
      t.mem = s.mem) ∧
    (ServiceTurn s x 4 1 → x.arg = 0 →
      ((s.host 0).replies = [] → ∃ t, exec (.logFlush x.id) s = .next t ∧ Answered s t x 0 0 ∧ t.mem = s.mem) ∧
      ((∃ y ∈ (s.host 0).replies, y.1 = 14 ∧ y.2.2.2 = x.dom) → exec (.logFlush x.id) s = .next s)) ∧
    (∀ (w : Word) (ws : List Word) (q : Nat) (r : RouteImage), ServiceTurn s x 3 2 → x.auth = 0 → field x.arg 57 7 = 0 →
      x.arg.toNat % 8 = 0 → s.recordHeld x.id 0 x.arg.toNat 1 = [] → s.readRecord x.id 0 x.arg.toNat 1 = some [w] → routeHead Config.systemModules w = true →
      bitsOf (w.extractLsb' 40 4) 4 = [q] → s.recordHeld x.id 0 (x.arg.toNat + 8) (Config.systemModules * 128) = [] →
      s.readRecord x.id 0 (x.arg.toNat + 8) (Config.systemModules * 128) = some ws →
      r = ⟨Config.systemModules, [q], ws⟩ → s.carrier.svc.routing = [] →
      (s.routesOk r = true → s.drained q (!(s.plane q).act) = true → ∃ t, exec (.routes x.id) s = .next t ∧ Answered s t x 0 0 ∧
        (t.plane q).act = !(s.plane q).act ∧ (∀ k < 1024, (t.plane q).entry (t.plane q).act k = BitVec.ofNat 4 (r.entry q s.modNo.toNat k)) ∧
        t.mem = s.mem) ∧
      (s.routesOk r = false → ∃ t, exec (.routes x.id) s = .next t ∧ Answered s t x 2 0 ∧ t.plane q = s.plane q)) ∧
    (ServiceTurn s x 2 6 → x.auth = 0 →
      (s.carrier.svc.minVersion.toNat ≤ x.arg.toNat → x.arg.toNat ≤ s.carrier.svc.version.toNat →
        ∃ t, exec (.fwmin x.id) s = .next t ∧ Answered s t x 0 0 ∧ t.carrier.svc.minVersion = x.arg) ∧
      (x.arg.toNat < s.carrier.svc.minVersion.toNat ∨ s.carrier.svc.version.toNat < x.arg.toNat →
        ∃ t, exec (.fwmin x.id) s = .next t ∧ Answered s t x 2 0 ∧ t.carrier.svc.minVersion = s.carrier.svc.minVersion)) ∧
    (∀ (req : List Word) (n : Nat), ServiceTurn s x 2 7 → x.auth = 0 → field x.arg 57 7 = 0 → x.arg.toNat % 8 = 0 →
      (∀ j ∈ [6, 6 + n], s.recordHeld x.id 0 x.arg.toNat j = []) → s.readRecord x.id 0 x.arg.toNat 6 = some (req.take 6) → requestOk (req.take 6) = true → n = field (req.headD 0) 0 7 →
      s.readRecord x.id 0 x.arg.toNat (6 + n) = some req → (∀ w ∈ req.drop 6, field w 12 52 = 0) →
      (s.carrier.svc.leaf < 2 ^ 20 → ∃ t, exec (.attest x.id) s = .next t ∧
        Answered s t x 0 (BitVec.ofNat 64 (8 * (18 + 6 * n) + 2820)) ∧ t.carrier.svc.leaf = s.carrier.svc.leaf + 1) ∧
      (2 ^ 20 ≤ s.carrier.svc.leaf → ∃ t, exec (.attest x.id) s = .next t ∧ Answered s t x 6 0 ∧ t.mem = s.mem))

/-! ### Host ports, freeze, trace and power (R147, R479 to R481, R485, R490 to R498) -/

/-- R479, R480, R147: a doorbell word joins the buffer of a bound queue, and is dropped with BADW, and OVF when the buffer is full,
otherwise; the oldest word enters the queue's window once the requests before it are performed and there is room; the mailbox pairs its
words into a call; BADW and OVF are cleared by writing ones; a port trains once the services run. -/
def Sys2Proof.Machine.Rule.HostInboundQueues : Prop :=
  ∀ (s : State) (p q : Nat) (v : Word) (x : HostQueue), x = s.hostQueue p q →
    (∀ (tag : BitVec 3) (i : Instr), (s.host p).up = true → (i = .hostDoorbell p q tag v ∨
        (q < 16 ∧ i = .hostBarWrite p (0x1000 + 0x80 * q + 8 * tag.toNat) 8 v)) →
      (256 ≤ x.buf.length → exec i s = .next (s.setHostQueue p q { x with badw := true, ovf := true })) ∧
      (x.buf.length < 256 → q < 15 → x.bound = false → exec i s = .next (s.setHostQueue p q { x with badw := true })) ∧
      (x.buf.length < 256 → q < 15 → tag = 7 → (field v 56 8 = 0 ∨ 8 ≤ field v 56 8) →
        exec i s = .next (s.setHostQueue p q { x with badw := true })) ∧
      (x.buf.length < 256 → q < 15 → x.bound = true → tag ≠ 7 → exec i s =
        .next (s.setHostQueue p q { x with buf := x.buf ++ [(tag, v, (s.host p).accepted)] })) ∧
      (x.buf.length < 256 → q = 15 → s.carrier.svc.running = true → tag = 0 → exec i s =
        .next (s.setHostQueue p q { x with buf := x.buf ++ [(tag, v, (s.host p).accepted)] }))) ∧
    (∀ i, (s.host p).up = true → (i = .iqStatClear p q v ∨ (q < 16 ∧ i = .hostBarWrite p (0x1040 + 0x80 * q) 8 v)) →
      exec i s = .next (s.setHostQueue p q { x with badw := x.badw && !v.getLsbD 18, ovf := x.ovf && !v.getLsbD 17 })) ∧
    ((s.host p).up = false → ∀ (tag : BitVec 3), ∀ i ∈ [Instr.hostDoorbell p q tag v, .iqStatClear p q v, .hostBarWrite p q 8 v],
      exec i s = .next s) ∧
    (∀ (tag : BitVec 3) (w : Word) (n : Nat) (rest : List (BitVec 3 × Word × Nat)), x.buf = (tag, w, n) :: rest →
      (s.memPending p n = true → exec (.doorbellPush p q) s = .next s) ∧
      (s.memPending p n = false → q < 15 → x.bound = true → x.ents.length < x.win → ∃ e, exec (.doorbellPush p q) s = .next
          (s.setHostQueue p q { x with buf := rest, seq := x.seq + 1, ents := x.ents ++ [e] }) ∧
        e.w.v = w ∧ e.w.tag = tag ∧ e.w.p = false ∧ e.w.seq = x.seq ∧ e.w.punit = 0 ∧ e.w.pos = 0) ∧
      (s.memPending p n = false → q < 15 → x.win ≤ x.ents.length → exec (.doorbellPush p q) s = .next s) ∧
      (s.memPending p n = false → q = 15 → ∃ t, exec (.doorbellPush p q) s = .next t ∧ (t.hostQueue p q).buf = rest ∧
        ((s.host p).half = none → (t.host p).half = some w ∧ (t.host p).mail = (s.host p).mail) ∧
        (∀ w0, (s.host p).half = some w0 → (t.host p).half = none ∧
          ∃ m, (t.host p).mail = (s.host p).mail ++ [m] ∧ m.header = w0 ∧ m.arg = w))) ∧
    (∀ x8 : Bool, (p < 4 → 7 ≤ s.carrier.pwr.step.toNat → ∃ t, exec (.hostPortTrain p x8) s = .next t ∧ (t.host p).up = true ∧
        (t.host p).mem = true ∧ (t.host p).x8 = x8 ∧ t.cells = s.cells) ∧
      (s.carrier.pwr.step.toNat < 7 → exec (.hostPortTrain p x8) s = .next s))

/-- R479, R481, R466: an outbound word is written at BASE + 16 * (TAIL mod 2^SIZE) with its side word, TAIL goes on, and the word is
retired; a full or disabled ring takes none; the host sets BASE, SIZE and HEAD, and not TAIL. That the host reads a word no later
than it is retired is the model's choice (DEDUCED, log entry 30). -/
def Sys2Proof.Machine.Rule.HostOutboundRings : Prop :=
  ∀ (s : State) (p q : Nat) (r : HostRing), r = (s.host p).ring q → (s.host p).up = true →
    (∀ (y : Nat × Word × Word × BitVec 12) (rest : List (Nat × Word × Word × BitVec 12)), (s.host p).replies = y :: rest → y.1 = q →
      0 < r.size → (r.tail - r.head).toNat < 2 ^ r.size → ∃ t, exec (.hostRingWrite p q .chain) s = .next t ∧
        (t.host p).wrote = (s.host p).wrote ++ [(r.base + BitVec.ofNat 64 (16 * (r.tail.toNat % 2 ^ r.size)), y.2.1, y.2.2.1)] ∧
        (t.host p).ring q = { r with tail := r.tail + 1 } ∧ (t.host p).replies = rest ∧ t.cells = s.cells) ∧
    (∀ (k i : Nat) (e : WinEnt), i < 8 → s.net = [] → (s.cell k).started = true → ((s.cell k).outEp i).ents = [e] → ((s.cell k).outEp i).hostQ = some (p, q) →
      ((s.cell k).outEp i).mcm1 = 0 → e.arrived = 0 → e.stored = 0 → e.acked = 0 → e.held = 0 → e.w.pos = 0 →
      0 < r.size → (r.tail - r.head).toNat < 2 ^ r.size →
      ∃ t, exec (.hostRingWrite p q (.cell k i 0)) s = .next t ∧
        (t.host p).wrote = (s.host p).wrote ++ [(r.base + BitVec.ofNat 64 (16 * (r.tail.toNat % 2 ^ r.size)), e.w.v, e.w.side)] ∧
        (t.host p).ring q = { r with tail := r.tail + 1 } ∧ ((t.cell k).outEp i).ents = []) ∧
    (∀ src : Src, r.size = 0 ∨ 2 ^ r.size ≤ (r.tail - r.head).toNat → exec (.hostRingWrite p q src) s = .next s) ∧
    (∀ v : Word, q < 16 →
      (v.toNat % 64 = 0 → ∃ t, exec (.hostBarWrite p (0x4000 + 0x40 * q) 8 v) s = .next t ∧ (t.host p).ring q = { r with base := v } ∧
        t.cells = s.cells) ∧
      (field v 0 6 = 0 ∨ (4 ≤ field v 0 6 ∧ field v 0 6 ≤ 20) → ∃ t, exec (.hostBarWrite p (0x4008 + 0x40 * q) 8 v) s = .next t ∧
        (t.host p).ring q = { r with size := field v 0 6 } ∧ t.cells = s.cells) ∧
      (∃ t, exec (.hostBarWrite p (0x4010 + 0x40 * q) 8 v) s = .next t ∧ (t.host p).ring q = { r with head := v.extractLsb' 0 32 }) ∧
      (∃ t, exec (.hostBarWrite p (0x4018 + 0x40 * q) 8 v) s = .next t ∧ (t.host p).ring q = r))

/-- R479, R480, R147: a doorbell word joins the buffer of a bound queue, and is dropped with BADW, and OVF when the buffer is full,
otherwise; the oldest word enters the queue's window once the requests before it are performed and there is room; the mailbox pairs its
words into a call; BADW and OVF are cleared by writing ones; a port trains once the services run. R479, R481, R466: an outbound word is
written at BASE + 16 * (TAIL mod 2^SIZE) with its side word, TAIL goes on, and the word is retired; a full or disabled ring takes none;
the host sets BASE, SIZE and HEAD, and not TAIL. That the host reads a word no later than it is retired is the model's choice (DEDUCED,
log entry 30). -/
def Obligations.HostQueuesAndRings : Prop := Rule.HostInboundQueues ∧ Rule.HostOutboundRings

/-- R493 to R495: a pin or a row manager asks for a freeze, the first is latched, and 64 clk later every clock stops, until MDLRESUME; the
read-out follows MDLSEL and shifts a word a time; peers are counted frozen from FROZEN to THAWED. -/
def Sys2Proof.Machine.Rule.FreezeAndReadOut : Prop :=
  (∀ (s : State) (y : Nat) (pin : Bool) (i : Instr), i = (if pin then .freezePin else .mdlctlFreeze y) →
    (s.frozen = true ∨ s.dbg.stopAt ≠ none → exec i s = .next s) ∧
    (s.frozen = false → s.dbg.stopAt = none → ∃ t, exec i s = .next t ∧ t.dbg.stopAt = some (s.now + 64) ∧ t.dbg.fpin = pin ∧
      t.dbg.frow = (if pin then 0 else BitVec.ofNat 9 y) ∧ t.cells = s.cells ∧ t.frozen = false)) ∧
  (∀ (s : State) (f : Nat), s.dbg.stopAt = some f → (f ≤ s.now → ∃ t, exec .freezeStop s = .next t ∧ t.frozen = true ∧
      t.dbg.fcnt = s.dbg.fcnt + 1 ∧ t.dbg.stopAt = none ∧ t.cells = s.cells ∧ t.mem = s.mem ∧
      (∀ p < 32, (s.linkPort p).up = true → (t.linkPort p).notice = true)) ∧
    (s.now < f → exec .freezeStop s = .next s)) ∧
  (∀ (s : State), (∃ t, exec .mdlresume s = .next t ∧ t.frozen = false ∧ t.cells = s.cells ∧ t.mem = s.mem ∧ t.now = s.now ∧
      (∀ p < 32, s.frozen = true → (s.linkPort p).up = true → (t.linkPort p).notice = false)) ∧
    (∀ v, exec (.mdlsel v) s = .next (s.setDbg { s.dbg with ir := 0x10, sel := v, shifted := 0 })) ∧
    (∀ b, exec (.mdllanes b) s = .next (s.setDbg { s.dbg with ir := 0x12, lanes := b })) ∧
    (∃ w, exec .extest s = .next { s.setDbg { s.dbg with ir := 0x00, scan := w, out := w } with fresh := s.fresh + 1 }) ∧
    (∃ w, exec .samplePreload s = .next { s.setDbg { s.dbg with ir := 0x02, scan := w, out := w } with fresh := s.fresh + 1 }) ∧
    exec .bypass s = .next (s.setDbg { s.dbg with ir := 0xFF, bypass := false, out := 0 }) ∧
    (∃ w, exec .idcode s = .next (s.setDbg { s.dbg with ir := 0x01, out := w }) ∧ field w 12 16 = 0x5A71 ∧ w.getLsbD 0 = true) ∧
    (s.frozen = false → exec .mdlread s = .next (s.setDbg { s.dbg with ir := 0x11, out := 0 })) ∧
    (s.frozen = true → ∀ w, s.streamWord s.dbg.shifted = some w →
      exec .mdlread s = .next (s.setDbg { s.dbg with ir := 0x11, out := w, shifted := s.dbg.shifted + 1 }))) ∧
  (∀ (s : State) (p : Nat), (s.linkPort p).up = true →
    exec (.frozenNotice p) s = .next (s.setLinkPort p { s.linkPort p with peerFrozen := true }) ∧
    exec (.thawedNotice p) s = .next (s.setLinkPort p { s.linkPort p with peerFrozen := false }))

/-- R490 to R492: a cell samples its PC where SAMP divides its sys.clk; a row records the timestamp each 2^28 clk; a record that has no room
in the row's buffer is counted. -/
def Sys2Proof.Machine.Rule.TraceRecords : Prop :=
  (∀ (s : State) (k n : Nat), n = (SMap.get 0 (s.cell k).dbg.f 12).toNat →
    (n = 0 ∨ ((s.cell k).clk s.now).toNat % n ≠ 0 → exec (.pcSample k) s = .next s) ∧
    (n ≠ 0 → ((s.cell k).clk s.now).toNat % n = 0 → (s.row (yOf k)).traceLost = 0 →
      ((s.row (yOf k)).trace.length < 1024 → ∃ t w0 w1, exec (.pcSample k) s = .next t ∧
        (t.row (yOf k)).trace = (s.row (yOf k)).trace ++ [(w0, w1)] ∧ field w0 59 5 = 2 ∧ field w0 41 18 = k % 2 ^ 18 ∧
        field w0 29 12 = (s.cell k).ident.dom.toNat ∧ field w0 0 29 = s.stamp % 2 ^ 29 ∧ field w1 0 11 = (s.cell k).pc % 2048 ∧
        field w1 16 5 = (s.cell k).sys.entry.toNat ∧ field w1 24 4 = (s.cell k).st.code ∧ t.cells = s.cells) ∧
      (1024 ≤ (s.row (yOf k)).trace.length → ∃ t, exec (.pcSample k) s = .next t ∧ (t.row (yOf k)).traceLost = 1 ∧
        (t.row (yOf k)).trace = (s.row (yOf k)).trace))) ∧
  (∀ (s : State) (y t0 : Nat), y < 512 → s.stampAt = some t0 →
    ((s.now - t0) % 2 ^ 28 = 0 → (s.row y).traceLost = 0 → (s.row y).trace.length < 1024 → ∃ t w0, exec (.traceTime y) s = .next t ∧
      (t.row y).trace = (s.row y).trace ++ [(w0, BitVec.ofNat 64 (s.now - t0))] ∧ field w0 59 5 = 1) ∧
    ((s.now - t0) % 2 ^ 28 ≠ 0 → exec (.traceTime y) s = .next s))

/-- R493 to R495: a pin or a row manager asks for a freeze, the first is latched, and 64 clk later every clock stops, until MDLRESUME; the
read-out follows MDLSEL and shifts a word a time; peers are counted frozen from FROZEN to THAWED. R490 to R492: a cell samples its PC
where SAMP divides its sys.clk; a row records the timestamp each 2^28 clk; a record that has no room in the row's buffer is counted. -/
def Obligations.FreezeAndTrace : Prop := Rule.FreezeAndReadOut ∧ Rule.TraceRecords

/-- R39, R40, R496, R497: the oldest request for leave is granted while the budget holds it, or alone; PCAP sets the budget it allows, from
12,000 to 26,000 W; heat takes 8 of it at each tick above 105 °C until the sensor is below 100 °C; the supervisor takes one address. -/
def Sys2Proof.Machine.Rule.LeaveAndItsBudget : Prop :=
  (∀ (s : State) (b n c : Nat) (rest : List Leave), (s.block b).reqs = ⟨.copy, n, c⟩ :: rest → (s.block b).govTrc = false →
    ((s.block b).heldUnits + n ≤ s.budget b ∨ (s.block b).held = [] → ∃ t, exec (.leaveGrant b) s = .next t ∧
      (t.block b).held = (s.block b).held ++ [⟨.copy, n, c⟩] ∧ (t.block b).reqs = rest ∧
      (∀ m ms, (s.block b).copyq = m :: ms → (t.block b).copyq = { m with leave := 2 } :: ms) ∧ t.cells = s.cells) ∧
    (s.budget b < (s.block b).heldUnits + n → (s.block b).held ≠ [] → exec (.leaveGrant b) s = .next s)) ∧
  (∀ (s : State) (v : BitVec 32),
    (12000 ≤ v.toNat → v.toNat ≤ 26000 → ∃ t, exec (.pcapWrite v) s = .next t ∧ t.pwr.pcap = v ∧
      (s.pwr.hot = 0 → ∀ b, t.budget b = min 58 ((v.toNat - 10300) * 10 / 2684)) ∧ (∀ b, (t.block b).held = (s.block b).held)) ∧
    (v.toNat < 12000 ∨ 26000 < v.toNat → exec (.pcapWrite v) s = .next s)) ∧
  (∀ (s : State) (temp : BitVec 16), ∃ t, exec (.thermalThrottleTick temp) s = .next t ∧ t.pwr.temp = temp ∧
    (1680 < temp.toNat → ∀ b, t.budget b = s.budget b - 8) ∧ (temp.toNat < 1600 → t.pwr.hot = 0) ∧
    (1600 ≤ temp.toNat → temp.toNat ≤ 1680 → s.pwr.hot = 0 → t.pwr.hot = 0) ∧
    (1600 ≤ temp.toNat → temp.toNat ≤ 1680 → 0 < s.pwr.hot → ∀ b, t.budget b = s.budget b - 8) ∧ t.cells = s.cells) ∧
  (∀ (s : State) (a : BitVec 7), (s.pwr.addr = none → exec (.entdaa a) s = .next (s.setPwr { s.pwr with addr := some a })) ∧
    (s.pwr.addr ≠ none → exec (.entdaa a) s = .next s))

/-- R485, R498: without its supply the module keeps its number, its fuses and its repairs alone; power brings it to step 3, or stops with
the code of the step that failed; firmware bytes are staged there, and an accepted image brings it to step 8, where the services run
and the vaults read 0. -/
def Sys2Proof.Machine.Rule.PowerAndBringUp : Prop :=
  (∀ (s : State), ∃ t, exec .powerFailure s = .next t ∧ t.pwr.on = false ∧ t.cells = [] ∧ t.mem = [] ∧ t.pages = [] ∧ t.rows = [] ∧
    t.modNo = s.modNo ∧ t.carrier.svc.minVersion = s.carrier.svc.minVersion ∧ t.carrier.svc.leaf = s.carrier.svc.leaf ∧
    t.carrier.svc.retired = s.carrier.svc.retired ∧ t.carrier.svc.running = false) ∧
  (∀ (s : State) (facts : PowerFacts), s.pwr.on = false →
    (facts.regulators = false → ∃ t, exec (.powerOn facts) s = .next t ∧ t.pwr.on = true ∧ t.pwr.step = 0 ∧ t.pwr.code = 1) ∧
    (facts.regulators = true → facts.failedManagers = [] → 0 ∈ facts.failedStacks → ∃ t, exec (.powerOn facts) s = .next t ∧
      t.pwr.step = 2 ∧ t.pwr.code = 3) ∧
    (facts.regulators = true → facts.failedManagers = [] → 0 ∉ facts.failedStacks → ∃ t, exec (.powerOn facts) s = .next t ∧
      t.pwr.on = true ∧ t.pwr.step = 3 ∧ t.pwr.code = 0 ∧ t.cells = [] ∧ t.mem = [] ∧
      t.carrier.svc.failedStacks = facts.failedStacks ∧ t.modNo = s.modNo)) ∧
  (∀ (s : State) (data : List Byte), s.pwr.code = 0 →
    (s.pwr.step = 3 → exec (.fwin data) s = .next (s.setPwr { s.pwr with staged := s.pwr.staged ++ data })) ∧
    (s.pwr.step ≠ 3 → exec (.fwin data) s = .next s)) ∧
  (∀ (s : State) (facts : BringUp), s.pwr.step = 3 → s.pwr.code = 0 →
    (s.imageAccepted = false → exec (.fwgo facts) s = .next (s.setPwr { s.pwr with code := 4 })) ∧
    (s.imageAccepted = true → (∃ k ∈ facts.failedCells, 510 ≤ k % 512) → ∃ t, exec (.fwgo facts) s = .next t ∧ t.pwr.step = 5 ∧
      t.pwr.code = 6 ∧ t.carrier.svc.running = s.carrier.svc.running) ∧
    (s.imageAccepted = true → (∀ k ∈ facts.failedCells, k % 512 < 510) → facts.serviceOk = false →
      ∃ t, exec (.fwgo facts) s = .next t ∧ t.pwr.step = 6 ∧ t.pwr.code = 7 ∧ t.stampAt = some s.now) ∧
    (s.imageAccepted = true → (∀ k ∈ facts.failedCells, k % 512 < 510) → facts.serviceOk = true →
      ∃ t, exec (.fwgo facts) s = .next t ∧ t.pwr.step = 8 ∧ t.pwr.code = 0 ∧ t.carrier.svc.running = true ∧
        t.stampAt = some s.now ∧ (∀ a, a < hbmBase → Memory.byte t.mem a = 0) ∧
        (∀ a, hbmBase ≤ a → Memory.byte t.mem a = Memory.byte s.mem a) ∧
        (∀ k ∈ facts.failedCells, t.carrier.svc.retired.has k = true) ∧ t.cells = s.cells))

/-- R39, R40, R496, R497: the oldest request for leave is granted while the budget holds it, or alone; PCAP sets the budget it allows,
from 12,000 to 26,000 W; heat takes 8 of it at each tick above 105 °C until the sensor is below 100 °C; the supervisor takes one address.
R485, R498: without its supply the module keeps its number, its fuses and its repairs alone; power brings it to step 3, or stops with the
code of the step that failed; firmware bytes are staged there, and an accepted image brings it to step 8, where the services run and the
vaults read 0. -/
def Obligations.LeavePowerAndBringUp : Prop := Rule.LeaveAndItsBudget ∧ Rule.PowerAndBringUp

/-! ### The machine as a whole (R4, R24, R50, R54 to R58, R66, R73, R74, R77 to R79, R105, R164, R178, R434) -/

/-- R54, R79: a cell's turn runs the instruction that its word at PC encodes, in the state of the turn; a fetch beyond the instruction store
raises LBOUND, once the cell may issue; a turn of another agent runs its operation, which no fetch is needed for; a turn of n clk passes them. What a turn is, is
the model's choice (log entry 6). -/
def Obligations.AStepRunsTheDecodedInstruction : Prop :=
  (∀ (s u : State), (s.sched = [] ∧ u = s) ∨ (∃ c rest, s.sched = .cell c :: rest ∧ u = { s with sched := rest, cur := c }) →
    u.carrier.pwr.on = true → u.frozen = false → u.carrier.dbg.stopAt = none →
    (u.me.st = .running ∨ u.me.st = .asleep →
      (u.me.pc < 2048 → step s = exec (decodeWord (u.me.code u.me.pc)) u) ∧
      (2048 ≤ u.me.pc → step s = .next ({ u with now := max u.now u.me.readyAt }.enter u.cur u.me 16
        { cause := 4, tpc := u.me.pc, taken := u.me.pc, opb := 0, tval := BitVec.ofNat 64 u.me.pc }))) ∧
    (u.me.st ≠ .running → u.me.st ≠ .asleep → ∃ t, step s = .next t ∧ t.cells = u.cells ∧ t.mem = u.mem ∧ t.now = u.now + 1)) ∧
  (∀ (s : State) (i : Instr) (rest : List Turn), s.sched = .op i :: rest →
    (encode i = none → s.carrier.pwr.on = true → s.frozen = false → s.carrier.dbg.stopAt = none →
      step s = exec i { s with sched := rest }) ∧
    (∀ w, encode i = some w → step s = .refused .notAnEvent)) ∧
  (∀ (s : State) (a : AgentTurn) (rest : List Turn), s.sched = .agent a :: rest → s.carrier.pwr.on = true → s.frozen = false →
    s.carrier.dbg.stopAt = none → step s = .next ({ s with sched := rest }.agentActs a)) ∧
  (∀ (s : State) (n : Nat) (rest : List Turn), s.sched = .clk n :: rest → s.carrier.pwr.on = true → s.frozen = false →
    s.carrier.dbg.stopAt = none → ∃ t, step s = .next t ∧ t.now = s.now + n ∧ t.cells = s.cells ∧ t.mem = s.mem ∧ t.sched = rest)

/-- R56 to R58, R79: what a word of each format stands for, its fields written out from the most significant bit down. -/
def Obligations.WordsAreDecodedAsWrittenOut : Prop :=
  -- ADD.I wm 3, es 5: d 7, a q2 with stick 1, b g9, no immediate
  decodeWord (0x01#8 ++ 0x03#8 ++ 1#1 ++ 5#3 ++ 7#6 ++ 58#6 ++ 9#6 ++ 0#6 ++ 1#3 ++ 0#3 ++ 0#3 ++ 0#4 ++ 0#3 ++ 0#1 ++ 0#3) =
    .add ⟨0x03, true, 5⟩ ⟨7, 58, 9, 0, 1, 0, 0, 0, 0, false, 0⟩ ∧
  decodeWord (0x1C#8 ++ 0x00#8 ++ 0#1 ++ 0#3 ++ 4#6 ++ 5#6 ++ 0#3 ++ 0x1FFFFFFF#29) = .addi ⟨0, false, 0⟩ ⟨4, 5, 0, 0x1FFFFFFF⟩ ∧
  decodeWord (0x2F#8 ++ 0x00#8 ++ 0#1 ++ 0#3 ++ 1#6 ++ 2#6 ++ 3#6 ++ 0#3 ++ 0#3 ++ 2#2 ++ 1#1 ++ 0#3 ++ 0x3FF8#14) =
    .ldl ⟨0, false, 0⟩ ⟨1, 2, 3, 0, 0, 2, true, 0, 0x3FF8⟩ ∧
  decodeWord (0x29#8 ++ 0x80#8 ++ 0#1 ++ 0#3 ++ 0#6 ++ 2#6 ++ 0#3 ++ 0x10#29) = .bnz ⟨0x80, false, 0⟩ ⟨0, 2, 0, 0x10⟩ ∧
  decodeWord (0x33#8 ++ 0x00#8 ++ 0#1 ++ 0#3 ++ 0#41 ++ 3#3) = .rettEnd ⟨0, false, 0⟩ ⟨0, 0, 0, 0, 0, 0, 0, 0, 0, false, 3⟩ ∧
  decodeWord (0x42#8 ++ 0x00#8 ++ 0#1 ++ 0#3 ++ 0#6 ++ 6#6 ++ 0#6 ++ 0#6 ++ 0x00003#20) = .push ⟨0, false, 0⟩ ⟨0, 6, 0, 0, 3⟩ ∧
  decodeWord (0x48#8 ++ 0x00#8 ++ 0#1 ++ 0#3 ++ 0#24 ++ 0x00800#20) = .qtagIn ⟨0, false, 0⟩ ⟨0, 0, 0, 0, 0x800⟩ ∧
  decodeWord (0x66#8 ++ 0x00#8 ++ 0#1 ++ 0#3 ++ 0#6 ++ 8#6 ++ 0#6 ++ 0#6 ++ 0x00004#20) = .sinc ⟨0, false, 0⟩ ⟨0, 8, 0, 0, 4⟩ ∧
  decodeWord (0x7B#8 ++ 0x00#8 ++ 1#1 ++ 2#3 ++ 3#6 ++ 4#6 ++ 5#6 ++ 6#6 ++ 0x0000C#20) = .acas ⟨0, true, 2⟩ ⟨3, 4, 5, 6, 0xC⟩ ∧
  decodeWord (0x80#8 ++ 0x00#8 ++ 1#1 ++ 7#3 ++ 0#24 ++ 0x00001#20) = .evarr ⟨0, true, 7⟩ ⟨0, 0, 0, 0, 1⟩ ∧
  decodeWord (0x88#8 ++ 0x00#8 ++ 0#1 ++ 0#3 ++ 1#6 ++ 2#6 ++ 3#6 ++ 0#6 ++ 4#3 ++ 1#1 ++ 0#5 ++ 10#4 ++ 1#3 ++ 0#1 ++ 0#3) =
    .vadd ⟨0, false, 0⟩ ⟨1, 2, 3, 0, 4, true, 0, 10, 1, false, 0⟩ ∧
  decodeWord (0xC0#8 ++ 0x00#8 ++ 1#1 ++ 1#3 ++ 2#6 ++ 3#6 ++ 4#6 ++ 1#6 ++ 0x00000#20) = .pori2 ⟨0, true, 1⟩ ⟨2, 3, 4, 1, 0⟩ ∧
  decodeWord (0xCE#8 ++ 0x00#8 ++ 0#1 ++ 0#3 ++ 0#24 ++ 0x00010#20) = .mcut ⟨0, false, 0⟩ ⟨0, 0, 0, 0, 0x10⟩ ∧
  decodeWord (0xDA#8 ++ 0x00#8 ++ 1#1 ++ 3#3 ++ 0#6 ++ 1#6 ++ 2#6 ++ 3#6 ++ 0x00004#20) = .xsend ⟨0, true, 3⟩ ⟨0, 1, 2, 3, 4⟩ ∧
  decodeWord (0xE4#8 ++ 0x00#8 ++ 0#1 ++ 0#3 ++ 0#24 ++ 0x00001#20) = .wdogOff ⟨0, false, 0⟩ ⟨0, 0, 0, 0, 1⟩ ∧
  decodeWord 0xFFFFFFFFFFFFFFFF = .unassignedOpcode 0xFFFFFFFFFFFFFFFF ∧
  decodeCommand ⟨3, 0⟩ false (0x3#4 ++ 9#10 ++ 0#7 ++ 0x7FF#11) 0x11111111 0x22222222 = .istore ⟨3, 0⟩ 9 0x7FF 0x2222222211111111 ∧
  decodeCommand ⟨3, 0⟩ false (0x1#4 ++ 2#3 ++ 280#18 ++ 0#7) 0 0 = .base ⟨3, 0⟩ 2 280

/-- R56 to R58, R79, R43, R44: the word of a well-formed instruction decodes to it, with every operand at every value; every word is the
word of what it decodes to; and the words of a configuration command decode to it. -/
def Obligations.EncodingsAreReadBack : Prop :=
  (∀ (i : Instr) (w : Word), i.wf = true → encode i = some w → decodeWord w = i) ∧
  (∀ w : Word, encode (decodeWord w) = some w) ∧
  (∀ (i : Instr) (space3 : Bool) (w w1 w2 : BitVec 32), (∀ m v, i ≠ .cfgReservedCommand m v) →
    encodeCommand i = some (space3, w, w1, w2) → ∃ m, decodeCommand m space3 w w1 w2 = i)

/-- R66, R73, R74, R76 to R78, R179, for every instruction: with a slot of its wait mask PENDING it sleeps and nothing else happens; with a
pending fault in a slot that it names that fault is taken first; breaking its encoding it raises ILLOP with its word; and without the
privilege it raises PRIV. -/
def Obligations.TheIssueOfEveryInstruction : Prop :=
  ∀ (s : State) (i : Instr) (w : Word) (h : Hdr), encode i = some w → h = Hdr.ofWord w → s.me.st = .running → s.me.NoBreaks →
    (h.wm &&& s.me.pendingMask ≠ 0 → ∃ t, exec i s = .next t ∧ (t.cell s.cur).st = .asleep ∧
      (t.cell s.cur).wait = some (.token, .slots h.wm) ∧ (t.cell s.cur).pc = s.me.pc ∧ (t.cell s.cur).g = s.me.g ∧
      (t.cell s.cur).slots = s.me.slots ∧ (t.cell s.cur).sys = s.me.sys ∧ (t.cell s.cur).store = s.me.store ∧
      (∀ k, k ≠ s.cur → t.cell k = s.cell k) ∧ t.mem = s.mem) ∧
    (∀ r, h.wm &&& s.me.pendingMask = 0 → s.me.inHandler = false → s.me.faultFor (namedSlots h) (Instr.op i) = some r →
      (r.cause ≠ 8 ∨ r.vector = true) → (s.me.haOf 16).getLsbD 16 = true → ∃ t, exec i s = .next t ∧
      (t.cell s.cur).pc = field (s.me.haOf 16) 0 11 ∧ (t.cell s.cur).sys.tpc = BitVec.ofNat 11 r.pc ∧
      (t.cell s.cur).sys.tval = r.tval ∧ field (t.cell s.cur).sys.trap 0 8 = r.cause.toNat ∧
      (t.cell s.cur).sys.trap.getLsbD 10 = true ∧ field (t.cell s.cur).sys.trap 16 11 = s.me.pc % 2048 ∧
      (∀ j < 8, r.slots.getLsbD j = true → (t.cell s.cur).slot j = .idle) ∧ (t.cell s.cur).g = s.me.g ∧ r ∉ (t.cell s.cur).faults) ∧
    (namedSlots h &&& s.me.pendingMask = 0 → (s.me.inHandler = true → namedSlots h &&& s.me.faultedMask = 0) →
      (s.me.inHandler = true ∨ s.me.faultFor (namedSlots h) (Instr.op i) = none) →
      (i.wf = false → exec i s = .next (s.atIssue.enter s.cur s.me 16
        { cause := 1, tpc := s.me.pc, taken := s.me.pc, opb := w.extractLsb' 56 8, tval := w })) ∧
      (i.wf = true → s.me.ident.dom ≠ 0 → ((∃ f, i = .parkSelf h f) ∨ (∃ f, i = .wdogOff h f)) →
        exec i s = .next (s.atIssue.enter s.cur s.me 16
          { cause := 2, tpc := s.me.pc, taken := s.me.pc, opb := w.extractLsb' 56 8, tval := w })))

/-- R55, R66, R105, R131, R165, R167, R178, R181, R213, R244, R434, R496, R497: what reset leaves, where the spec gives the value: every
cell FREE with no identity, its instruction store all ones, no task (ENTRY 31), its slots IDLE, its rings and windows empty, its own LFSR
seed and WLIM; domain 0 RUNNING in every row, every other domain FREE; and the model's memories in their canonical form. -/
def Obligations.ResetLeavesTheStatedValues : Prop :=
  (∀ k, (State.reset.cell k).st = .free ∧ (State.reset.cell k).ident = {} ∧ (State.reset.cell k).sys.entry = 31 ∧
    (∀ i, (State.reset.cell k).code i = 0xFFFFFFFFFFFFFFFF) ∧ (∀ j, (State.reset.cell k).slot j = .idle) ∧
    (∀ n, (State.reset.cell k).sem n = ⟨0, false⟩) ∧ (State.reset.cell k).sys.lfsr = 0xA5C30000#32 ^^^ BitVec.ofNat 32 k ∧
    (State.reset.cell k).sys.wd = 0x4000 ∧ (∀ i, ((State.reset.cell k).inEp i).occ = 0 ∧ ((State.reset.cell k).inEp i).en = false ∧
      ((State.reset.cell k).outEp i).ents = [] ∧ ((State.reset.cell k).outEp i).en = false)) ∧
  (∀ y, (State.reset.row y).domState 0 = 1 ∧ (∀ d, d ≠ 0 → (State.reset.row y).domState d = 0) ∧ (State.reset.row y).fq = []) ∧
  State.reset.pwr.pcap = 26000 ∧ (∀ b, State.reset.budget b = 58) ∧ State.reset.frozen = false ∧ State.reset.MemOk

/-- The canonical form of the module's memory (strictly rising addresses, no byte listed that reads as an unlisted one) is kept by every
step, from any state: every write to memory, of a tile, a copy, a spill, a service, the host or a row manager. -/
def Obligations.EveryStepKeepsTheMemoryCanonical : Prop :=
  ∀ (s t : State), s.mem.wf = true → step s = .next t → t.mem.wf = true
end

