-- ==== Sys2Proof/Laws/Store.lean ====
section
/-! SUPPORT. What a store reads after a write, and the canonical form of the memories. -/

namespace Sys2Proof

variable {α : Type}

@[simp] theorem SMap.get_nil (d : α) (k : Nat) : SMap.get d [] k = d := rfl

theorem SMap.get_put (d : α) (m : SMap α) (k j : Nat) (x : α) :
    SMap.get d (SMap.put m k x) j = if k = j then x else SMap.get d m j := by
  induction m with
  | nil => simp [SMap.put, SMap.get]
  | cons e m ih =>
    obtain ⟨i, y⟩ := e
    simp only [SMap.put]
    by_cases h1 : k < i
    · simp [h1, SMap.get]
    · by_cases h2 : i = k
      · subst h2; simp only [SMap.get]; by_cases h : i = j <;> simp [h, SMap.get]
      · simp only [h1, h2, SMap.get, ih, if_false]
        by_cases h3 : i = j
        · have : k ≠ j := fun h => h2 (h3.trans h.symm)
          simp [h3, this]
        · simp [h3]

/-- A write is read back. -/
@[simp] theorem SMap.get_put_same (d : α) (m : SMap α) (k : Nat) (x : α) :
    SMap.get d (SMap.put m k x) k = x := by simp [SMap.get_put]

/-- A write leaves every other key alone. -/
theorem SMap.get_put_ne (d : α) (m : SMap α) {k j : Nat} (x : α) (h : k ≠ j) :
    SMap.get d (SMap.put m k x) j = SMap.get d m j := by simp [SMap.get_put, h]

theorem SMap.get_erase (d : α) (m : SMap α) (k j : Nat) :
    SMap.get d (SMap.erase m k) j = if k = j then d else SMap.get d m j := by
  induction m with
  | nil => simp [SMap.erase, SMap.get]
  | cons e m ih =>
    obtain ⟨i, y⟩ := e
    simp only [SMap.erase]
    by_cases h1 : i = k
    · subst h1
      simp only [if_true, ih, SMap.get]
      by_cases h : i = j <;> simp [h]
    · simp only [h1, SMap.get, ih, if_false]
      by_cases h3 : i = j
      · have : k ≠ j := fun h => h1 (h3.trans h.symm)
        simp [h3, this]
      · simp [h3]

theorem SMap.get_set [DecidableEq α] (d : α) (m : SMap α) (k j : Nat) (x : α) :
    SMap.get d (SMap.set d m k x) j = if k = j then x else SMap.get d m j := by
  unfold SMap.set
  by_cases h : x = d
  · subst h; simp [SMap.get_erase]
  · simp [h, SMap.get_put]

theorem SMap.wfFrom_mono [DecidableEq α] (d : α) (m : SMap α) :
    ∀ {n k : Nat}, k ≤ n → SMap.wfFrom d n m = true → SMap.wfFrom d k m = true := by
  cases m with
  | nil => simp [SMap.wfFrom]
  | cons e m =>
    intro n k hk h
    simp only [SMap.wfFrom, Bool.and_eq_true, decide_eq_true_eq] at h ⊢
    exact ⟨⟨Nat.le_trans hk h.1.1, h.1.2⟩, h.2⟩

theorem SMap.wfFrom_erase [DecidableEq α] (d : α) (m : SMap α) (k : Nat) :
    ∀ {n : Nat}, SMap.wfFrom d n m = true → SMap.wfFrom d n (SMap.erase m k) = true := by
  induction m with
  | nil => simp [SMap.erase]
  | cons e m ih =>
    intro n h
    simp only [SMap.wfFrom, Bool.and_eq_true, decide_eq_true_eq] at h
    simp only [SMap.erase]
    by_cases h1 : e.1 = k
    · simp only [h1, if_true]
      exact ih (SMap.wfFrom_mono d m (Nat.le_succ_of_le h.1.1) h.2)
    · simp only [h1, if_false, SMap.wfFrom, Bool.and_eq_true, decide_eq_true_eq]
      exact ⟨h.1, ih h.2⟩

theorem SMap.wfFrom_put [DecidableEq α] (d : α) (m : SMap α) (k : Nat) (x : α) (hx : x ≠ d) :
    ∀ {n : Nat}, n ≤ k → SMap.wfFrom d n m = true → SMap.wfFrom d n (SMap.put m k x) = true := by
  induction m with
  | nil => intro n hn _; simp [SMap.put, SMap.wfFrom, hx, hn]
  | cons e m ih =>
    intro n hn h
    simp only [SMap.wfFrom, Bool.and_eq_true, decide_eq_true_eq] at h
    simp only [SMap.put]
    by_cases h1 : k < e.1
    · simp only [h1, if_true, SMap.wfFrom, Bool.and_eq_true, decide_eq_true_eq]
      exact ⟨⟨hn, hx⟩, ⟨⟨h1, h.1.2⟩, h.2⟩⟩
    · by_cases h2 : e.1 = k
      · rw [if_neg h1, if_pos h2]
        simp only [SMap.wfFrom, Bool.and_eq_true, decide_eq_true_eq]
        exact ⟨⟨hn, hx⟩, h2 ▸ h.2⟩
      · simp only [h1, h2, if_false, SMap.wfFrom, Bool.and_eq_true, decide_eq_true_eq]
        exact ⟨h.1, ih (by omega) h.2⟩

/-- A write keeps the canonical form. -/
theorem SMap.wf_set [DecidableEq α] (d : α) (m : SMap α) (k : Nat) (x : α) (h : SMap.wf d m = true) :
    SMap.wf d (SMap.set d m k x) = true := by
  unfold SMap.set
  by_cases hx : x = d
  · simp only [hx, if_true]; exact SMap.wfFrom_erase d m k h
  · simp only [hx, if_false]; exact SMap.wfFrom_put d m k x hx (Nat.zero_le k) h

/-! ### Byte memories and marks -/

theorem Memory.byte_setByte (m : Memory) (a j : Nat) (b : Byte) :
    Memory.byte (Memory.setByte m a b) j = if a = j then b else Memory.byte m j :=
  SMap.get_set Memory.unlisted m a j b

theorem Memory.wf_setByte (m : Memory) (a : Nat) (b : Byte) (h : Memory.wf m = true) :
    Memory.wf (Memory.setByte m a b) = true := SMap.wf_set _ m a b h

/-- A store of bytes keeps the canonical form. -/
theorem Memory.wf_write (m : Memory) (n : Nat) : ∀ (a v : Nat), Memory.wf m = true → Memory.wf (Memory.write m a n v) = true := by
  induction n with
  | zero => intro a v h; exact h
  | succ n ih => intro a v h; exact Memory.wf_setByte _ _ _ (ih (a + 1) (v / 256) h)

/-- A store changes no byte outside the bytes it stores to. -/
theorem Memory.byte_write_outside (m : Memory) (n : Nat) :
    ∀ (a v j : Nat), j < a ∨ a + n ≤ j → Memory.byte (Memory.write m a n v) j = Memory.byte m j := by
  induction n with
  | zero => intro a v j _; rfl
  | succ n ih =>
    intro a v j h
    have : a ≠ j := by omega
    simp only [Memory.write, Memory.byte_setByte, this, if_false]
    exact ih (a + 1) (v / 256) j (by omega)

/-- A read after a write of the same bytes gives what was written. -/
theorem Memory.read_write (m : Memory) (n : Nat) :
    ∀ (a v : Nat), Memory.read (Memory.write m a n v) a n = v % 256 ^ n := by
  suffices h : ∀ (a v : Nat) (m' : Memory), (∀ j, a ≤ j → j < a + n → Memory.byte m' j = Memory.byte (Memory.write m a n v) j) →
      Memory.read m' a n = v % 256 ^ n from fun a v => h a v _ (fun _ _ _ => rfl)
  induction n with
  | zero => intro a v m' _; simp [Memory.read, Nat.mod_one]
  | succ n ih =>
    intro a v m' h
    have h0 := h a (Nat.le_refl a) (by omega)
    simp only [Memory.write, Memory.byte_setByte, if_true] at h0
    have h1 := ih (a + 1) (v / 256) m' (fun j hj hj' => by
      have := h j (by omega) (by omega)
      simp only [Memory.write, Memory.byte_setByte] at this
      rw [this, if_neg (by omega)])
    have this : v % 256 % 2 ^ 8 = v % 256 := by omega
    have pow : (256 : Nat) ^ (n + 1) = 256 * 256 ^ n := Nat.mul_comm (256 ^ n) 256
    rw [Memory.read, h0, h1, BitVec.toNat_ofNat, this, pow, Nat.mod_mul]

theorem Marks.has_put (m : Marks) (k j : Nat) (b : Bool) :
    Marks.has (Marks.put m k b) j = if k = j then b else Marks.has m j := SMap.get_set false m k j b

theorem Marks.wf_put (m : Marks) (k : Nat) (b : Bool) (h : SMap.wf false m = true) :
    SMap.wf false (Marks.put m k b) = true := SMap.wf_set false m k b h

theorem Marks.wf_fill (m : Marks) (b : Bool) (n : Nat) :
    ∀ k, SMap.wf false m = true → SMap.wf false (Marks.fill m b k n) = true := by
  induction n with
  | zero => intro k h; exact h
  | succ n ih => intro k h; exact Marks.wf_put _ _ _ (ih (k + 1) h)

theorem Marks.has_fill (m : Marks) (b : Bool) (n : Nat) :
    ∀ k j, Marks.has (Marks.fill m b k n) j = if k ≤ j ∧ j < k + n then b else Marks.has m j := by
  induction n with
  | zero => intro k j; simp only [Marks.fill]; rw [if_neg (by omega)]
  | succ n ih =>
    intro k j
    simp only [Marks.fill, Marks.has_put, ih]
    by_cases h : k = j
    · simp [h]
    · simp only [h, if_false]
      by_cases h2 : k ≤ j ∧ j < k + (n + 1)
      · rw [if_pos h2, if_pos (by omega)]
      · rw [if_neg h2, if_neg (by omega)]

end Sys2Proof
end

