-- ==== Sys2Proof/Laws/State.lean ====
section
/-! SUPPORT. What each update of the state leaves in each field: one lemma for one field and one update, true by
definition. -/

namespace Sys2Proof.Machine

open Sys2Proof

/-! ### Updates of one unit of the module -/
@[simp] theorem State.setCell_now (s : State) (k : Nat) (x : Cell) : (s.setCell k x).now = s.now := rfl
@[simp] theorem State.setCell_stampAt (s : State) (k : Nat) (x : Cell) : (s.setCell k x).stampAt = s.stampAt := rfl
@[simp] theorem State.setCell_cur (s : State) (k : Nat) (x : Cell) : (s.setCell k x).cur = s.cur := rfl
@[simp] theorem State.setCell_sched (s : State) (k : Nat) (x : Cell) : (s.setCell k x).sched = s.sched := rfl
@[simp] theorem State.setCell_fresh (s : State) (k : Nat) (x : Cell) : (s.setCell k x).fresh = s.fresh := rfl
@[simp] theorem State.setCell_frozen (s : State) (k : Nat) (x : Cell) : (s.setCell k x).frozen = s.frozen := rfl
@[simp] theorem State.setCell_modNo (s : State) (k : Nat) (x : Cell) : (s.setCell k x).modNo = s.modNo := rfl
@[simp] theorem State.setCell_cells (s : State) (k : Nat) (x : Cell) : (s.setCell k x).cells = SMap.put s.cells k x := rfl
@[simp] theorem State.setCell_quads (s : State) (k : Nat) (x : Cell) : (s.setCell k x).quads = s.quads := rfl
@[simp] theorem State.setCell_strips (s : State) (k : Nat) (x : Cell) : (s.setCell k x).strips = s.strips := rfl
@[simp] theorem State.setCell_blocks (s : State) (k : Nat) (x : Cell) : (s.setCell k x).blocks = s.blocks := rfl
@[simp] theorem State.setCell_rows (s : State) (k : Nat) (x : Cell) : (s.setCell k x).rows = s.rows := rfl
@[simp] theorem State.setCell_eags (s : State) (k : Nat) (x : Cell) : (s.setCell k x).eags = s.eags := rfl
@[simp] theorem State.setCell_mem (s : State) (k : Nat) (x : Cell) : (s.setCell k x).mem = s.mem := rfl
@[simp] theorem State.setCell_memPoison (s : State) (k : Nat) (x : Cell) : (s.setCell k x).memPoison = s.memPoison := rfl
@[simp] theorem State.setCell_present (s : State) (k : Nat) (x : Cell) : (s.setCell k x).present = s.present := rfl
@[simp] theorem State.setCell_dirty (s : State) (k : Nat) (x : Cell) : (s.setCell k x).dirty = s.dirty := rfl
@[simp] theorem State.setCell_deferred (s : State) (k : Nat) (x : Cell) : (s.setCell k x).deferred = s.deferred := rfl
@[simp] theorem State.setCell_pages (s : State) (k : Nat) (x : Cell) : (s.setCell k x).pages = s.pages := rfl
@[simp] theorem State.setCell_regions (s : State) (k : Nat) (x : Cell) : (s.setCell k x).regions = s.regions := rfl
@[simp] theorem State.setCell_rebuilds (s : State) (k : Nat) (x : Cell) : (s.setCell k x).rebuilds = s.rebuilds := rfl
@[simp] theorem State.setCell_upsets (s : State) (k : Nat) (x : Cell) : (s.setCell k x).upsets = s.upsets := rfl
@[simp] theorem State.setCell_misses (s : State) (k : Nat) (x : Cell) : (s.setCell k x).misses = s.misses := rfl
@[simp] theorem State.setCell_changes (s : State) (k : Nat) (x : Cell) : (s.setCell k x).changes = s.changes := rfl
@[simp] theorem State.setCell_net (s : State) (k : Nat) (x : Cell) : (s.setCell k x).net = s.net := rfl
@[simp] theorem State.setCell_hostq (s : State) (k : Nat) (x : Cell) : (s.setCell k x).hostq = s.hostq := rfl
@[simp] theorem State.setCell_issuers (s : State) (k : Nat) (x : Cell) : (s.setCell k x).issuers = s.issuers := rfl
@[simp] theorem State.setCell_reports (s : State) (k : Nat) (x : Cell) : (s.setCell k x).reports = s.reports := rfl
@[simp] theorem State.setCell_carrier (s : State) (k : Nat) (x : Cell) : (s.setCell k x).carrier = s.carrier := rfl
@[simp] theorem State.setStrip_now (s : State) (k : Nat) (x : Strip) : (s.setStrip k x).now = s.now := rfl
@[simp] theorem State.setStrip_stampAt (s : State) (k : Nat) (x : Strip) : (s.setStrip k x).stampAt = s.stampAt := rfl
@[simp] theorem State.setStrip_cur (s : State) (k : Nat) (x : Strip) : (s.setStrip k x).cur = s.cur := rfl
@[simp] theorem State.setStrip_sched (s : State) (k : Nat) (x : Strip) : (s.setStrip k x).sched = s.sched := rfl
@[simp] theorem State.setStrip_fresh (s : State) (k : Nat) (x : Strip) : (s.setStrip k x).fresh = s.fresh := rfl
@[simp] theorem State.setStrip_frozen (s : State) (k : Nat) (x : Strip) : (s.setStrip k x).frozen = s.frozen := rfl
@[simp] theorem State.setStrip_modNo (s : State) (k : Nat) (x : Strip) : (s.setStrip k x).modNo = s.modNo := rfl
@[simp] theorem State.setStrip_cells (s : State) (k : Nat) (x : Strip) : (s.setStrip k x).cells = s.cells := rfl
@[simp] theorem State.setStrip_quads (s : State) (k : Nat) (x : Strip) : (s.setStrip k x).quads = s.quads := rfl
@[simp] theorem State.setStrip_strips (s : State) (k : Nat) (x : Strip) : (s.setStrip k x).strips = SMap.put s.strips k x := rfl
@[simp] theorem State.setStrip_blocks (s : State) (k : Nat) (x : Strip) : (s.setStrip k x).blocks = s.blocks := rfl
@[simp] theorem State.setStrip_rows (s : State) (k : Nat) (x : Strip) : (s.setStrip k x).rows = s.rows := rfl
@[simp] theorem State.setStrip_eags (s : State) (k : Nat) (x : Strip) : (s.setStrip k x).eags = s.eags := rfl
@[simp] theorem State.setStrip_mem (s : State) (k : Nat) (x : Strip) : (s.setStrip k x).mem = s.mem := rfl
@[simp] theorem State.setStrip_memPoison (s : State) (k : Nat) (x : Strip) : (s.setStrip k x).memPoison = s.memPoison := rfl
@[simp] theorem State.setStrip_present (s : State) (k : Nat) (x : Strip) : (s.setStrip k x).present = s.present := rfl
@[simp] theorem State.setStrip_dirty (s : State) (k : Nat) (x : Strip) : (s.setStrip k x).dirty = s.dirty := rfl
@[simp] theorem State.setStrip_deferred (s : State) (k : Nat) (x : Strip) : (s.setStrip k x).deferred = s.deferred := rfl
@[simp] theorem State.setStrip_pages (s : State) (k : Nat) (x : Strip) : (s.setStrip k x).pages = s.pages := rfl
@[simp] theorem State.setStrip_regions (s : State) (k : Nat) (x : Strip) : (s.setStrip k x).regions = s.regions := rfl
@[simp] theorem State.setStrip_rebuilds (s : State) (k : Nat) (x : Strip) : (s.setStrip k x).rebuilds = s.rebuilds := rfl
@[simp] theorem State.setStrip_upsets (s : State) (k : Nat) (x : Strip) : (s.setStrip k x).upsets = s.upsets := rfl
@[simp] theorem State.setStrip_misses (s : State) (k : Nat) (x : Strip) : (s.setStrip k x).misses = s.misses := rfl
@[simp] theorem State.setStrip_changes (s : State) (k : Nat) (x : Strip) : (s.setStrip k x).changes = s.changes := rfl
@[simp] theorem State.setStrip_net (s : State) (k : Nat) (x : Strip) : (s.setStrip k x).net = s.net := rfl
@[simp] theorem State.setStrip_hostq (s : State) (k : Nat) (x : Strip) : (s.setStrip k x).hostq = s.hostq := rfl
@[simp] theorem State.setStrip_issuers (s : State) (k : Nat) (x : Strip) : (s.setStrip k x).issuers = s.issuers := rfl
@[simp] theorem State.setStrip_reports (s : State) (k : Nat) (x : Strip) : (s.setStrip k x).reports = s.reports := rfl
@[simp] theorem State.setStrip_carrier (s : State) (k : Nat) (x : Strip) : (s.setStrip k x).carrier = s.carrier := rfl
@[simp] theorem State.setQuad_now (s : State) (k : Nat) (x : Quad) : (s.setQuad k x).now = s.now := rfl
@[simp] theorem State.setQuad_stampAt (s : State) (k : Nat) (x : Quad) : (s.setQuad k x).stampAt = s.stampAt := rfl
@[simp] theorem State.setQuad_cur (s : State) (k : Nat) (x : Quad) : (s.setQuad k x).cur = s.cur := rfl
@[simp] theorem State.setQuad_sched (s : State) (k : Nat) (x : Quad) : (s.setQuad k x).sched = s.sched := rfl
@[simp] theorem State.setQuad_fresh (s : State) (k : Nat) (x : Quad) : (s.setQuad k x).fresh = s.fresh := rfl
@[simp] theorem State.setQuad_frozen (s : State) (k : Nat) (x : Quad) : (s.setQuad k x).frozen = s.frozen := rfl
@[simp] theorem State.setQuad_modNo (s : State) (k : Nat) (x : Quad) : (s.setQuad k x).modNo = s.modNo := rfl
@[simp] theorem State.setQuad_cells (s : State) (k : Nat) (x : Quad) : (s.setQuad k x).cells = s.cells := rfl
@[simp] theorem State.setQuad_quads (s : State) (k : Nat) (x : Quad) : (s.setQuad k x).quads = SMap.put s.quads k x := rfl
@[simp] theorem State.setQuad_strips (s : State) (k : Nat) (x : Quad) : (s.setQuad k x).strips = s.strips := rfl
@[simp] theorem State.setQuad_blocks (s : State) (k : Nat) (x : Quad) : (s.setQuad k x).blocks = s.blocks := rfl
@[simp] theorem State.setQuad_rows (s : State) (k : Nat) (x : Quad) : (s.setQuad k x).rows = s.rows := rfl
@[simp] theorem State.setQuad_eags (s : State) (k : Nat) (x : Quad) : (s.setQuad k x).eags = s.eags := rfl
@[simp] theorem State.setQuad_mem (s : State) (k : Nat) (x : Quad) : (s.setQuad k x).mem = s.mem := rfl
@[simp] theorem State.setQuad_memPoison (s : State) (k : Nat) (x : Quad) : (s.setQuad k x).memPoison = s.memPoison := rfl
@[simp] theorem State.setQuad_present (s : State) (k : Nat) (x : Quad) : (s.setQuad k x).present = s.present := rfl
@[simp] theorem State.setQuad_dirty (s : State) (k : Nat) (x : Quad) : (s.setQuad k x).dirty = s.dirty := rfl
@[simp] theorem State.setQuad_deferred (s : State) (k : Nat) (x : Quad) : (s.setQuad k x).deferred = s.deferred := rfl
@[simp] theorem State.setQuad_pages (s : State) (k : Nat) (x : Quad) : (s.setQuad k x).pages = s.pages := rfl
@[simp] theorem State.setQuad_regions (s : State) (k : Nat) (x : Quad) : (s.setQuad k x).regions = s.regions := rfl
@[simp] theorem State.setQuad_rebuilds (s : State) (k : Nat) (x : Quad) : (s.setQuad k x).rebuilds = s.rebuilds := rfl
@[simp] theorem State.setQuad_upsets (s : State) (k : Nat) (x : Quad) : (s.setQuad k x).upsets = s.upsets := rfl
@[simp] theorem State.setQuad_misses (s : State) (k : Nat) (x : Quad) : (s.setQuad k x).misses = s.misses := rfl
@[simp] theorem State.setQuad_changes (s : State) (k : Nat) (x : Quad) : (s.setQuad k x).changes = s.changes := rfl
@[simp] theorem State.setQuad_net (s : State) (k : Nat) (x : Quad) : (s.setQuad k x).net = s.net := rfl
@[simp] theorem State.setQuad_hostq (s : State) (k : Nat) (x : Quad) : (s.setQuad k x).hostq = s.hostq := rfl
@[simp] theorem State.setQuad_issuers (s : State) (k : Nat) (x : Quad) : (s.setQuad k x).issuers = s.issuers := rfl
@[simp] theorem State.setQuad_reports (s : State) (k : Nat) (x : Quad) : (s.setQuad k x).reports = s.reports := rfl
@[simp] theorem State.setQuad_carrier (s : State) (k : Nat) (x : Quad) : (s.setQuad k x).carrier = s.carrier := rfl
@[simp] theorem State.setBlock_now (s : State) (k : Nat) (x : Block) : (s.setBlock k x).now = s.now := rfl
@[simp] theorem State.setBlock_stampAt (s : State) (k : Nat) (x : Block) : (s.setBlock k x).stampAt = s.stampAt := rfl
@[simp] theorem State.setBlock_cur (s : State) (k : Nat) (x : Block) : (s.setBlock k x).cur = s.cur := rfl
@[simp] theorem State.setBlock_sched (s : State) (k : Nat) (x : Block) : (s.setBlock k x).sched = s.sched := rfl
@[simp] theorem State.setBlock_fresh (s : State) (k : Nat) (x : Block) : (s.setBlock k x).fresh = s.fresh := rfl
@[simp] theorem State.setBlock_frozen (s : State) (k : Nat) (x : Block) : (s.setBlock k x).frozen = s.frozen := rfl
@[simp] theorem State.setBlock_modNo (s : State) (k : Nat) (x : Block) : (s.setBlock k x).modNo = s.modNo := rfl
@[simp] theorem State.setBlock_cells (s : State) (k : Nat) (x : Block) : (s.setBlock k x).cells = s.cells := rfl
@[simp] theorem State.setBlock_quads (s : State) (k : Nat) (x : Block) : (s.setBlock k x).quads = s.quads := rfl
@[simp] theorem State.setBlock_strips (s : State) (k : Nat) (x : Block) : (s.setBlock k x).strips = s.strips := rfl
@[simp] theorem State.setBlock_blocks (s : State) (k : Nat) (x : Block) : (s.setBlock k x).blocks = SMap.put s.blocks k x := rfl
@[simp] theorem State.setBlock_rows (s : State) (k : Nat) (x : Block) : (s.setBlock k x).rows = s.rows := rfl
@[simp] theorem State.setBlock_eags (s : State) (k : Nat) (x : Block) : (s.setBlock k x).eags = s.eags := rfl
@[simp] theorem State.setBlock_mem (s : State) (k : Nat) (x : Block) : (s.setBlock k x).mem = s.mem := rfl
@[simp] theorem State.setBlock_memPoison (s : State) (k : Nat) (x : Block) : (s.setBlock k x).memPoison = s.memPoison := rfl
@[simp] theorem State.setBlock_present (s : State) (k : Nat) (x : Block) : (s.setBlock k x).present = s.present := rfl
@[simp] theorem State.setBlock_dirty (s : State) (k : Nat) (x : Block) : (s.setBlock k x).dirty = s.dirty := rfl
@[simp] theorem State.setBlock_deferred (s : State) (k : Nat) (x : Block) : (s.setBlock k x).deferred = s.deferred := rfl
@[simp] theorem State.setBlock_pages (s : State) (k : Nat) (x : Block) : (s.setBlock k x).pages = s.pages := rfl
@[simp] theorem State.setBlock_regions (s : State) (k : Nat) (x : Block) : (s.setBlock k x).regions = s.regions := rfl
@[simp] theorem State.setBlock_rebuilds (s : State) (k : Nat) (x : Block) : (s.setBlock k x).rebuilds = s.rebuilds := rfl
@[simp] theorem State.setBlock_upsets (s : State) (k : Nat) (x : Block) : (s.setBlock k x).upsets = s.upsets := rfl
@[simp] theorem State.setBlock_misses (s : State) (k : Nat) (x : Block) : (s.setBlock k x).misses = s.misses := rfl
@[simp] theorem State.setBlock_changes (s : State) (k : Nat) (x : Block) : (s.setBlock k x).changes = s.changes := rfl
@[simp] theorem State.setBlock_net (s : State) (k : Nat) (x : Block) : (s.setBlock k x).net = s.net := rfl
@[simp] theorem State.setBlock_hostq (s : State) (k : Nat) (x : Block) : (s.setBlock k x).hostq = s.hostq := rfl
@[simp] theorem State.setBlock_issuers (s : State) (k : Nat) (x : Block) : (s.setBlock k x).issuers = s.issuers := rfl
@[simp] theorem State.setBlock_reports (s : State) (k : Nat) (x : Block) : (s.setBlock k x).reports = s.reports := rfl
@[simp] theorem State.setBlock_carrier (s : State) (k : Nat) (x : Block) : (s.setBlock k x).carrier = s.carrier := rfl
@[simp] theorem State.setRow_now (s : State) (k : Nat) (x : Row) : (s.setRow k x).now = s.now := rfl
@[simp] theorem State.setRow_stampAt (s : State) (k : Nat) (x : Row) : (s.setRow k x).stampAt = s.stampAt := rfl
@[simp] theorem State.setRow_cur (s : State) (k : Nat) (x : Row) : (s.setRow k x).cur = s.cur := rfl
@[simp] theorem State.setRow_sched (s : State) (k : Nat) (x : Row) : (s.setRow k x).sched = s.sched := rfl
@[simp] theorem State.setRow_fresh (s : State) (k : Nat) (x : Row) : (s.setRow k x).fresh = s.fresh := rfl
@[simp] theorem State.setRow_frozen (s : State) (k : Nat) (x : Row) : (s.setRow k x).frozen = s.frozen := rfl
@[simp] theorem State.setRow_modNo (s : State) (k : Nat) (x : Row) : (s.setRow k x).modNo = s.modNo := rfl
@[simp] theorem State.setRow_cells (s : State) (k : Nat) (x : Row) : (s.setRow k x).cells = s.cells := rfl
@[simp] theorem State.setRow_quads (s : State) (k : Nat) (x : Row) : (s.setRow k x).quads = s.quads := rfl
@[simp] theorem State.setRow_strips (s : State) (k : Nat) (x : Row) : (s.setRow k x).strips = s.strips := rfl
@[simp] theorem State.setRow_blocks (s : State) (k : Nat) (x : Row) : (s.setRow k x).blocks = s.blocks := rfl
@[simp] theorem State.setRow_rows (s : State) (k : Nat) (x : Row) : (s.setRow k x).rows = SMap.put s.rows k x := rfl
@[simp] theorem State.setRow_eags (s : State) (k : Nat) (x : Row) : (s.setRow k x).eags = s.eags := rfl
@[simp] theorem State.setRow_mem (s : State) (k : Nat) (x : Row) : (s.setRow k x).mem = s.mem := rfl
@[simp] theorem State.setRow_memPoison (s : State) (k : Nat) (x : Row) : (s.setRow k x).memPoison = s.memPoison := rfl
@[simp] theorem State.setRow_present (s : State) (k : Nat) (x : Row) : (s.setRow k x).present = s.present := rfl
@[simp] theorem State.setRow_dirty (s : State) (k : Nat) (x : Row) : (s.setRow k x).dirty = s.dirty := rfl
@[simp] theorem State.setRow_deferred (s : State) (k : Nat) (x : Row) : (s.setRow k x).deferred = s.deferred := rfl
@[simp] theorem State.setRow_pages (s : State) (k : Nat) (x : Row) : (s.setRow k x).pages = s.pages := rfl
@[simp] theorem State.setRow_regions (s : State) (k : Nat) (x : Row) : (s.setRow k x).regions = s.regions := rfl
@[simp] theorem State.setRow_rebuilds (s : State) (k : Nat) (x : Row) : (s.setRow k x).rebuilds = s.rebuilds := rfl
@[simp] theorem State.setRow_upsets (s : State) (k : Nat) (x : Row) : (s.setRow k x).upsets = s.upsets := rfl
@[simp] theorem State.setRow_misses (s : State) (k : Nat) (x : Row) : (s.setRow k x).misses = s.misses := rfl
@[simp] theorem State.setRow_changes (s : State) (k : Nat) (x : Row) : (s.setRow k x).changes = s.changes := rfl
@[simp] theorem State.setRow_net (s : State) (k : Nat) (x : Row) : (s.setRow k x).net = s.net := rfl
@[simp] theorem State.setRow_hostq (s : State) (k : Nat) (x : Row) : (s.setRow k x).hostq = s.hostq := rfl
@[simp] theorem State.setRow_issuers (s : State) (k : Nat) (x : Row) : (s.setRow k x).issuers = s.issuers := rfl
@[simp] theorem State.setRow_reports (s : State) (k : Nat) (x : Row) : (s.setRow k x).reports = s.reports := rfl
@[simp] theorem State.setRow_carrier (s : State) (k : Nat) (x : Row) : (s.setRow k x).carrier = s.carrier := rfl
@[simp] theorem State.setEag_now (s : State) (k : Nat) (x : Eag) : (s.setEag k x).now = s.now := rfl
@[simp] theorem State.setEag_stampAt (s : State) (k : Nat) (x : Eag) : (s.setEag k x).stampAt = s.stampAt := rfl
@[simp] theorem State.setEag_cur (s : State) (k : Nat) (x : Eag) : (s.setEag k x).cur = s.cur := rfl
@[simp] theorem State.setEag_sched (s : State) (k : Nat) (x : Eag) : (s.setEag k x).sched = s.sched := rfl
@[simp] theorem State.setEag_fresh (s : State) (k : Nat) (x : Eag) : (s.setEag k x).fresh = s.fresh := rfl
@[simp] theorem State.setEag_frozen (s : State) (k : Nat) (x : Eag) : (s.setEag k x).frozen = s.frozen := rfl
@[simp] theorem State.setEag_modNo (s : State) (k : Nat) (x : Eag) : (s.setEag k x).modNo = s.modNo := rfl
@[simp] theorem State.setEag_cells (s : State) (k : Nat) (x : Eag) : (s.setEag k x).cells = s.cells := rfl
@[simp] theorem State.setEag_quads (s : State) (k : Nat) (x : Eag) : (s.setEag k x).quads = s.quads := rfl
@[simp] theorem State.setEag_strips (s : State) (k : Nat) (x : Eag) : (s.setEag k x).strips = s.strips := rfl
@[simp] theorem State.setEag_blocks (s : State) (k : Nat) (x : Eag) : (s.setEag k x).blocks = s.blocks := rfl
@[simp] theorem State.setEag_rows (s : State) (k : Nat) (x : Eag) : (s.setEag k x).rows = s.rows := rfl
@[simp] theorem State.setEag_eags (s : State) (k : Nat) (x : Eag) : (s.setEag k x).eags = SMap.put s.eags k x := rfl
@[simp] theorem State.setEag_mem (s : State) (k : Nat) (x : Eag) : (s.setEag k x).mem = s.mem := rfl
@[simp] theorem State.setEag_memPoison (s : State) (k : Nat) (x : Eag) : (s.setEag k x).memPoison = s.memPoison := rfl
@[simp] theorem State.setEag_present (s : State) (k : Nat) (x : Eag) : (s.setEag k x).present = s.present := rfl
@[simp] theorem State.setEag_dirty (s : State) (k : Nat) (x : Eag) : (s.setEag k x).dirty = s.dirty := rfl
@[simp] theorem State.setEag_deferred (s : State) (k : Nat) (x : Eag) : (s.setEag k x).deferred = s.deferred := rfl
@[simp] theorem State.setEag_pages (s : State) (k : Nat) (x : Eag) : (s.setEag k x).pages = s.pages := rfl
@[simp] theorem State.setEag_regions (s : State) (k : Nat) (x : Eag) : (s.setEag k x).regions = s.regions := rfl
@[simp] theorem State.setEag_rebuilds (s : State) (k : Nat) (x : Eag) : (s.setEag k x).rebuilds = s.rebuilds := rfl
@[simp] theorem State.setEag_upsets (s : State) (k : Nat) (x : Eag) : (s.setEag k x).upsets = s.upsets := rfl
@[simp] theorem State.setEag_misses (s : State) (k : Nat) (x : Eag) : (s.setEag k x).misses = s.misses := rfl
@[simp] theorem State.setEag_changes (s : State) (k : Nat) (x : Eag) : (s.setEag k x).changes = s.changes := rfl
@[simp] theorem State.setEag_net (s : State) (k : Nat) (x : Eag) : (s.setEag k x).net = s.net := rfl
@[simp] theorem State.setEag_hostq (s : State) (k : Nat) (x : Eag) : (s.setEag k x).hostq = s.hostq := rfl
@[simp] theorem State.setEag_issuers (s : State) (k : Nat) (x : Eag) : (s.setEag k x).issuers = s.issuers := rfl
@[simp] theorem State.setEag_reports (s : State) (k : Nat) (x : Eag) : (s.setEag k x).reports = s.reports := rfl
@[simp] theorem State.setEag_carrier (s : State) (k : Nat) (x : Eag) : (s.setEag k x).carrier = s.carrier := rfl

/-! ### Reading a unit after an update -/

@[simp] theorem State.cell_setCell (s : State) (k : Nat) (x : Cell) : (s.setCell k x).cell k = x :=
  SMap.get_put_same _ _ _ _
theorem State.cell_setCell_ne (s : State) (x : Cell) {k j : Nat} (h : k ≠ j) : (s.setCell k x).cell j = s.cell j :=
  SMap.get_put_ne _ _ _ h
@[simp] theorem State.cell_setStrip (s : State) (k j : Nat) (x : Strip) : (s.setStrip k x).cell j = s.cell j := rfl
@[simp] theorem State.cell_setQuad (s : State) (k j : Nat) (x : Quad) : (s.setQuad k x).cell j = s.cell j := rfl
@[simp] theorem State.cell_setBlock (s : State) (k j : Nat) (x : Block) : (s.setBlock k x).cell j = s.cell j := rfl
@[simp] theorem State.cell_setRow (s : State) (k j : Nat) (x : Row) : (s.setRow k x).cell j = s.cell j := rfl
@[simp] theorem State.cell_setEag (s : State) (k j : Nat) (x : Eag) : (s.setEag k x).cell j = s.cell j := rfl
@[simp] theorem State.strip_setStrip (s : State) (k : Nat) (x : Strip) : (s.setStrip k x).strip k = x :=
  SMap.get_put_same _ _ _ _
theorem State.strip_setStrip_ne (s : State) (x : Strip) {k j : Nat} (h : k ≠ j) : (s.setStrip k x).strip j = s.strip j :=
  SMap.get_put_ne _ _ _ h
@[simp] theorem State.strip_setCell (s : State) (k j : Nat) (x : Cell) : (s.setCell k x).strip j = s.strip j := rfl
@[simp] theorem State.strip_setQuad (s : State) (k j : Nat) (x : Quad) : (s.setQuad k x).strip j = s.strip j := rfl
@[simp] theorem State.strip_setBlock (s : State) (k j : Nat) (x : Block) : (s.setBlock k x).strip j = s.strip j := rfl
@[simp] theorem State.strip_setRow (s : State) (k j : Nat) (x : Row) : (s.setRow k x).strip j = s.strip j := rfl
@[simp] theorem State.strip_setEag (s : State) (k j : Nat) (x : Eag) : (s.setEag k x).strip j = s.strip j := rfl
@[simp] theorem State.quad_setQuad (s : State) (k : Nat) (x : Quad) : (s.setQuad k x).quad k = x :=
  SMap.get_put_same _ _ _ _
theorem State.quad_setQuad_ne (s : State) (x : Quad) {k j : Nat} (h : k ≠ j) : (s.setQuad k x).quad j = s.quad j :=
  SMap.get_put_ne _ _ _ h
@[simp] theorem State.quad_setCell (s : State) (k j : Nat) (x : Cell) : (s.setCell k x).quad j = s.quad j := rfl
@[simp] theorem State.quad_setStrip (s : State) (k j : Nat) (x : Strip) : (s.setStrip k x).quad j = s.quad j := rfl
@[simp] theorem State.quad_setBlock (s : State) (k j : Nat) (x : Block) : (s.setBlock k x).quad j = s.quad j := rfl
@[simp] theorem State.quad_setRow (s : State) (k j : Nat) (x : Row) : (s.setRow k x).quad j = s.quad j := rfl
@[simp] theorem State.quad_setEag (s : State) (k j : Nat) (x : Eag) : (s.setEag k x).quad j = s.quad j := rfl
@[simp] theorem State.block_setBlock (s : State) (k : Nat) (x : Block) : (s.setBlock k x).block k = x :=
  SMap.get_put_same _ _ _ _
theorem State.block_setBlock_ne (s : State) (x : Block) {k j : Nat} (h : k ≠ j) : (s.setBlock k x).block j = s.block j :=
  SMap.get_put_ne _ _ _ h
@[simp] theorem State.block_setCell (s : State) (k j : Nat) (x : Cell) : (s.setCell k x).block j = s.block j := rfl
@[simp] theorem State.block_setStrip (s : State) (k j : Nat) (x : Strip) : (s.setStrip k x).block j = s.block j := rfl
@[simp] theorem State.block_setQuad (s : State) (k j : Nat) (x : Quad) : (s.setQuad k x).block j = s.block j := rfl
@[simp] theorem State.block_setRow (s : State) (k j : Nat) (x : Row) : (s.setRow k x).block j = s.block j := rfl
@[simp] theorem State.block_setEag (s : State) (k j : Nat) (x : Eag) : (s.setEag k x).block j = s.block j := rfl
@[simp] theorem State.row_setRow (s : State) (k : Nat) (x : Row) : (s.setRow k x).row k = x :=
  SMap.get_put_same _ _ _ _
theorem State.row_setRow_ne (s : State) (x : Row) {k j : Nat} (h : k ≠ j) : (s.setRow k x).row j = s.row j :=
  SMap.get_put_ne _ _ _ h
@[simp] theorem State.row_setCell (s : State) (k j : Nat) (x : Cell) : (s.setCell k x).row j = s.row j := rfl
@[simp] theorem State.row_setStrip (s : State) (k j : Nat) (x : Strip) : (s.setStrip k x).row j = s.row j := rfl
@[simp] theorem State.row_setQuad (s : State) (k j : Nat) (x : Quad) : (s.setQuad k x).row j = s.row j := rfl
@[simp] theorem State.row_setBlock (s : State) (k j : Nat) (x : Block) : (s.setBlock k x).row j = s.row j := rfl
@[simp] theorem State.row_setEag (s : State) (k j : Nat) (x : Eag) : (s.setEag k x).row j = s.row j := rfl
@[simp] theorem State.eag_setEag (s : State) (k : Nat) (x : Eag) : (s.setEag k x).eag k = x :=
  SMap.get_put_same _ _ _ _
theorem State.eag_setEag_ne (s : State) (x : Eag) {k j : Nat} (h : k ≠ j) : (s.setEag k x).eag j = s.eag j :=
  SMap.get_put_ne _ _ _ h
@[simp] theorem State.eag_setCell (s : State) (k j : Nat) (x : Cell) : (s.setCell k x).eag j = s.eag j := rfl
@[simp] theorem State.eag_setStrip (s : State) (k j : Nat) (x : Strip) : (s.setStrip k x).eag j = s.eag j := rfl
@[simp] theorem State.eag_setQuad (s : State) (k j : Nat) (x : Quad) : (s.setQuad k x).eag j = s.eag j := rfl
@[simp] theorem State.eag_setBlock (s : State) (k j : Nat) (x : Block) : (s.setBlock k x).eag j = s.eag j := rfl
@[simp] theorem State.eag_setRow (s : State) (k j : Nat) (x : Row) : (s.setRow k x).eag j = s.eag j := rfl

/-! ### Updates of a cell -/

@[simp] theorem Cell.setSlot_st (c : Cell) (j : Nat) (x : SlotState) : (c.setSlot j x).st = c.st := rfl
@[simp] theorem Cell.setSlot_heldSt (c : Cell) (j : Nat) (x : SlotState) : (c.setSlot j x).heldSt = c.heldSt := rfl
@[simp] theorem Cell.setSlot_pcause (c : Cell) (j : Nat) (x : SlotState) : (c.setSlot j x).pcause = c.pcause := rfl
@[simp] theorem Cell.setSlot_ident (c : Cell) (j : Nat) (x : SlotState) : (c.setSlot j x).ident = c.ident := rfl
@[simp] theorem Cell.setSlot_ha (c : Cell) (j : Nat) (x : SlotState) : (c.setSlot j x).ha = c.ha := rfl
@[simp] theorem Cell.setSlot_hb (c : Cell) (j : Nat) (x : SlotState) : (c.setSlot j x).hb = c.hb := rfl
@[simp] theorem Cell.setSlot_page (c : Cell) (j : Nat) (x : SlotState) : (c.setSlot j x).page = c.page := rfl
@[simp] theorem Cell.setSlot_last (c : Cell) (j : Nat) (x : SlotState) : (c.setSlot j x).last = c.last := rfl
@[simp] theorem Cell.setSlot_runSince (c : Cell) (j : Nat) (x : SlotState) : (c.setSlot j x).runSince = c.runSince := rfl
@[simp] theorem Cell.setSlot_g (c : Cell) (j : Nat) (x : SlotState) : (c.setSlot j x).g = c.g := rfl
@[simp] theorem Cell.setSlot_kept (c : Cell) (j : Nat) (x : SlotState) : (c.setSlot j x).kept = c.kept := rfl
@[simp] theorem Cell.setSlot_pc (c : Cell) (j : Nat) (x : SlotState) : (c.setSlot j x).pc = c.pc := rfl
@[simp] theorem Cell.setSlot_istore (c : Cell) (j : Nat) (x : SlotState) : (c.setSlot j x).istore = c.istore := rfl
@[simp] theorem Cell.setSlot_store (c : Cell) (j : Nat) (x : SlotState) : (c.setSlot j x).store = c.store := rfl
@[simp] theorem Cell.setSlot_storePoison (c : Cell) (j : Nat) (x : SlotState) : (c.setSlot j x).storePoison = c.storePoison := rfl
@[simp] theorem Cell.setSlot_upsets (c : Cell) (j : Nat) (x : SlotState) : (c.setSlot j x).upsets = c.upsets := rfl
@[simp] theorem Cell.setSlot_writes (c : Cell) (j : Nat) (x : SlotState) : (c.setSlot j x).writes = c.writes := rfl
@[simp] theorem Cell.setSlot_priors (c : Cell) (j : Nat) (x : SlotState) : (c.setSlot j x).priors = c.priors := rfl
@[simp] theorem Cell.setSlot_slots (c : Cell) (j : Nat) (x : SlotState) : (c.setSlot j x).slots = SMap.put c.slots j x := rfl
@[simp] theorem Cell.setSlot_faults (c : Cell) (j : Nat) (x : SlotState) : (c.setSlot j x).faults = c.faults := rfl
@[simp] theorem Cell.setSlot_heldFault (c : Cell) (j : Nat) (x : SlotState) : (c.setSlot j x).heldFault = c.heldFault := rfl
@[simp] theorem Cell.setSlot_sys (c : Cell) (j : Nat) (x : SlotState) : (c.setSlot j x).sys = c.sys := rfl
@[simp] theorem Cell.setSlot_fired (c : Cell) (j : Nat) (x : SlotState) : (c.setSlot j x).fired = c.fired := rfl
@[simp] theorem Cell.setSlot_arrivals (c : Cell) (j : Nat) (x : SlotState) : (c.setSlot j x).arrivals = c.arrivals := rfl
@[simp] theorem Cell.setSlot_arrLost (c : Cell) (j : Nat) (x : SlotState) : (c.setSlot j x).arrLost = c.arrLost := rfl
@[simp] theorem Cell.setSlot_busy (c : Cell) (j : Nat) (x : SlotState) : (c.setSlot j x).busy = c.busy := rfl
@[simp] theorem Cell.setSlot_iseq (c : Cell) (j : Nat) (x : SlotState) : (c.setSlot j x).iseq = c.iseq := rfl
@[simp] theorem Cell.setSlot_readyAt (c : Cell) (j : Nat) (x : SlotState) : (c.setSlot j x).readyAt = c.readyAt := rfl
@[simp] theorem Cell.setSlot_startAt (c : Cell) (j : Nat) (x : SlotState) : (c.setSlot j x).startAt = c.startAt := rfl
@[simp] theorem Cell.setSlot_wait (c : Cell) (j : Nat) (x : SlotState) : (c.setSlot j x).wait = c.wait := rfl
@[simp] theorem Cell.setSlot_sleepAt (c : Cell) (j : Nat) (x : SlotState) : (c.setSlot j x).sleepAt = c.sleepAt := rfl
@[simp] theorem Cell.setSlot_waitAt (c : Cell) (j : Nat) (x : SlotState) : (c.setSlot j x).waitAt = c.waitAt := rfl
@[simp] theorem Cell.setSlot_wdSent (c : Cell) (j : Nat) (x : SlotState) : (c.setSlot j x).wdSent = c.wdSent := rfl
@[simp] theorem Cell.setSlot_step (c : Cell) (j : Nat) (x : SlotState) : (c.setSlot j x).step = c.step := rfl
@[simp] theorem Cell.setSlot_bpSkip (c : Cell) (j : Nat) (x : SlotState) : (c.setSlot j x).bpSkip = c.bpSkip := rfl
@[simp] theorem Cell.setSlot_rmParkReq (c : Cell) (j : Nat) (x : SlotState) : (c.setSlot j x).rmParkReq = c.rmParkReq := rfl
@[simp] theorem Cell.setSlot_abortReq (c : Cell) (j : Nat) (x : SlotState) : (c.setSlot j x).abortReq = c.abortReq := rfl
@[simp] theorem Cell.setSlot_parkWait (c : Cell) (j : Nat) (x : SlotState) : (c.setSlot j x).parkWait = c.parkWait := rfl
@[simp] theorem Cell.setSlot_bind (c : Cell) (j : Nat) (x : SlotState) : (c.setSlot j x).bind = c.bind := rfl
@[simp] theorem Cell.setSlot_ins (c : Cell) (j : Nat) (x : SlotState) : (c.setSlot j x).ins = c.ins := rfl
@[simp] theorem Cell.setSlot_outs (c : Cell) (j : Nat) (x : SlotState) : (c.setSlot j x).outs = c.outs := rfl
@[simp] theorem Cell.setSlot_callq (c : Cell) (j : Nat) (x : SlotState) : (c.setSlot j x).callq = c.callq := rfl
@[simp] theorem Cell.setSlot_phaseq (c : Cell) (j : Nat) (x : SlotState) : (c.setSlot j x).phaseq = c.phaseq := rfl
@[simp] theorem Cell.setSlot_phaseOut (c : Cell) (j : Nat) (x : SlotState) : (c.setSlot j x).phaseOut = c.phaseOut := rfl
@[simp] theorem Cell.setSlot_phaseSent (c : Cell) (j : Nat) (x : SlotState) : (c.setSlot j x).phaseSent = c.phaseSent := rfl
@[simp] theorem Cell.setSlot_acks (c : Cell) (j : Nat) (x : SlotState) : (c.setSlot j x).acks = c.acks := rfl
@[simp] theorem Cell.setSlot_chain (c : Cell) (j : Nat) (x : SlotState) : (c.setSlot j x).chain = c.chain := rfl
@[simp] theorem Cell.setSlot_flushes (c : Cell) (j : Nat) (x : SlotState) : (c.setSlot j x).flushes = c.flushes := rfl
@[simp] theorem Cell.setSlot_rewinds (c : Cell) (j : Nat) (x : SlotState) : (c.setSlot j x).rewinds = c.rewinds := rfl
@[simp] theorem Cell.setSlot_qreq (c : Cell) (j : Nat) (x : SlotState) : (c.setSlot j x).qreq = c.qreq := rfl
@[simp] theorem Cell.setSlot_qcut (c : Cell) (j : Nat) (x : SlotState) : (c.setSlot j x).qcut = c.qcut := rfl
@[simp] theorem Cell.setSlot_phaseD (c : Cell) (j : Nat) (x : SlotState) : (c.setSlot j x).phaseD = c.phaseD := rfl
@[simp] theorem Cell.setSlot_borrows (c : Cell) (j : Nat) (x : SlotState) : (c.setSlot j x).borrows = c.borrows := rfl
@[simp] theorem Cell.setSlot_phaseEnd (c : Cell) (j : Nat) (x : SlotState) : (c.setSlot j x).phaseEnd = c.phaseEnd := rfl
@[simp] theorem Cell.setSlot_sems (c : Cell) (j : Nat) (x : SlotState) : (c.setSlot j x).sems = c.sems := rfl
@[simp] theorem Cell.setSlot_semInit (c : Cell) (j : Nat) (x : SlotState) : (c.setSlot j x).semInit = c.semInit := rfl
@[simp] theorem Cell.setSlot_eagh (c : Cell) (j : Nat) (x : SlotState) : (c.setSlot j x).eagh = c.eagh := rfl
@[simp] theorem Cell.setSlot_eagRun (c : Cell) (j : Nat) (x : SlotState) : (c.setSlot j x).eagRun = c.eagRun := rfl
@[simp] theorem Cell.setSlot_copies (c : Cell) (j : Nat) (x : SlotState) : (c.setSlot j x).copies = c.copies := rfl
@[simp] theorem Cell.setSlot_eagReads (c : Cell) (j : Nat) (x : SlotState) : (c.setSlot j x).eagReads = c.eagReads := rfl
@[simp] theorem Cell.setSlot_accs (c : Cell) (j : Nat) (x : SlotState) : (c.setSlot j x).accs = c.accs := rfl
@[simp] theorem Cell.setSlot_tlb (c : Cell) (j : Nat) (x : SlotState) : (c.setSlot j x).tlb = c.tlb := rfl
@[simp] theorem Cell.setSlot_missing (c : Cell) (j : Nat) (x : SlotState) : (c.setSlot j x).missing = c.missing := rfl
@[simp] theorem Cell.setSlot_refused (c : Cell) (j : Nat) (x : SlotState) : (c.setSlot j x).refused = c.refused := rfl
@[simp] theorem Cell.setSlot_pendingReads (c : Cell) (j : Nat) (x : SlotState) : (c.setSlot j x).pendingReads = c.pendingReads := rfl
@[simp] theorem Cell.setSlot_savedCopies (c : Cell) (j : Nat) (x : SlotState) : (c.setSlot j x).savedCopies = c.savedCopies := rfl
@[simp] theorem Cell.setSlot_calls (c : Cell) (j : Nat) (x : SlotState) : (c.setSlot j x).calls = c.calls := rfl
@[simp] theorem Cell.setSlot_ptests (c : Cell) (j : Nat) (x : SlotState) : (c.setSlot j x).ptests = c.ptests := rfl
@[simp] theorem Cell.setSlot_wdog (c : Cell) (j : Nat) (x : SlotState) : (c.setSlot j x).wdog = c.wdog := rfl
@[simp] theorem Cell.setSlot_rplReg (c : Cell) (j : Nat) (x : SlotState) : (c.setSlot j x).rplReg = c.rplReg := rfl
@[simp] theorem Cell.setSlot_rpl (c : Cell) (j : Nat) (x : SlotState) : (c.setSlot j x).rpl = c.rpl := rfl
@[simp] theorem Cell.setSlot_replays (c : Cell) (j : Nat) (x : SlotState) : (c.setSlot j x).replays = c.replays := rfl
@[simp] theorem Cell.setSlot_nonReplay (c : Cell) (j : Nat) (x : SlotState) : (c.setSlot j x).nonReplay = c.nonReplay := rfl
@[simp] theorem Cell.setSlot_sinkPending (c : Cell) (j : Nat) (x : SlotState) : (c.setSlot j x).sinkPending = c.sinkPending := rfl
@[simp] theorem Cell.setSlot_ckpt (c : Cell) (j : Nat) (x : SlotState) : (c.setSlot j x).ckpt = c.ckpt := rfl
@[simp] theorem Cell.setSlot_lanes (c : Cell) (j : Nat) (x : SlotState) : (c.setSlot j x).lanes = c.lanes := rfl
@[simp] theorem Cell.setSlot_laneTag (c : Cell) (j : Nat) (x : SlotState) : (c.setSlot j x).laneTag = c.laneTag := rfl
@[simp] theorem Cell.setSlot_vec (c : Cell) (j : Nat) (x : SlotState) : (c.setSlot j x).vec = c.vec := rfl
@[simp] theorem Cell.setSlot_mat (c : Cell) (j : Nat) (x : SlotState) : (c.setSlot j x).mat = c.mat := rfl
@[simp] theorem Cell.setSlot_agents (c : Cell) (j : Nat) (x : SlotState) : (c.setSlot j x).agents = c.agents := rfl
@[simp] theorem Cell.setSlot_dbg (c : Cell) (j : Nat) (x : SlotState) : (c.setSlot j x).dbg = c.dbg := rfl
@[simp] theorem Cell.setSem_st (c : Cell) (n : Nat) (x : Sem) : (c.setSem n x).st = c.st := rfl
@[simp] theorem Cell.setSem_heldSt (c : Cell) (n : Nat) (x : Sem) : (c.setSem n x).heldSt = c.heldSt := rfl
@[simp] theorem Cell.setSem_pcause (c : Cell) (n : Nat) (x : Sem) : (c.setSem n x).pcause = c.pcause := rfl
@[simp] theorem Cell.setSem_ident (c : Cell) (n : Nat) (x : Sem) : (c.setSem n x).ident = c.ident := rfl
@[simp] theorem Cell.setSem_ha (c : Cell) (n : Nat) (x : Sem) : (c.setSem n x).ha = c.ha := rfl
@[simp] theorem Cell.setSem_hb (c : Cell) (n : Nat) (x : Sem) : (c.setSem n x).hb = c.hb := rfl
@[simp] theorem Cell.setSem_page (c : Cell) (n : Nat) (x : Sem) : (c.setSem n x).page = c.page := rfl
@[simp] theorem Cell.setSem_last (c : Cell) (n : Nat) (x : Sem) : (c.setSem n x).last = c.last := rfl
@[simp] theorem Cell.setSem_runSince (c : Cell) (n : Nat) (x : Sem) : (c.setSem n x).runSince = c.runSince := rfl
@[simp] theorem Cell.setSem_g (c : Cell) (n : Nat) (x : Sem) : (c.setSem n x).g = c.g := rfl
@[simp] theorem Cell.setSem_kept (c : Cell) (n : Nat) (x : Sem) : (c.setSem n x).kept = c.kept := rfl
@[simp] theorem Cell.setSem_pc (c : Cell) (n : Nat) (x : Sem) : (c.setSem n x).pc = c.pc := rfl
@[simp] theorem Cell.setSem_istore (c : Cell) (n : Nat) (x : Sem) : (c.setSem n x).istore = c.istore := rfl
@[simp] theorem Cell.setSem_store (c : Cell) (n : Nat) (x : Sem) : (c.setSem n x).store = c.store := rfl
@[simp] theorem Cell.setSem_storePoison (c : Cell) (n : Nat) (x : Sem) : (c.setSem n x).storePoison = c.storePoison := rfl
@[simp] theorem Cell.setSem_upsets (c : Cell) (n : Nat) (x : Sem) : (c.setSem n x).upsets = c.upsets := rfl
@[simp] theorem Cell.setSem_writes (c : Cell) (n : Nat) (x : Sem) : (c.setSem n x).writes = c.writes := rfl
@[simp] theorem Cell.setSem_priors (c : Cell) (n : Nat) (x : Sem) : (c.setSem n x).priors = c.priors := rfl
@[simp] theorem Cell.setSem_slots (c : Cell) (n : Nat) (x : Sem) : (c.setSem n x).slots = c.slots := rfl
@[simp] theorem Cell.setSem_faults (c : Cell) (n : Nat) (x : Sem) : (c.setSem n x).faults = c.faults := rfl
@[simp] theorem Cell.setSem_heldFault (c : Cell) (n : Nat) (x : Sem) : (c.setSem n x).heldFault = c.heldFault := rfl
@[simp] theorem Cell.setSem_sys (c : Cell) (n : Nat) (x : Sem) : (c.setSem n x).sys = c.sys := rfl
@[simp] theorem Cell.setSem_fired (c : Cell) (n : Nat) (x : Sem) : (c.setSem n x).fired = c.fired := rfl
@[simp] theorem Cell.setSem_arrivals (c : Cell) (n : Nat) (x : Sem) : (c.setSem n x).arrivals = c.arrivals := rfl
@[simp] theorem Cell.setSem_arrLost (c : Cell) (n : Nat) (x : Sem) : (c.setSem n x).arrLost = c.arrLost := rfl
@[simp] theorem Cell.setSem_busy (c : Cell) (n : Nat) (x : Sem) : (c.setSem n x).busy = c.busy := rfl
@[simp] theorem Cell.setSem_iseq (c : Cell) (n : Nat) (x : Sem) : (c.setSem n x).iseq = c.iseq := rfl
@[simp] theorem Cell.setSem_readyAt (c : Cell) (n : Nat) (x : Sem) : (c.setSem n x).readyAt = c.readyAt := rfl
@[simp] theorem Cell.setSem_startAt (c : Cell) (n : Nat) (x : Sem) : (c.setSem n x).startAt = c.startAt := rfl
@[simp] theorem Cell.setSem_wait (c : Cell) (n : Nat) (x : Sem) : (c.setSem n x).wait = c.wait := rfl
@[simp] theorem Cell.setSem_sleepAt (c : Cell) (n : Nat) (x : Sem) : (c.setSem n x).sleepAt = c.sleepAt := rfl
@[simp] theorem Cell.setSem_waitAt (c : Cell) (n : Nat) (x : Sem) : (c.setSem n x).waitAt = c.waitAt := rfl
@[simp] theorem Cell.setSem_wdSent (c : Cell) (n : Nat) (x : Sem) : (c.setSem n x).wdSent = c.wdSent := rfl
@[simp] theorem Cell.setSem_step (c : Cell) (n : Nat) (x : Sem) : (c.setSem n x).step = c.step := rfl
@[simp] theorem Cell.setSem_bpSkip (c : Cell) (n : Nat) (x : Sem) : (c.setSem n x).bpSkip = c.bpSkip := rfl
@[simp] theorem Cell.setSem_rmParkReq (c : Cell) (n : Nat) (x : Sem) : (c.setSem n x).rmParkReq = c.rmParkReq := rfl
@[simp] theorem Cell.setSem_abortReq (c : Cell) (n : Nat) (x : Sem) : (c.setSem n x).abortReq = c.abortReq := rfl
@[simp] theorem Cell.setSem_parkWait (c : Cell) (n : Nat) (x : Sem) : (c.setSem n x).parkWait = c.parkWait := rfl
@[simp] theorem Cell.setSem_bind (c : Cell) (n : Nat) (x : Sem) : (c.setSem n x).bind = c.bind := rfl
@[simp] theorem Cell.setSem_ins (c : Cell) (n : Nat) (x : Sem) : (c.setSem n x).ins = c.ins := rfl
@[simp] theorem Cell.setSem_outs (c : Cell) (n : Nat) (x : Sem) : (c.setSem n x).outs = c.outs := rfl
@[simp] theorem Cell.setSem_callq (c : Cell) (n : Nat) (x : Sem) : (c.setSem n x).callq = c.callq := rfl
@[simp] theorem Cell.setSem_phaseq (c : Cell) (n : Nat) (x : Sem) : (c.setSem n x).phaseq = c.phaseq := rfl
@[simp] theorem Cell.setSem_phaseOut (c : Cell) (n : Nat) (x : Sem) : (c.setSem n x).phaseOut = c.phaseOut := rfl
@[simp] theorem Cell.setSem_phaseSent (c : Cell) (n : Nat) (x : Sem) : (c.setSem n x).phaseSent = c.phaseSent := rfl
@[simp] theorem Cell.setSem_acks (c : Cell) (n : Nat) (x : Sem) : (c.setSem n x).acks = c.acks := rfl
@[simp] theorem Cell.setSem_chain (c : Cell) (n : Nat) (x : Sem) : (c.setSem n x).chain = c.chain := rfl
@[simp] theorem Cell.setSem_flushes (c : Cell) (n : Nat) (x : Sem) : (c.setSem n x).flushes = c.flushes := rfl
@[simp] theorem Cell.setSem_rewinds (c : Cell) (n : Nat) (x : Sem) : (c.setSem n x).rewinds = c.rewinds := rfl
@[simp] theorem Cell.setSem_qreq (c : Cell) (n : Nat) (x : Sem) : (c.setSem n x).qreq = c.qreq := rfl
@[simp] theorem Cell.setSem_qcut (c : Cell) (n : Nat) (x : Sem) : (c.setSem n x).qcut = c.qcut := rfl
@[simp] theorem Cell.setSem_phaseD (c : Cell) (n : Nat) (x : Sem) : (c.setSem n x).phaseD = c.phaseD := rfl
@[simp] theorem Cell.setSem_borrows (c : Cell) (n : Nat) (x : Sem) : (c.setSem n x).borrows = c.borrows := rfl
@[simp] theorem Cell.setSem_phaseEnd (c : Cell) (n : Nat) (x : Sem) : (c.setSem n x).phaseEnd = c.phaseEnd := rfl
@[simp] theorem Cell.setSem_sems (c : Cell) (n : Nat) (x : Sem) : (c.setSem n x).sems = SMap.put c.sems n x := rfl
@[simp] theorem Cell.setSem_semInit (c : Cell) (n : Nat) (x : Sem) : (c.setSem n x).semInit = c.semInit := rfl
@[simp] theorem Cell.setSem_eagh (c : Cell) (n : Nat) (x : Sem) : (c.setSem n x).eagh = c.eagh := rfl
@[simp] theorem Cell.setSem_eagRun (c : Cell) (n : Nat) (x : Sem) : (c.setSem n x).eagRun = c.eagRun := rfl
@[simp] theorem Cell.setSem_copies (c : Cell) (n : Nat) (x : Sem) : (c.setSem n x).copies = c.copies := rfl
@[simp] theorem Cell.setSem_eagReads (c : Cell) (n : Nat) (x : Sem) : (c.setSem n x).eagReads = c.eagReads := rfl
@[simp] theorem Cell.setSem_accs (c : Cell) (n : Nat) (x : Sem) : (c.setSem n x).accs = c.accs := rfl
@[simp] theorem Cell.setSem_tlb (c : Cell) (n : Nat) (x : Sem) : (c.setSem n x).tlb = c.tlb := rfl
@[simp] theorem Cell.setSem_missing (c : Cell) (n : Nat) (x : Sem) : (c.setSem n x).missing = c.missing := rfl
@[simp] theorem Cell.setSem_refused (c : Cell) (n : Nat) (x : Sem) : (c.setSem n x).refused = c.refused := rfl
@[simp] theorem Cell.setSem_pendingReads (c : Cell) (n : Nat) (x : Sem) : (c.setSem n x).pendingReads = c.pendingReads := rfl
@[simp] theorem Cell.setSem_savedCopies (c : Cell) (n : Nat) (x : Sem) : (c.setSem n x).savedCopies = c.savedCopies := rfl
@[simp] theorem Cell.setSem_calls (c : Cell) (n : Nat) (x : Sem) : (c.setSem n x).calls = c.calls := rfl
@[simp] theorem Cell.setSem_ptests (c : Cell) (n : Nat) (x : Sem) : (c.setSem n x).ptests = c.ptests := rfl
@[simp] theorem Cell.setSem_wdog (c : Cell) (n : Nat) (x : Sem) : (c.setSem n x).wdog = c.wdog := rfl
@[simp] theorem Cell.setSem_rplReg (c : Cell) (n : Nat) (x : Sem) : (c.setSem n x).rplReg = c.rplReg := rfl
@[simp] theorem Cell.setSem_rpl (c : Cell) (n : Nat) (x : Sem) : (c.setSem n x).rpl = c.rpl := rfl
@[simp] theorem Cell.setSem_replays (c : Cell) (n : Nat) (x : Sem) : (c.setSem n x).replays = c.replays := rfl
@[simp] theorem Cell.setSem_nonReplay (c : Cell) (n : Nat) (x : Sem) : (c.setSem n x).nonReplay = c.nonReplay := rfl
@[simp] theorem Cell.setSem_sinkPending (c : Cell) (n : Nat) (x : Sem) : (c.setSem n x).sinkPending = c.sinkPending := rfl
@[simp] theorem Cell.setSem_ckpt (c : Cell) (n : Nat) (x : Sem) : (c.setSem n x).ckpt = c.ckpt := rfl
@[simp] theorem Cell.setSem_lanes (c : Cell) (n : Nat) (x : Sem) : (c.setSem n x).lanes = c.lanes := rfl
@[simp] theorem Cell.setSem_laneTag (c : Cell) (n : Nat) (x : Sem) : (c.setSem n x).laneTag = c.laneTag := rfl
@[simp] theorem Cell.setSem_vec (c : Cell) (n : Nat) (x : Sem) : (c.setSem n x).vec = c.vec := rfl
@[simp] theorem Cell.setSem_mat (c : Cell) (n : Nat) (x : Sem) : (c.setSem n x).mat = c.mat := rfl
@[simp] theorem Cell.setSem_agents (c : Cell) (n : Nat) (x : Sem) : (c.setSem n x).agents = c.agents := rfl
@[simp] theorem Cell.setSem_dbg (c : Cell) (n : Nat) (x : Sem) : (c.setSem n x).dbg = c.dbg := rfl
@[simp] theorem Cell.setIn_st (c : Cell) (i : Nat) (x : InEp) : (c.setIn i x).st = c.st := rfl
@[simp] theorem Cell.setIn_heldSt (c : Cell) (i : Nat) (x : InEp) : (c.setIn i x).heldSt = c.heldSt := rfl
@[simp] theorem Cell.setIn_pcause (c : Cell) (i : Nat) (x : InEp) : (c.setIn i x).pcause = c.pcause := rfl
@[simp] theorem Cell.setIn_ident (c : Cell) (i : Nat) (x : InEp) : (c.setIn i x).ident = c.ident := rfl
@[simp] theorem Cell.setIn_ha (c : Cell) (i : Nat) (x : InEp) : (c.setIn i x).ha = c.ha := rfl
@[simp] theorem Cell.setIn_hb (c : Cell) (i : Nat) (x : InEp) : (c.setIn i x).hb = c.hb := rfl
@[simp] theorem Cell.setIn_page (c : Cell) (i : Nat) (x : InEp) : (c.setIn i x).page = c.page := rfl
@[simp] theorem Cell.setIn_last (c : Cell) (i : Nat) (x : InEp) : (c.setIn i x).last = c.last := rfl
@[simp] theorem Cell.setIn_runSince (c : Cell) (i : Nat) (x : InEp) : (c.setIn i x).runSince = c.runSince := rfl
@[simp] theorem Cell.setIn_g (c : Cell) (i : Nat) (x : InEp) : (c.setIn i x).g = c.g := rfl
@[simp] theorem Cell.setIn_kept (c : Cell) (i : Nat) (x : InEp) : (c.setIn i x).kept = c.kept := rfl
@[simp] theorem Cell.setIn_pc (c : Cell) (i : Nat) (x : InEp) : (c.setIn i x).pc = c.pc := rfl
@[simp] theorem Cell.setIn_istore (c : Cell) (i : Nat) (x : InEp) : (c.setIn i x).istore = c.istore := rfl
@[simp] theorem Cell.setIn_store (c : Cell) (i : Nat) (x : InEp) : (c.setIn i x).store = c.store := rfl
@[simp] theorem Cell.setIn_storePoison (c : Cell) (i : Nat) (x : InEp) : (c.setIn i x).storePoison = c.storePoison := rfl
@[simp] theorem Cell.setIn_upsets (c : Cell) (i : Nat) (x : InEp) : (c.setIn i x).upsets = c.upsets := rfl
@[simp] theorem Cell.setIn_writes (c : Cell) (i : Nat) (x : InEp) : (c.setIn i x).writes = c.writes := rfl
@[simp] theorem Cell.setIn_priors (c : Cell) (i : Nat) (x : InEp) : (c.setIn i x).priors = c.priors := rfl
@[simp] theorem Cell.setIn_slots (c : Cell) (i : Nat) (x : InEp) : (c.setIn i x).slots = c.slots := rfl
@[simp] theorem Cell.setIn_faults (c : Cell) (i : Nat) (x : InEp) : (c.setIn i x).faults = c.faults := rfl
@[simp] theorem Cell.setIn_heldFault (c : Cell) (i : Nat) (x : InEp) : (c.setIn i x).heldFault = c.heldFault := rfl
@[simp] theorem Cell.setIn_sys (c : Cell) (i : Nat) (x : InEp) : (c.setIn i x).sys = c.sys := rfl
@[simp] theorem Cell.setIn_fired (c : Cell) (i : Nat) (x : InEp) : (c.setIn i x).fired = c.fired := rfl
@[simp] theorem Cell.setIn_arrivals (c : Cell) (i : Nat) (x : InEp) : (c.setIn i x).arrivals = c.arrivals := rfl
@[simp] theorem Cell.setIn_arrLost (c : Cell) (i : Nat) (x : InEp) : (c.setIn i x).arrLost = c.arrLost := rfl
@[simp] theorem Cell.setIn_busy (c : Cell) (i : Nat) (x : InEp) : (c.setIn i x).busy = c.busy := rfl
@[simp] theorem Cell.setIn_iseq (c : Cell) (i : Nat) (x : InEp) : (c.setIn i x).iseq = c.iseq := rfl
@[simp] theorem Cell.setIn_readyAt (c : Cell) (i : Nat) (x : InEp) : (c.setIn i x).readyAt = c.readyAt := rfl
@[simp] theorem Cell.setIn_startAt (c : Cell) (i : Nat) (x : InEp) : (c.setIn i x).startAt = c.startAt := rfl
@[simp] theorem Cell.setIn_wait (c : Cell) (i : Nat) (x : InEp) : (c.setIn i x).wait = c.wait := rfl
@[simp] theorem Cell.setIn_sleepAt (c : Cell) (i : Nat) (x : InEp) : (c.setIn i x).sleepAt = c.sleepAt := rfl
@[simp] theorem Cell.setIn_waitAt (c : Cell) (i : Nat) (x : InEp) : (c.setIn i x).waitAt = c.waitAt := rfl
@[simp] theorem Cell.setIn_wdSent (c : Cell) (i : Nat) (x : InEp) : (c.setIn i x).wdSent = c.wdSent := rfl
@[simp] theorem Cell.setIn_step (c : Cell) (i : Nat) (x : InEp) : (c.setIn i x).step = c.step := rfl
@[simp] theorem Cell.setIn_bpSkip (c : Cell) (i : Nat) (x : InEp) : (c.setIn i x).bpSkip = c.bpSkip := rfl
@[simp] theorem Cell.setIn_rmParkReq (c : Cell) (i : Nat) (x : InEp) : (c.setIn i x).rmParkReq = c.rmParkReq := rfl
@[simp] theorem Cell.setIn_abortReq (c : Cell) (i : Nat) (x : InEp) : (c.setIn i x).abortReq = c.abortReq := rfl
@[simp] theorem Cell.setIn_parkWait (c : Cell) (i : Nat) (x : InEp) : (c.setIn i x).parkWait = c.parkWait := rfl
@[simp] theorem Cell.setIn_bind (c : Cell) (i : Nat) (x : InEp) : (c.setIn i x).bind = c.bind := rfl
@[simp] theorem Cell.setIn_ins (c : Cell) (i : Nat) (x : InEp) : (c.setIn i x).ins = SMap.put c.ins i x := rfl
@[simp] theorem Cell.setIn_outs (c : Cell) (i : Nat) (x : InEp) : (c.setIn i x).outs = c.outs := rfl
@[simp] theorem Cell.setIn_callq (c : Cell) (i : Nat) (x : InEp) : (c.setIn i x).callq = c.callq := rfl
@[simp] theorem Cell.setIn_phaseq (c : Cell) (i : Nat) (x : InEp) : (c.setIn i x).phaseq = c.phaseq := rfl
@[simp] theorem Cell.setIn_phaseOut (c : Cell) (i : Nat) (x : InEp) : (c.setIn i x).phaseOut = c.phaseOut := rfl
@[simp] theorem Cell.setIn_phaseSent (c : Cell) (i : Nat) (x : InEp) : (c.setIn i x).phaseSent = c.phaseSent := rfl
@[simp] theorem Cell.setIn_acks (c : Cell) (i : Nat) (x : InEp) : (c.setIn i x).acks = c.acks := rfl
@[simp] theorem Cell.setIn_chain (c : Cell) (i : Nat) (x : InEp) : (c.setIn i x).chain = c.chain := rfl
@[simp] theorem Cell.setIn_flushes (c : Cell) (i : Nat) (x : InEp) : (c.setIn i x).flushes = c.flushes := rfl
@[simp] theorem Cell.setIn_rewinds (c : Cell) (i : Nat) (x : InEp) : (c.setIn i x).rewinds = c.rewinds := rfl
@[simp] theorem Cell.setIn_qreq (c : Cell) (i : Nat) (x : InEp) : (c.setIn i x).qreq = c.qreq := rfl
@[simp] theorem Cell.setIn_qcut (c : Cell) (i : Nat) (x : InEp) : (c.setIn i x).qcut = c.qcut := rfl
@[simp] theorem Cell.setIn_phaseD (c : Cell) (i : Nat) (x : InEp) : (c.setIn i x).phaseD = c.phaseD := rfl
@[simp] theorem Cell.setIn_borrows (c : Cell) (i : Nat) (x : InEp) : (c.setIn i x).borrows = c.borrows := rfl
@[simp] theorem Cell.setIn_phaseEnd (c : Cell) (i : Nat) (x : InEp) : (c.setIn i x).phaseEnd = c.phaseEnd := rfl
@[simp] theorem Cell.setIn_sems (c : Cell) (i : Nat) (x : InEp) : (c.setIn i x).sems = c.sems := rfl
@[simp] theorem Cell.setIn_semInit (c : Cell) (i : Nat) (x : InEp) : (c.setIn i x).semInit = c.semInit := rfl
@[simp] theorem Cell.setIn_eagh (c : Cell) (i : Nat) (x : InEp) : (c.setIn i x).eagh = c.eagh := rfl
@[simp] theorem Cell.setIn_eagRun (c : Cell) (i : Nat) (x : InEp) : (c.setIn i x).eagRun = c.eagRun := rfl
@[simp] theorem Cell.setIn_copies (c : Cell) (i : Nat) (x : InEp) : (c.setIn i x).copies = c.copies := rfl
@[simp] theorem Cell.setIn_eagReads (c : Cell) (i : Nat) (x : InEp) : (c.setIn i x).eagReads = c.eagReads := rfl
@[simp] theorem Cell.setIn_accs (c : Cell) (i : Nat) (x : InEp) : (c.setIn i x).accs = c.accs := rfl
@[simp] theorem Cell.setIn_tlb (c : Cell) (i : Nat) (x : InEp) : (c.setIn i x).tlb = c.tlb := rfl
@[simp] theorem Cell.setIn_missing (c : Cell) (i : Nat) (x : InEp) : (c.setIn i x).missing = c.missing := rfl
@[simp] theorem Cell.setIn_refused (c : Cell) (i : Nat) (x : InEp) : (c.setIn i x).refused = c.refused := rfl
@[simp] theorem Cell.setIn_pendingReads (c : Cell) (i : Nat) (x : InEp) : (c.setIn i x).pendingReads = c.pendingReads := rfl
@[simp] theorem Cell.setIn_savedCopies (c : Cell) (i : Nat) (x : InEp) : (c.setIn i x).savedCopies = c.savedCopies := rfl
@[simp] theorem Cell.setIn_calls (c : Cell) (i : Nat) (x : InEp) : (c.setIn i x).calls = c.calls := rfl
@[simp] theorem Cell.setIn_ptests (c : Cell) (i : Nat) (x : InEp) : (c.setIn i x).ptests = c.ptests := rfl
@[simp] theorem Cell.setIn_wdog (c : Cell) (i : Nat) (x : InEp) : (c.setIn i x).wdog = c.wdog := rfl
@[simp] theorem Cell.setIn_rplReg (c : Cell) (i : Nat) (x : InEp) : (c.setIn i x).rplReg = c.rplReg := rfl
@[simp] theorem Cell.setIn_rpl (c : Cell) (i : Nat) (x : InEp) : (c.setIn i x).rpl = c.rpl := rfl
@[simp] theorem Cell.setIn_replays (c : Cell) (i : Nat) (x : InEp) : (c.setIn i x).replays = c.replays := rfl
@[simp] theorem Cell.setIn_nonReplay (c : Cell) (i : Nat) (x : InEp) : (c.setIn i x).nonReplay = c.nonReplay := rfl
@[simp] theorem Cell.setIn_sinkPending (c : Cell) (i : Nat) (x : InEp) : (c.setIn i x).sinkPending = c.sinkPending := rfl
@[simp] theorem Cell.setIn_ckpt (c : Cell) (i : Nat) (x : InEp) : (c.setIn i x).ckpt = c.ckpt := rfl
@[simp] theorem Cell.setIn_lanes (c : Cell) (i : Nat) (x : InEp) : (c.setIn i x).lanes = c.lanes := rfl
@[simp] theorem Cell.setIn_laneTag (c : Cell) (i : Nat) (x : InEp) : (c.setIn i x).laneTag = c.laneTag := rfl
@[simp] theorem Cell.setIn_vec (c : Cell) (i : Nat) (x : InEp) : (c.setIn i x).vec = c.vec := rfl
@[simp] theorem Cell.setIn_mat (c : Cell) (i : Nat) (x : InEp) : (c.setIn i x).mat = c.mat := rfl
@[simp] theorem Cell.setIn_agents (c : Cell) (i : Nat) (x : InEp) : (c.setIn i x).agents = c.agents := rfl
@[simp] theorem Cell.setIn_dbg (c : Cell) (i : Nat) (x : InEp) : (c.setIn i x).dbg = c.dbg := rfl
@[simp] theorem Cell.setOut_st (c : Cell) (i : Nat) (x : OutEp) : (c.setOut i x).st = c.st := rfl
@[simp] theorem Cell.setOut_heldSt (c : Cell) (i : Nat) (x : OutEp) : (c.setOut i x).heldSt = c.heldSt := rfl
@[simp] theorem Cell.setOut_pcause (c : Cell) (i : Nat) (x : OutEp) : (c.setOut i x).pcause = c.pcause := rfl
@[simp] theorem Cell.setOut_ident (c : Cell) (i : Nat) (x : OutEp) : (c.setOut i x).ident = c.ident := rfl
@[simp] theorem Cell.setOut_ha (c : Cell) (i : Nat) (x : OutEp) : (c.setOut i x).ha = c.ha := rfl
@[simp] theorem Cell.setOut_hb (c : Cell) (i : Nat) (x : OutEp) : (c.setOut i x).hb = c.hb := rfl
@[simp] theorem Cell.setOut_page (c : Cell) (i : Nat) (x : OutEp) : (c.setOut i x).page = c.page := rfl
@[simp] theorem Cell.setOut_last (c : Cell) (i : Nat) (x : OutEp) : (c.setOut i x).last = c.last := rfl
@[simp] theorem Cell.setOut_runSince (c : Cell) (i : Nat) (x : OutEp) : (c.setOut i x).runSince = c.runSince := rfl
@[simp] theorem Cell.setOut_g (c : Cell) (i : Nat) (x : OutEp) : (c.setOut i x).g = c.g := rfl
@[simp] theorem Cell.setOut_kept (c : Cell) (i : Nat) (x : OutEp) : (c.setOut i x).kept = c.kept := rfl
@[simp] theorem Cell.setOut_pc (c : Cell) (i : Nat) (x : OutEp) : (c.setOut i x).pc = c.pc := rfl
@[simp] theorem Cell.setOut_istore (c : Cell) (i : Nat) (x : OutEp) : (c.setOut i x).istore = c.istore := rfl
@[simp] theorem Cell.setOut_store (c : Cell) (i : Nat) (x : OutEp) : (c.setOut i x).store = c.store := rfl
@[simp] theorem Cell.setOut_storePoison (c : Cell) (i : Nat) (x : OutEp) : (c.setOut i x).storePoison = c.storePoison := rfl
@[simp] theorem Cell.setOut_upsets (c : Cell) (i : Nat) (x : OutEp) : (c.setOut i x).upsets = c.upsets := rfl
@[simp] theorem Cell.setOut_writes (c : Cell) (i : Nat) (x : OutEp) : (c.setOut i x).writes = c.writes := rfl
@[simp] theorem Cell.setOut_priors (c : Cell) (i : Nat) (x : OutEp) : (c.setOut i x).priors = c.priors := rfl
@[simp] theorem Cell.setOut_slots (c : Cell) (i : Nat) (x : OutEp) : (c.setOut i x).slots = c.slots := rfl
@[simp] theorem Cell.setOut_faults (c : Cell) (i : Nat) (x : OutEp) : (c.setOut i x).faults = c.faults := rfl
@[simp] theorem Cell.setOut_heldFault (c : Cell) (i : Nat) (x : OutEp) : (c.setOut i x).heldFault = c.heldFault := rfl
@[simp] theorem Cell.setOut_sys (c : Cell) (i : Nat) (x : OutEp) : (c.setOut i x).sys = c.sys := rfl
@[simp] theorem Cell.setOut_fired (c : Cell) (i : Nat) (x : OutEp) : (c.setOut i x).fired = c.fired := rfl
@[simp] theorem Cell.setOut_arrivals (c : Cell) (i : Nat) (x : OutEp) : (c.setOut i x).arrivals = c.arrivals := rfl
@[simp] theorem Cell.setOut_arrLost (c : Cell) (i : Nat) (x : OutEp) : (c.setOut i x).arrLost = c.arrLost := rfl
@[simp] theorem Cell.setOut_busy (c : Cell) (i : Nat) (x : OutEp) : (c.setOut i x).busy = c.busy := rfl
@[simp] theorem Cell.setOut_iseq (c : Cell) (i : Nat) (x : OutEp) : (c.setOut i x).iseq = c.iseq := rfl
@[simp] theorem Cell.setOut_readyAt (c : Cell) (i : Nat) (x : OutEp) : (c.setOut i x).readyAt = c.readyAt := rfl
@[simp] theorem Cell.setOut_startAt (c : Cell) (i : Nat) (x : OutEp) : (c.setOut i x).startAt = c.startAt := rfl
@[simp] theorem Cell.setOut_wait (c : Cell) (i : Nat) (x : OutEp) : (c.setOut i x).wait = c.wait := rfl
@[simp] theorem Cell.setOut_sleepAt (c : Cell) (i : Nat) (x : OutEp) : (c.setOut i x).sleepAt = c.sleepAt := rfl
@[simp] theorem Cell.setOut_waitAt (c : Cell) (i : Nat) (x : OutEp) : (c.setOut i x).waitAt = c.waitAt := rfl
@[simp] theorem Cell.setOut_wdSent (c : Cell) (i : Nat) (x : OutEp) : (c.setOut i x).wdSent = c.wdSent := rfl
@[simp] theorem Cell.setOut_step (c : Cell) (i : Nat) (x : OutEp) : (c.setOut i x).step = c.step := rfl
@[simp] theorem Cell.setOut_bpSkip (c : Cell) (i : Nat) (x : OutEp) : (c.setOut i x).bpSkip = c.bpSkip := rfl
@[simp] theorem Cell.setOut_rmParkReq (c : Cell) (i : Nat) (x : OutEp) : (c.setOut i x).rmParkReq = c.rmParkReq := rfl
@[simp] theorem Cell.setOut_abortReq (c : Cell) (i : Nat) (x : OutEp) : (c.setOut i x).abortReq = c.abortReq := rfl
@[simp] theorem Cell.setOut_parkWait (c : Cell) (i : Nat) (x : OutEp) : (c.setOut i x).parkWait = c.parkWait := rfl
@[simp] theorem Cell.setOut_bind (c : Cell) (i : Nat) (x : OutEp) : (c.setOut i x).bind = c.bind := rfl
@[simp] theorem Cell.setOut_ins (c : Cell) (i : Nat) (x : OutEp) : (c.setOut i x).ins = c.ins := rfl
@[simp] theorem Cell.setOut_outs (c : Cell) (i : Nat) (x : OutEp) : (c.setOut i x).outs = SMap.put c.outs i x := rfl
@[simp] theorem Cell.setOut_callq (c : Cell) (i : Nat) (x : OutEp) : (c.setOut i x).callq = c.callq := rfl
@[simp] theorem Cell.setOut_phaseq (c : Cell) (i : Nat) (x : OutEp) : (c.setOut i x).phaseq = c.phaseq := rfl
@[simp] theorem Cell.setOut_phaseOut (c : Cell) (i : Nat) (x : OutEp) : (c.setOut i x).phaseOut = c.phaseOut := rfl
@[simp] theorem Cell.setOut_phaseSent (c : Cell) (i : Nat) (x : OutEp) : (c.setOut i x).phaseSent = c.phaseSent := rfl
@[simp] theorem Cell.setOut_acks (c : Cell) (i : Nat) (x : OutEp) : (c.setOut i x).acks = c.acks := rfl
@[simp] theorem Cell.setOut_chain (c : Cell) (i : Nat) (x : OutEp) : (c.setOut i x).chain = c.chain := rfl
@[simp] theorem Cell.setOut_flushes (c : Cell) (i : Nat) (x : OutEp) : (c.setOut i x).flushes = c.flushes := rfl
@[simp] theorem Cell.setOut_rewinds (c : Cell) (i : Nat) (x : OutEp) : (c.setOut i x).rewinds = c.rewinds := rfl
@[simp] theorem Cell.setOut_qreq (c : Cell) (i : Nat) (x : OutEp) : (c.setOut i x).qreq = c.qreq := rfl
@[simp] theorem Cell.setOut_qcut (c : Cell) (i : Nat) (x : OutEp) : (c.setOut i x).qcut = c.qcut := rfl
@[simp] theorem Cell.setOut_phaseD (c : Cell) (i : Nat) (x : OutEp) : (c.setOut i x).phaseD = c.phaseD := rfl
@[simp] theorem Cell.setOut_borrows (c : Cell) (i : Nat) (x : OutEp) : (c.setOut i x).borrows = c.borrows := rfl
@[simp] theorem Cell.setOut_phaseEnd (c : Cell) (i : Nat) (x : OutEp) : (c.setOut i x).phaseEnd = c.phaseEnd := rfl
@[simp] theorem Cell.setOut_sems (c : Cell) (i : Nat) (x : OutEp) : (c.setOut i x).sems = c.sems := rfl
@[simp] theorem Cell.setOut_semInit (c : Cell) (i : Nat) (x : OutEp) : (c.setOut i x).semInit = c.semInit := rfl
@[simp] theorem Cell.setOut_eagh (c : Cell) (i : Nat) (x : OutEp) : (c.setOut i x).eagh = c.eagh := rfl
@[simp] theorem Cell.setOut_eagRun (c : Cell) (i : Nat) (x : OutEp) : (c.setOut i x).eagRun = c.eagRun := rfl
@[simp] theorem Cell.setOut_copies (c : Cell) (i : Nat) (x : OutEp) : (c.setOut i x).copies = c.copies := rfl
@[simp] theorem Cell.setOut_eagReads (c : Cell) (i : Nat) (x : OutEp) : (c.setOut i x).eagReads = c.eagReads := rfl
@[simp] theorem Cell.setOut_accs (c : Cell) (i : Nat) (x : OutEp) : (c.setOut i x).accs = c.accs := rfl
@[simp] theorem Cell.setOut_tlb (c : Cell) (i : Nat) (x : OutEp) : (c.setOut i x).tlb = c.tlb := rfl
@[simp] theorem Cell.setOut_missing (c : Cell) (i : Nat) (x : OutEp) : (c.setOut i x).missing = c.missing := rfl
@[simp] theorem Cell.setOut_refused (c : Cell) (i : Nat) (x : OutEp) : (c.setOut i x).refused = c.refused := rfl
@[simp] theorem Cell.setOut_pendingReads (c : Cell) (i : Nat) (x : OutEp) : (c.setOut i x).pendingReads = c.pendingReads := rfl
@[simp] theorem Cell.setOut_savedCopies (c : Cell) (i : Nat) (x : OutEp) : (c.setOut i x).savedCopies = c.savedCopies := rfl
@[simp] theorem Cell.setOut_calls (c : Cell) (i : Nat) (x : OutEp) : (c.setOut i x).calls = c.calls := rfl
@[simp] theorem Cell.setOut_ptests (c : Cell) (i : Nat) (x : OutEp) : (c.setOut i x).ptests = c.ptests := rfl
@[simp] theorem Cell.setOut_wdog (c : Cell) (i : Nat) (x : OutEp) : (c.setOut i x).wdog = c.wdog := rfl
@[simp] theorem Cell.setOut_rplReg (c : Cell) (i : Nat) (x : OutEp) : (c.setOut i x).rplReg = c.rplReg := rfl
@[simp] theorem Cell.setOut_rpl (c : Cell) (i : Nat) (x : OutEp) : (c.setOut i x).rpl = c.rpl := rfl
@[simp] theorem Cell.setOut_replays (c : Cell) (i : Nat) (x : OutEp) : (c.setOut i x).replays = c.replays := rfl
@[simp] theorem Cell.setOut_nonReplay (c : Cell) (i : Nat) (x : OutEp) : (c.setOut i x).nonReplay = c.nonReplay := rfl
@[simp] theorem Cell.setOut_sinkPending (c : Cell) (i : Nat) (x : OutEp) : (c.setOut i x).sinkPending = c.sinkPending := rfl
@[simp] theorem Cell.setOut_ckpt (c : Cell) (i : Nat) (x : OutEp) : (c.setOut i x).ckpt = c.ckpt := rfl
@[simp] theorem Cell.setOut_lanes (c : Cell) (i : Nat) (x : OutEp) : (c.setOut i x).lanes = c.lanes := rfl
@[simp] theorem Cell.setOut_laneTag (c : Cell) (i : Nat) (x : OutEp) : (c.setOut i x).laneTag = c.laneTag := rfl
@[simp] theorem Cell.setOut_vec (c : Cell) (i : Nat) (x : OutEp) : (c.setOut i x).vec = c.vec := rfl
@[simp] theorem Cell.setOut_mat (c : Cell) (i : Nat) (x : OutEp) : (c.setOut i x).mat = c.mat := rfl
@[simp] theorem Cell.setOut_agents (c : Cell) (i : Nat) (x : OutEp) : (c.setOut i x).agents = c.agents := rfl
@[simp] theorem Cell.setOut_dbg (c : Cell) (i : Nat) (x : OutEp) : (c.setOut i x).dbg = c.dbg := rfl
@[simp] theorem Cell.setCode_st (c : Cell) (i : Nat) (w : Word) : (c.setCode i w).st = c.st := rfl
@[simp] theorem Cell.setCode_heldSt (c : Cell) (i : Nat) (w : Word) : (c.setCode i w).heldSt = c.heldSt := rfl
@[simp] theorem Cell.setCode_pcause (c : Cell) (i : Nat) (w : Word) : (c.setCode i w).pcause = c.pcause := rfl
@[simp] theorem Cell.setCode_ident (c : Cell) (i : Nat) (w : Word) : (c.setCode i w).ident = c.ident := rfl
@[simp] theorem Cell.setCode_ha (c : Cell) (i : Nat) (w : Word) : (c.setCode i w).ha = c.ha := rfl
@[simp] theorem Cell.setCode_hb (c : Cell) (i : Nat) (w : Word) : (c.setCode i w).hb = c.hb := rfl
@[simp] theorem Cell.setCode_page (c : Cell) (i : Nat) (w : Word) : (c.setCode i w).page = c.page := rfl
@[simp] theorem Cell.setCode_last (c : Cell) (i : Nat) (w : Word) : (c.setCode i w).last = c.last := rfl
@[simp] theorem Cell.setCode_runSince (c : Cell) (i : Nat) (w : Word) : (c.setCode i w).runSince = c.runSince := rfl
@[simp] theorem Cell.setCode_g (c : Cell) (i : Nat) (w : Word) : (c.setCode i w).g = c.g := rfl
@[simp] theorem Cell.setCode_kept (c : Cell) (i : Nat) (w : Word) : (c.setCode i w).kept = c.kept := rfl
@[simp] theorem Cell.setCode_pc (c : Cell) (i : Nat) (w : Word) : (c.setCode i w).pc = c.pc := rfl
@[simp] theorem Cell.setCode_istore (c : Cell) (i : Nat) (w : Word) : (c.setCode i w).istore = SMap.set istoreReset c.istore i w := rfl
@[simp] theorem Cell.setCode_store (c : Cell) (i : Nat) (w : Word) : (c.setCode i w).store = c.store := rfl
@[simp] theorem Cell.setCode_storePoison (c : Cell) (i : Nat) (w : Word) : (c.setCode i w).storePoison = c.storePoison := rfl
@[simp] theorem Cell.setCode_upsets (c : Cell) (i : Nat) (w : Word) : (c.setCode i w).upsets = c.upsets := rfl
@[simp] theorem Cell.setCode_writes (c : Cell) (i : Nat) (w : Word) : (c.setCode i w).writes = c.writes := rfl
@[simp] theorem Cell.setCode_priors (c : Cell) (i : Nat) (w : Word) : (c.setCode i w).priors = c.priors := rfl
@[simp] theorem Cell.setCode_slots (c : Cell) (i : Nat) (w : Word) : (c.setCode i w).slots = c.slots := rfl
@[simp] theorem Cell.setCode_faults (c : Cell) (i : Nat) (w : Word) : (c.setCode i w).faults = c.faults := rfl
@[simp] theorem Cell.setCode_heldFault (c : Cell) (i : Nat) (w : Word) : (c.setCode i w).heldFault = c.heldFault := rfl
@[simp] theorem Cell.setCode_sys (c : Cell) (i : Nat) (w : Word) : (c.setCode i w).sys = c.sys := rfl
@[simp] theorem Cell.setCode_fired (c : Cell) (i : Nat) (w : Word) : (c.setCode i w).fired = c.fired := rfl
@[simp] theorem Cell.setCode_arrivals (c : Cell) (i : Nat) (w : Word) : (c.setCode i w).arrivals = c.arrivals := rfl
@[simp] theorem Cell.setCode_arrLost (c : Cell) (i : Nat) (w : Word) : (c.setCode i w).arrLost = c.arrLost := rfl
@[simp] theorem Cell.setCode_busy (c : Cell) (i : Nat) (w : Word) : (c.setCode i w).busy = c.busy := rfl
@[simp] theorem Cell.setCode_iseq (c : Cell) (i : Nat) (w : Word) : (c.setCode i w).iseq = c.iseq := rfl
@[simp] theorem Cell.setCode_readyAt (c : Cell) (i : Nat) (w : Word) : (c.setCode i w).readyAt = c.readyAt := rfl
@[simp] theorem Cell.setCode_startAt (c : Cell) (i : Nat) (w : Word) : (c.setCode i w).startAt = c.startAt := rfl
@[simp] theorem Cell.setCode_wait (c : Cell) (i : Nat) (w : Word) : (c.setCode i w).wait = c.wait := rfl
@[simp] theorem Cell.setCode_sleepAt (c : Cell) (i : Nat) (w : Word) : (c.setCode i w).sleepAt = c.sleepAt := rfl
@[simp] theorem Cell.setCode_waitAt (c : Cell) (i : Nat) (w : Word) : (c.setCode i w).waitAt = c.waitAt := rfl
@[simp] theorem Cell.setCode_wdSent (c : Cell) (i : Nat) (w : Word) : (c.setCode i w).wdSent = c.wdSent := rfl
@[simp] theorem Cell.setCode_step (c : Cell) (i : Nat) (w : Word) : (c.setCode i w).step = c.step := rfl
@[simp] theorem Cell.setCode_bpSkip (c : Cell) (i : Nat) (w : Word) : (c.setCode i w).bpSkip = c.bpSkip := rfl
@[simp] theorem Cell.setCode_rmParkReq (c : Cell) (i : Nat) (w : Word) : (c.setCode i w).rmParkReq = c.rmParkReq := rfl
@[simp] theorem Cell.setCode_abortReq (c : Cell) (i : Nat) (w : Word) : (c.setCode i w).abortReq = c.abortReq := rfl
@[simp] theorem Cell.setCode_parkWait (c : Cell) (i : Nat) (w : Word) : (c.setCode i w).parkWait = c.parkWait := rfl
@[simp] theorem Cell.setCode_bind (c : Cell) (i : Nat) (w : Word) : (c.setCode i w).bind = c.bind := rfl
@[simp] theorem Cell.setCode_ins (c : Cell) (i : Nat) (w : Word) : (c.setCode i w).ins = c.ins := rfl
@[simp] theorem Cell.setCode_outs (c : Cell) (i : Nat) (w : Word) : (c.setCode i w).outs = c.outs := rfl
@[simp] theorem Cell.setCode_callq (c : Cell) (i : Nat) (w : Word) : (c.setCode i w).callq = c.callq := rfl
@[simp] theorem Cell.setCode_phaseq (c : Cell) (i : Nat) (w : Word) : (c.setCode i w).phaseq = c.phaseq := rfl
@[simp] theorem Cell.setCode_phaseOut (c : Cell) (i : Nat) (w : Word) : (c.setCode i w).phaseOut = c.phaseOut := rfl
@[simp] theorem Cell.setCode_phaseSent (c : Cell) (i : Nat) (w : Word) : (c.setCode i w).phaseSent = c.phaseSent := rfl
@[simp] theorem Cell.setCode_acks (c : Cell) (i : Nat) (w : Word) : (c.setCode i w).acks = c.acks := rfl
@[simp] theorem Cell.setCode_chain (c : Cell) (i : Nat) (w : Word) : (c.setCode i w).chain = c.chain := rfl
@[simp] theorem Cell.setCode_flushes (c : Cell) (i : Nat) (w : Word) : (c.setCode i w).flushes = c.flushes := rfl
@[simp] theorem Cell.setCode_rewinds (c : Cell) (i : Nat) (w : Word) : (c.setCode i w).rewinds = c.rewinds := rfl
@[simp] theorem Cell.setCode_qreq (c : Cell) (i : Nat) (w : Word) : (c.setCode i w).qreq = c.qreq := rfl
@[simp] theorem Cell.setCode_qcut (c : Cell) (i : Nat) (w : Word) : (c.setCode i w).qcut = c.qcut := rfl
@[simp] theorem Cell.setCode_phaseD (c : Cell) (i : Nat) (w : Word) : (c.setCode i w).phaseD = c.phaseD := rfl
@[simp] theorem Cell.setCode_borrows (c : Cell) (i : Nat) (w : Word) : (c.setCode i w).borrows = c.borrows := rfl
@[simp] theorem Cell.setCode_phaseEnd (c : Cell) (i : Nat) (w : Word) : (c.setCode i w).phaseEnd = c.phaseEnd := rfl
@[simp] theorem Cell.setCode_sems (c : Cell) (i : Nat) (w : Word) : (c.setCode i w).sems = c.sems := rfl
@[simp] theorem Cell.setCode_semInit (c : Cell) (i : Nat) (w : Word) : (c.setCode i w).semInit = c.semInit := rfl
@[simp] theorem Cell.setCode_eagh (c : Cell) (i : Nat) (w : Word) : (c.setCode i w).eagh = c.eagh := rfl
@[simp] theorem Cell.setCode_eagRun (c : Cell) (i : Nat) (w : Word) : (c.setCode i w).eagRun = c.eagRun := rfl
@[simp] theorem Cell.setCode_copies (c : Cell) (i : Nat) (w : Word) : (c.setCode i w).copies = c.copies := rfl
@[simp] theorem Cell.setCode_eagReads (c : Cell) (i : Nat) (w : Word) : (c.setCode i w).eagReads = c.eagReads := rfl
@[simp] theorem Cell.setCode_accs (c : Cell) (i : Nat) (w : Word) : (c.setCode i w).accs = c.accs := rfl
@[simp] theorem Cell.setCode_tlb (c : Cell) (i : Nat) (w : Word) : (c.setCode i w).tlb = c.tlb := rfl
@[simp] theorem Cell.setCode_missing (c : Cell) (i : Nat) (w : Word) : (c.setCode i w).missing = c.missing := rfl
@[simp] theorem Cell.setCode_refused (c : Cell) (i : Nat) (w : Word) : (c.setCode i w).refused = c.refused := rfl
@[simp] theorem Cell.setCode_pendingReads (c : Cell) (i : Nat) (w : Word) : (c.setCode i w).pendingReads = c.pendingReads := rfl
@[simp] theorem Cell.setCode_savedCopies (c : Cell) (i : Nat) (w : Word) : (c.setCode i w).savedCopies = c.savedCopies := rfl
@[simp] theorem Cell.setCode_calls (c : Cell) (i : Nat) (w : Word) : (c.setCode i w).calls = c.calls := rfl
@[simp] theorem Cell.setCode_ptests (c : Cell) (i : Nat) (w : Word) : (c.setCode i w).ptests = c.ptests := rfl
@[simp] theorem Cell.setCode_wdog (c : Cell) (i : Nat) (w : Word) : (c.setCode i w).wdog = c.wdog := rfl
@[simp] theorem Cell.setCode_rplReg (c : Cell) (i : Nat) (w : Word) : (c.setCode i w).rplReg = c.rplReg := rfl
@[simp] theorem Cell.setCode_rpl (c : Cell) (i : Nat) (w : Word) : (c.setCode i w).rpl = c.rpl := rfl
@[simp] theorem Cell.setCode_replays (c : Cell) (i : Nat) (w : Word) : (c.setCode i w).replays = c.replays := rfl
@[simp] theorem Cell.setCode_nonReplay (c : Cell) (i : Nat) (w : Word) : (c.setCode i w).nonReplay = c.nonReplay := rfl
@[simp] theorem Cell.setCode_sinkPending (c : Cell) (i : Nat) (w : Word) : (c.setCode i w).sinkPending = c.sinkPending := rfl
@[simp] theorem Cell.setCode_ckpt (c : Cell) (i : Nat) (w : Word) : (c.setCode i w).ckpt = c.ckpt := rfl
@[simp] theorem Cell.setCode_lanes (c : Cell) (i : Nat) (w : Word) : (c.setCode i w).lanes = c.lanes := rfl
@[simp] theorem Cell.setCode_laneTag (c : Cell) (i : Nat) (w : Word) : (c.setCode i w).laneTag = c.laneTag := rfl
@[simp] theorem Cell.setCode_vec (c : Cell) (i : Nat) (w : Word) : (c.setCode i w).vec = c.vec := rfl
@[simp] theorem Cell.setCode_mat (c : Cell) (i : Nat) (w : Word) : (c.setCode i w).mat = c.mat := rfl
@[simp] theorem Cell.setCode_agents (c : Cell) (i : Nat) (w : Word) : (c.setCode i w).agents = c.agents := rfl
@[simp] theorem Cell.setCode_dbg (c : Cell) (i : Nat) (w : Word) : (c.setCode i w).dbg = c.dbg := rfl
@[simp] theorem Cell.orFlags_st (c : Cell) (f : Flags) : (c.orFlags f).st = c.st := rfl
@[simp] theorem Cell.orFlags_heldSt (c : Cell) (f : Flags) : (c.orFlags f).heldSt = c.heldSt := rfl
@[simp] theorem Cell.orFlags_pcause (c : Cell) (f : Flags) : (c.orFlags f).pcause = c.pcause := rfl
@[simp] theorem Cell.orFlags_ident (c : Cell) (f : Flags) : (c.orFlags f).ident = c.ident := rfl
@[simp] theorem Cell.orFlags_ha (c : Cell) (f : Flags) : (c.orFlags f).ha = c.ha := rfl
@[simp] theorem Cell.orFlags_hb (c : Cell) (f : Flags) : (c.orFlags f).hb = c.hb := rfl
@[simp] theorem Cell.orFlags_page (c : Cell) (f : Flags) : (c.orFlags f).page = c.page := rfl
@[simp] theorem Cell.orFlags_last (c : Cell) (f : Flags) : (c.orFlags f).last = c.last := rfl
@[simp] theorem Cell.orFlags_runSince (c : Cell) (f : Flags) : (c.orFlags f).runSince = c.runSince := rfl
@[simp] theorem Cell.orFlags_g (c : Cell) (f : Flags) : (c.orFlags f).g = c.g := rfl
@[simp] theorem Cell.orFlags_kept (c : Cell) (f : Flags) : (c.orFlags f).kept = c.kept := rfl
@[simp] theorem Cell.orFlags_pc (c : Cell) (f : Flags) : (c.orFlags f).pc = c.pc := rfl
@[simp] theorem Cell.orFlags_istore (c : Cell) (f : Flags) : (c.orFlags f).istore = c.istore := rfl
@[simp] theorem Cell.orFlags_store (c : Cell) (f : Flags) : (c.orFlags f).store = c.store := rfl
@[simp] theorem Cell.orFlags_storePoison (c : Cell) (f : Flags) : (c.orFlags f).storePoison = c.storePoison := rfl
@[simp] theorem Cell.orFlags_upsets (c : Cell) (f : Flags) : (c.orFlags f).upsets = c.upsets := rfl
@[simp] theorem Cell.orFlags_writes (c : Cell) (f : Flags) : (c.orFlags f).writes = c.writes := rfl
@[simp] theorem Cell.orFlags_priors (c : Cell) (f : Flags) : (c.orFlags f).priors = c.priors := rfl
@[simp] theorem Cell.orFlags_slots (c : Cell) (f : Flags) : (c.orFlags f).slots = c.slots := rfl
@[simp] theorem Cell.orFlags_faults (c : Cell) (f : Flags) : (c.orFlags f).faults = c.faults := rfl
@[simp] theorem Cell.orFlags_heldFault (c : Cell) (f : Flags) : (c.orFlags f).heldFault = c.heldFault := rfl
@[simp] theorem Cell.orFlags_sys (c : Cell) (f : Flags) : (c.orFlags f).sys = { c.sys with flags := c.sys.flags ||| f } := rfl
@[simp] theorem Cell.orFlags_fired (c : Cell) (f : Flags) : (c.orFlags f).fired = c.fired := rfl
@[simp] theorem Cell.orFlags_arrivals (c : Cell) (f : Flags) : (c.orFlags f).arrivals = c.arrivals := rfl
@[simp] theorem Cell.orFlags_arrLost (c : Cell) (f : Flags) : (c.orFlags f).arrLost = c.arrLost := rfl
@[simp] theorem Cell.orFlags_busy (c : Cell) (f : Flags) : (c.orFlags f).busy = c.busy := rfl
@[simp] theorem Cell.orFlags_iseq (c : Cell) (f : Flags) : (c.orFlags f).iseq = c.iseq := rfl
@[simp] theorem Cell.orFlags_readyAt (c : Cell) (f : Flags) : (c.orFlags f).readyAt = c.readyAt := rfl
@[simp] theorem Cell.orFlags_startAt (c : Cell) (f : Flags) : (c.orFlags f).startAt = c.startAt := rfl
@[simp] theorem Cell.orFlags_wait (c : Cell) (f : Flags) : (c.orFlags f).wait = c.wait := rfl
@[simp] theorem Cell.orFlags_sleepAt (c : Cell) (f : Flags) : (c.orFlags f).sleepAt = c.sleepAt := rfl
@[simp] theorem Cell.orFlags_waitAt (c : Cell) (f : Flags) : (c.orFlags f).waitAt = c.waitAt := rfl
@[simp] theorem Cell.orFlags_wdSent (c : Cell) (f : Flags) : (c.orFlags f).wdSent = c.wdSent := rfl
@[simp] theorem Cell.orFlags_step (c : Cell) (f : Flags) : (c.orFlags f).step = c.step := rfl
@[simp] theorem Cell.orFlags_bpSkip (c : Cell) (f : Flags) : (c.orFlags f).bpSkip = c.bpSkip := rfl
@[simp] theorem Cell.orFlags_rmParkReq (c : Cell) (f : Flags) : (c.orFlags f).rmParkReq = c.rmParkReq := rfl
@[simp] theorem Cell.orFlags_abortReq (c : Cell) (f : Flags) : (c.orFlags f).abortReq = c.abortReq := rfl
@[simp] theorem Cell.orFlags_parkWait (c : Cell) (f : Flags) : (c.orFlags f).parkWait = c.parkWait := rfl
@[simp] theorem Cell.orFlags_bind (c : Cell) (f : Flags) : (c.orFlags f).bind = c.bind := rfl
@[simp] theorem Cell.orFlags_ins (c : Cell) (f : Flags) : (c.orFlags f).ins = c.ins := rfl
@[simp] theorem Cell.orFlags_outs (c : Cell) (f : Flags) : (c.orFlags f).outs = c.outs := rfl
@[simp] theorem Cell.orFlags_callq (c : Cell) (f : Flags) : (c.orFlags f).callq = c.callq := rfl
@[simp] theorem Cell.orFlags_phaseq (c : Cell) (f : Flags) : (c.orFlags f).phaseq = c.phaseq := rfl
@[simp] theorem Cell.orFlags_phaseOut (c : Cell) (f : Flags) : (c.orFlags f).phaseOut = c.phaseOut := rfl
@[simp] theorem Cell.orFlags_phaseSent (c : Cell) (f : Flags) : (c.orFlags f).phaseSent = c.phaseSent := rfl
@[simp] theorem Cell.orFlags_acks (c : Cell) (f : Flags) : (c.orFlags f).acks = c.acks := rfl
@[simp] theorem Cell.orFlags_chain (c : Cell) (f : Flags) : (c.orFlags f).chain = c.chain := rfl
@[simp] theorem Cell.orFlags_flushes (c : Cell) (f : Flags) : (c.orFlags f).flushes = c.flushes := rfl
@[simp] theorem Cell.orFlags_rewinds (c : Cell) (f : Flags) : (c.orFlags f).rewinds = c.rewinds := rfl
@[simp] theorem Cell.orFlags_qreq (c : Cell) (f : Flags) : (c.orFlags f).qreq = c.qreq := rfl
@[simp] theorem Cell.orFlags_qcut (c : Cell) (f : Flags) : (c.orFlags f).qcut = c.qcut := rfl
@[simp] theorem Cell.orFlags_phaseD (c : Cell) (f : Flags) : (c.orFlags f).phaseD = c.phaseD := rfl
@[simp] theorem Cell.orFlags_borrows (c : Cell) (f : Flags) : (c.orFlags f).borrows = c.borrows := rfl
@[simp] theorem Cell.orFlags_phaseEnd (c : Cell) (f : Flags) : (c.orFlags f).phaseEnd = c.phaseEnd := rfl
@[simp] theorem Cell.orFlags_sems (c : Cell) (f : Flags) : (c.orFlags f).sems = c.sems := rfl
@[simp] theorem Cell.orFlags_semInit (c : Cell) (f : Flags) : (c.orFlags f).semInit = c.semInit := rfl
@[simp] theorem Cell.orFlags_eagh (c : Cell) (f : Flags) : (c.orFlags f).eagh = c.eagh := rfl
@[simp] theorem Cell.orFlags_eagRun (c : Cell) (f : Flags) : (c.orFlags f).eagRun = c.eagRun := rfl
@[simp] theorem Cell.orFlags_copies (c : Cell) (f : Flags) : (c.orFlags f).copies = c.copies := rfl
@[simp] theorem Cell.orFlags_eagReads (c : Cell) (f : Flags) : (c.orFlags f).eagReads = c.eagReads := rfl
@[simp] theorem Cell.orFlags_accs (c : Cell) (f : Flags) : (c.orFlags f).accs = c.accs := rfl
@[simp] theorem Cell.orFlags_tlb (c : Cell) (f : Flags) : (c.orFlags f).tlb = c.tlb := rfl
@[simp] theorem Cell.orFlags_missing (c : Cell) (f : Flags) : (c.orFlags f).missing = c.missing := rfl
@[simp] theorem Cell.orFlags_refused (c : Cell) (f : Flags) : (c.orFlags f).refused = c.refused := rfl
@[simp] theorem Cell.orFlags_pendingReads (c : Cell) (f : Flags) : (c.orFlags f).pendingReads = c.pendingReads := rfl
@[simp] theorem Cell.orFlags_savedCopies (c : Cell) (f : Flags) : (c.orFlags f).savedCopies = c.savedCopies := rfl
@[simp] theorem Cell.orFlags_calls (c : Cell) (f : Flags) : (c.orFlags f).calls = c.calls := rfl
@[simp] theorem Cell.orFlags_ptests (c : Cell) (f : Flags) : (c.orFlags f).ptests = c.ptests := rfl
@[simp] theorem Cell.orFlags_wdog (c : Cell) (f : Flags) : (c.orFlags f).wdog = c.wdog := rfl
@[simp] theorem Cell.orFlags_rplReg (c : Cell) (f : Flags) : (c.orFlags f).rplReg = c.rplReg := rfl
@[simp] theorem Cell.orFlags_rpl (c : Cell) (f : Flags) : (c.orFlags f).rpl = c.rpl := rfl
@[simp] theorem Cell.orFlags_replays (c : Cell) (f : Flags) : (c.orFlags f).replays = c.replays := rfl
@[simp] theorem Cell.orFlags_nonReplay (c : Cell) (f : Flags) : (c.orFlags f).nonReplay = c.nonReplay := rfl
@[simp] theorem Cell.orFlags_sinkPending (c : Cell) (f : Flags) : (c.orFlags f).sinkPending = c.sinkPending := rfl
@[simp] theorem Cell.orFlags_ckpt (c : Cell) (f : Flags) : (c.orFlags f).ckpt = c.ckpt := rfl
@[simp] theorem Cell.orFlags_lanes (c : Cell) (f : Flags) : (c.orFlags f).lanes = c.lanes := rfl
@[simp] theorem Cell.orFlags_laneTag (c : Cell) (f : Flags) : (c.orFlags f).laneTag = c.laneTag := rfl
@[simp] theorem Cell.orFlags_vec (c : Cell) (f : Flags) : (c.orFlags f).vec = c.vec := rfl
@[simp] theorem Cell.orFlags_mat (c : Cell) (f : Flags) : (c.orFlags f).mat = c.mat := rfl
@[simp] theorem Cell.orFlags_agents (c : Cell) (f : Flags) : (c.orFlags f).agents = c.agents := rfl
@[simp] theorem Cell.orFlags_dbg (c : Cell) (f : Flags) : (c.orFlags f).dbg = c.dbg := rfl
@[simp] theorem Cell.advanceLfsr_st (c : Cell) (n : Nat) : (c.advanceLfsr n).st = c.st := rfl
@[simp] theorem Cell.advanceLfsr_heldSt (c : Cell) (n : Nat) : (c.advanceLfsr n).heldSt = c.heldSt := rfl
@[simp] theorem Cell.advanceLfsr_pcause (c : Cell) (n : Nat) : (c.advanceLfsr n).pcause = c.pcause := rfl
@[simp] theorem Cell.advanceLfsr_ident (c : Cell) (n : Nat) : (c.advanceLfsr n).ident = c.ident := rfl
@[simp] theorem Cell.advanceLfsr_ha (c : Cell) (n : Nat) : (c.advanceLfsr n).ha = c.ha := rfl
@[simp] theorem Cell.advanceLfsr_hb (c : Cell) (n : Nat) : (c.advanceLfsr n).hb = c.hb := rfl
@[simp] theorem Cell.advanceLfsr_page (c : Cell) (n : Nat) : (c.advanceLfsr n).page = c.page := rfl
@[simp] theorem Cell.advanceLfsr_last (c : Cell) (n : Nat) : (c.advanceLfsr n).last = c.last := rfl
@[simp] theorem Cell.advanceLfsr_runSince (c : Cell) (n : Nat) : (c.advanceLfsr n).runSince = c.runSince := rfl
@[simp] theorem Cell.advanceLfsr_g (c : Cell) (n : Nat) : (c.advanceLfsr n).g = c.g := rfl
@[simp] theorem Cell.advanceLfsr_kept (c : Cell) (n : Nat) : (c.advanceLfsr n).kept = c.kept := rfl
@[simp] theorem Cell.advanceLfsr_pc (c : Cell) (n : Nat) : (c.advanceLfsr n).pc = c.pc := rfl
@[simp] theorem Cell.advanceLfsr_istore (c : Cell) (n : Nat) : (c.advanceLfsr n).istore = c.istore := rfl
@[simp] theorem Cell.advanceLfsr_store (c : Cell) (n : Nat) : (c.advanceLfsr n).store = c.store := rfl
@[simp] theorem Cell.advanceLfsr_storePoison (c : Cell) (n : Nat) : (c.advanceLfsr n).storePoison = c.storePoison := rfl
@[simp] theorem Cell.advanceLfsr_upsets (c : Cell) (n : Nat) : (c.advanceLfsr n).upsets = c.upsets := rfl
@[simp] theorem Cell.advanceLfsr_writes (c : Cell) (n : Nat) : (c.advanceLfsr n).writes = c.writes := rfl
@[simp] theorem Cell.advanceLfsr_priors (c : Cell) (n : Nat) : (c.advanceLfsr n).priors = c.priors := rfl
@[simp] theorem Cell.advanceLfsr_slots (c : Cell) (n : Nat) : (c.advanceLfsr n).slots = c.slots := rfl
@[simp] theorem Cell.advanceLfsr_faults (c : Cell) (n : Nat) : (c.advanceLfsr n).faults = c.faults := rfl
@[simp] theorem Cell.advanceLfsr_heldFault (c : Cell) (n : Nat) : (c.advanceLfsr n).heldFault = c.heldFault := rfl
@[simp] theorem Cell.advanceLfsr_sys (c : Cell) (n : Nat) : (c.advanceLfsr n).sys = { c.sys with lfsr := lfsrSteps c.sys.lfsr n } := rfl
@[simp] theorem Cell.advanceLfsr_fired (c : Cell) (n : Nat) : (c.advanceLfsr n).fired = c.fired := rfl
@[simp] theorem Cell.advanceLfsr_arrivals (c : Cell) (n : Nat) : (c.advanceLfsr n).arrivals = c.arrivals := rfl
@[simp] theorem Cell.advanceLfsr_arrLost (c : Cell) (n : Nat) : (c.advanceLfsr n).arrLost = c.arrLost := rfl
@[simp] theorem Cell.advanceLfsr_busy (c : Cell) (n : Nat) : (c.advanceLfsr n).busy = c.busy := rfl
@[simp] theorem Cell.advanceLfsr_iseq (c : Cell) (n : Nat) : (c.advanceLfsr n).iseq = c.iseq := rfl
@[simp] theorem Cell.advanceLfsr_readyAt (c : Cell) (n : Nat) : (c.advanceLfsr n).readyAt = c.readyAt := rfl
@[simp] theorem Cell.advanceLfsr_startAt (c : Cell) (n : Nat) : (c.advanceLfsr n).startAt = c.startAt := rfl
@[simp] theorem Cell.advanceLfsr_wait (c : Cell) (n : Nat) : (c.advanceLfsr n).wait = c.wait := rfl
@[simp] theorem Cell.advanceLfsr_sleepAt (c : Cell) (n : Nat) : (c.advanceLfsr n).sleepAt = c.sleepAt := rfl
@[simp] theorem Cell.advanceLfsr_waitAt (c : Cell) (n : Nat) : (c.advanceLfsr n).waitAt = c.waitAt := rfl
@[simp] theorem Cell.advanceLfsr_wdSent (c : Cell) (n : Nat) : (c.advanceLfsr n).wdSent = c.wdSent := rfl
@[simp] theorem Cell.advanceLfsr_step (c : Cell) (n : Nat) : (c.advanceLfsr n).step = c.step := rfl
@[simp] theorem Cell.advanceLfsr_bpSkip (c : Cell) (n : Nat) : (c.advanceLfsr n).bpSkip = c.bpSkip := rfl
@[simp] theorem Cell.advanceLfsr_rmParkReq (c : Cell) (n : Nat) : (c.advanceLfsr n).rmParkReq = c.rmParkReq := rfl
@[simp] theorem Cell.advanceLfsr_abortReq (c : Cell) (n : Nat) : (c.advanceLfsr n).abortReq = c.abortReq := rfl
@[simp] theorem Cell.advanceLfsr_parkWait (c : Cell) (n : Nat) : (c.advanceLfsr n).parkWait = c.parkWait := rfl
@[simp] theorem Cell.advanceLfsr_bind (c : Cell) (n : Nat) : (c.advanceLfsr n).bind = c.bind := rfl
@[simp] theorem Cell.advanceLfsr_ins (c : Cell) (n : Nat) : (c.advanceLfsr n).ins = c.ins := rfl
@[simp] theorem Cell.advanceLfsr_outs (c : Cell) (n : Nat) : (c.advanceLfsr n).outs = c.outs := rfl
@[simp] theorem Cell.advanceLfsr_callq (c : Cell) (n : Nat) : (c.advanceLfsr n).callq = c.callq := rfl
@[simp] theorem Cell.advanceLfsr_phaseq (c : Cell) (n : Nat) : (c.advanceLfsr n).phaseq = c.phaseq := rfl
@[simp] theorem Cell.advanceLfsr_phaseOut (c : Cell) (n : Nat) : (c.advanceLfsr n).phaseOut = c.phaseOut := rfl
@[simp] theorem Cell.advanceLfsr_phaseSent (c : Cell) (n : Nat) : (c.advanceLfsr n).phaseSent = c.phaseSent := rfl
@[simp] theorem Cell.advanceLfsr_acks (c : Cell) (n : Nat) : (c.advanceLfsr n).acks = c.acks := rfl
@[simp] theorem Cell.advanceLfsr_chain (c : Cell) (n : Nat) : (c.advanceLfsr n).chain = c.chain := rfl
@[simp] theorem Cell.advanceLfsr_flushes (c : Cell) (n : Nat) : (c.advanceLfsr n).flushes = c.flushes := rfl
@[simp] theorem Cell.advanceLfsr_rewinds (c : Cell) (n : Nat) : (c.advanceLfsr n).rewinds = c.rewinds := rfl
@[simp] theorem Cell.advanceLfsr_qreq (c : Cell) (n : Nat) : (c.advanceLfsr n).qreq = c.qreq := rfl
@[simp] theorem Cell.advanceLfsr_qcut (c : Cell) (n : Nat) : (c.advanceLfsr n).qcut = c.qcut := rfl
@[simp] theorem Cell.advanceLfsr_phaseD (c : Cell) (n : Nat) : (c.advanceLfsr n).phaseD = c.phaseD := rfl
@[simp] theorem Cell.advanceLfsr_borrows (c : Cell) (n : Nat) : (c.advanceLfsr n).borrows = c.borrows := rfl
@[simp] theorem Cell.advanceLfsr_phaseEnd (c : Cell) (n : Nat) : (c.advanceLfsr n).phaseEnd = c.phaseEnd := rfl
@[simp] theorem Cell.advanceLfsr_sems (c : Cell) (n : Nat) : (c.advanceLfsr n).sems = c.sems := rfl
@[simp] theorem Cell.advanceLfsr_semInit (c : Cell) (n : Nat) : (c.advanceLfsr n).semInit = c.semInit := rfl
@[simp] theorem Cell.advanceLfsr_eagh (c : Cell) (n : Nat) : (c.advanceLfsr n).eagh = c.eagh := rfl
@[simp] theorem Cell.advanceLfsr_eagRun (c : Cell) (n : Nat) : (c.advanceLfsr n).eagRun = c.eagRun := rfl
@[simp] theorem Cell.advanceLfsr_copies (c : Cell) (n : Nat) : (c.advanceLfsr n).copies = c.copies := rfl
@[simp] theorem Cell.advanceLfsr_eagReads (c : Cell) (n : Nat) : (c.advanceLfsr n).eagReads = c.eagReads := rfl
@[simp] theorem Cell.advanceLfsr_accs (c : Cell) (n : Nat) : (c.advanceLfsr n).accs = c.accs := rfl
@[simp] theorem Cell.advanceLfsr_tlb (c : Cell) (n : Nat) : (c.advanceLfsr n).tlb = c.tlb := rfl
@[simp] theorem Cell.advanceLfsr_missing (c : Cell) (n : Nat) : (c.advanceLfsr n).missing = c.missing := rfl
@[simp] theorem Cell.advanceLfsr_refused (c : Cell) (n : Nat) : (c.advanceLfsr n).refused = c.refused := rfl
@[simp] theorem Cell.advanceLfsr_pendingReads (c : Cell) (n : Nat) : (c.advanceLfsr n).pendingReads = c.pendingReads := rfl
@[simp] theorem Cell.advanceLfsr_savedCopies (c : Cell) (n : Nat) : (c.advanceLfsr n).savedCopies = c.savedCopies := rfl
@[simp] theorem Cell.advanceLfsr_calls (c : Cell) (n : Nat) : (c.advanceLfsr n).calls = c.calls := rfl
@[simp] theorem Cell.advanceLfsr_ptests (c : Cell) (n : Nat) : (c.advanceLfsr n).ptests = c.ptests := rfl
@[simp] theorem Cell.advanceLfsr_wdog (c : Cell) (n : Nat) : (c.advanceLfsr n).wdog = c.wdog := rfl
@[simp] theorem Cell.advanceLfsr_rplReg (c : Cell) (n : Nat) : (c.advanceLfsr n).rplReg = c.rplReg := rfl
@[simp] theorem Cell.advanceLfsr_rpl (c : Cell) (n : Nat) : (c.advanceLfsr n).rpl = c.rpl := rfl
@[simp] theorem Cell.advanceLfsr_replays (c : Cell) (n : Nat) : (c.advanceLfsr n).replays = c.replays := rfl
@[simp] theorem Cell.advanceLfsr_nonReplay (c : Cell) (n : Nat) : (c.advanceLfsr n).nonReplay = c.nonReplay := rfl
@[simp] theorem Cell.advanceLfsr_sinkPending (c : Cell) (n : Nat) : (c.advanceLfsr n).sinkPending = c.sinkPending := rfl
@[simp] theorem Cell.advanceLfsr_ckpt (c : Cell) (n : Nat) : (c.advanceLfsr n).ckpt = c.ckpt := rfl
@[simp] theorem Cell.advanceLfsr_lanes (c : Cell) (n : Nat) : (c.advanceLfsr n).lanes = c.lanes := rfl
@[simp] theorem Cell.advanceLfsr_laneTag (c : Cell) (n : Nat) : (c.advanceLfsr n).laneTag = c.laneTag := rfl
@[simp] theorem Cell.advanceLfsr_vec (c : Cell) (n : Nat) : (c.advanceLfsr n).vec = c.vec := rfl
@[simp] theorem Cell.advanceLfsr_mat (c : Cell) (n : Nat) : (c.advanceLfsr n).mat = c.mat := rfl
@[simp] theorem Cell.advanceLfsr_agents (c : Cell) (n : Nat) : (c.advanceLfsr n).agents = c.agents := rfl
@[simp] theorem Cell.advanceLfsr_dbg (c : Cell) (n : Nat) : (c.advanceLfsr n).dbg = c.dbg := rfl
@[simp] theorem Cell.unbusy_st (c : Cell) (d : Nat) : (c.unbusy d).st = c.st := rfl
@[simp] theorem Cell.unbusy_heldSt (c : Cell) (d : Nat) : (c.unbusy d).heldSt = c.heldSt := rfl
@[simp] theorem Cell.unbusy_pcause (c : Cell) (d : Nat) : (c.unbusy d).pcause = c.pcause := rfl
@[simp] theorem Cell.unbusy_ident (c : Cell) (d : Nat) : (c.unbusy d).ident = c.ident := rfl
@[simp] theorem Cell.unbusy_ha (c : Cell) (d : Nat) : (c.unbusy d).ha = c.ha := rfl
@[simp] theorem Cell.unbusy_hb (c : Cell) (d : Nat) : (c.unbusy d).hb = c.hb := rfl
@[simp] theorem Cell.unbusy_page (c : Cell) (d : Nat) : (c.unbusy d).page = c.page := rfl
@[simp] theorem Cell.unbusy_last (c : Cell) (d : Nat) : (c.unbusy d).last = c.last := rfl
@[simp] theorem Cell.unbusy_runSince (c : Cell) (d : Nat) : (c.unbusy d).runSince = c.runSince := rfl
@[simp] theorem Cell.unbusy_g (c : Cell) (d : Nat) : (c.unbusy d).g = c.g := rfl
@[simp] theorem Cell.unbusy_kept (c : Cell) (d : Nat) : (c.unbusy d).kept = c.kept := rfl
@[simp] theorem Cell.unbusy_pc (c : Cell) (d : Nat) : (c.unbusy d).pc = c.pc := rfl
@[simp] theorem Cell.unbusy_istore (c : Cell) (d : Nat) : (c.unbusy d).istore = c.istore := rfl
@[simp] theorem Cell.unbusy_store (c : Cell) (d : Nat) : (c.unbusy d).store = c.store := rfl
@[simp] theorem Cell.unbusy_storePoison (c : Cell) (d : Nat) : (c.unbusy d).storePoison = c.storePoison := rfl
@[simp] theorem Cell.unbusy_upsets (c : Cell) (d : Nat) : (c.unbusy d).upsets = c.upsets := rfl
@[simp] theorem Cell.unbusy_writes (c : Cell) (d : Nat) : (c.unbusy d).writes = c.writes := rfl
@[simp] theorem Cell.unbusy_priors (c : Cell) (d : Nat) : (c.unbusy d).priors = c.priors := rfl
@[simp] theorem Cell.unbusy_slots (c : Cell) (d : Nat) : (c.unbusy d).slots = c.slots := rfl
@[simp] theorem Cell.unbusy_faults (c : Cell) (d : Nat) : (c.unbusy d).faults = c.faults := rfl
@[simp] theorem Cell.unbusy_heldFault (c : Cell) (d : Nat) : (c.unbusy d).heldFault = c.heldFault := rfl
@[simp] theorem Cell.unbusy_sys (c : Cell) (d : Nat) : (c.unbusy d).sys = c.sys := rfl
@[simp] theorem Cell.unbusy_fired (c : Cell) (d : Nat) : (c.unbusy d).fired = c.fired := rfl
@[simp] theorem Cell.unbusy_arrivals (c : Cell) (d : Nat) : (c.unbusy d).arrivals = c.arrivals := rfl
@[simp] theorem Cell.unbusy_arrLost (c : Cell) (d : Nat) : (c.unbusy d).arrLost = c.arrLost := rfl
@[simp] theorem Cell.unbusy_busy (c : Cell) (d : Nat) : (c.unbusy d).busy = c.busy.erase d := rfl
@[simp] theorem Cell.unbusy_iseq (c : Cell) (d : Nat) : (c.unbusy d).iseq = c.iseq := rfl
@[simp] theorem Cell.unbusy_readyAt (c : Cell) (d : Nat) : (c.unbusy d).readyAt = c.readyAt := rfl
@[simp] theorem Cell.unbusy_startAt (c : Cell) (d : Nat) : (c.unbusy d).startAt = c.startAt := rfl
@[simp] theorem Cell.unbusy_wait (c : Cell) (d : Nat) : (c.unbusy d).wait = c.wait := rfl
@[simp] theorem Cell.unbusy_sleepAt (c : Cell) (d : Nat) : (c.unbusy d).sleepAt = c.sleepAt := rfl
@[simp] theorem Cell.unbusy_waitAt (c : Cell) (d : Nat) : (c.unbusy d).waitAt = c.waitAt := rfl
@[simp] theorem Cell.unbusy_wdSent (c : Cell) (d : Nat) : (c.unbusy d).wdSent = c.wdSent := rfl
@[simp] theorem Cell.unbusy_step (c : Cell) (d : Nat) : (c.unbusy d).step = c.step := rfl
@[simp] theorem Cell.unbusy_bpSkip (c : Cell) (d : Nat) : (c.unbusy d).bpSkip = c.bpSkip := rfl
@[simp] theorem Cell.unbusy_rmParkReq (c : Cell) (d : Nat) : (c.unbusy d).rmParkReq = c.rmParkReq := rfl
@[simp] theorem Cell.unbusy_abortReq (c : Cell) (d : Nat) : (c.unbusy d).abortReq = c.abortReq := rfl
@[simp] theorem Cell.unbusy_parkWait (c : Cell) (d : Nat) : (c.unbusy d).parkWait = c.parkWait := rfl
@[simp] theorem Cell.unbusy_bind (c : Cell) (d : Nat) : (c.unbusy d).bind = c.bind := rfl
@[simp] theorem Cell.unbusy_ins (c : Cell) (d : Nat) : (c.unbusy d).ins = c.ins := rfl
@[simp] theorem Cell.unbusy_outs (c : Cell) (d : Nat) : (c.unbusy d).outs = c.outs := rfl
@[simp] theorem Cell.unbusy_callq (c : Cell) (d : Nat) : (c.unbusy d).callq = c.callq := rfl
@[simp] theorem Cell.unbusy_phaseq (c : Cell) (d : Nat) : (c.unbusy d).phaseq = c.phaseq := rfl
@[simp] theorem Cell.unbusy_phaseOut (c : Cell) (d : Nat) : (c.unbusy d).phaseOut = c.phaseOut := rfl
@[simp] theorem Cell.unbusy_phaseSent (c : Cell) (d : Nat) : (c.unbusy d).phaseSent = c.phaseSent := rfl
@[simp] theorem Cell.unbusy_acks (c : Cell) (d : Nat) : (c.unbusy d).acks = c.acks := rfl
@[simp] theorem Cell.unbusy_chain (c : Cell) (d : Nat) : (c.unbusy d).chain = c.chain := rfl
@[simp] theorem Cell.unbusy_flushes (c : Cell) (d : Nat) : (c.unbusy d).flushes = c.flushes := rfl
@[simp] theorem Cell.unbusy_rewinds (c : Cell) (d : Nat) : (c.unbusy d).rewinds = c.rewinds := rfl
@[simp] theorem Cell.unbusy_qreq (c : Cell) (d : Nat) : (c.unbusy d).qreq = c.qreq := rfl
@[simp] theorem Cell.unbusy_qcut (c : Cell) (d : Nat) : (c.unbusy d).qcut = c.qcut := rfl
@[simp] theorem Cell.unbusy_phaseD (c : Cell) (d : Nat) : (c.unbusy d).phaseD = c.phaseD := rfl
@[simp] theorem Cell.unbusy_borrows (c : Cell) (d : Nat) : (c.unbusy d).borrows = c.borrows := rfl
@[simp] theorem Cell.unbusy_phaseEnd (c : Cell) (d : Nat) : (c.unbusy d).phaseEnd = c.phaseEnd := rfl
@[simp] theorem Cell.unbusy_sems (c : Cell) (d : Nat) : (c.unbusy d).sems = c.sems := rfl
@[simp] theorem Cell.unbusy_semInit (c : Cell) (d : Nat) : (c.unbusy d).semInit = c.semInit := rfl
@[simp] theorem Cell.unbusy_eagh (c : Cell) (d : Nat) : (c.unbusy d).eagh = c.eagh := rfl
@[simp] theorem Cell.unbusy_eagRun (c : Cell) (d : Nat) : (c.unbusy d).eagRun = c.eagRun := rfl
@[simp] theorem Cell.unbusy_copies (c : Cell) (d : Nat) : (c.unbusy d).copies = c.copies := rfl
@[simp] theorem Cell.unbusy_eagReads (c : Cell) (d : Nat) : (c.unbusy d).eagReads = c.eagReads := rfl
@[simp] theorem Cell.unbusy_accs (c : Cell) (d : Nat) : (c.unbusy d).accs = c.accs := rfl
@[simp] theorem Cell.unbusy_tlb (c : Cell) (d : Nat) : (c.unbusy d).tlb = c.tlb := rfl
@[simp] theorem Cell.unbusy_missing (c : Cell) (d : Nat) : (c.unbusy d).missing = c.missing := rfl
@[simp] theorem Cell.unbusy_refused (c : Cell) (d : Nat) : (c.unbusy d).refused = c.refused := rfl
@[simp] theorem Cell.unbusy_pendingReads (c : Cell) (d : Nat) : (c.unbusy d).pendingReads = c.pendingReads := rfl
@[simp] theorem Cell.unbusy_savedCopies (c : Cell) (d : Nat) : (c.unbusy d).savedCopies = c.savedCopies := rfl
@[simp] theorem Cell.unbusy_calls (c : Cell) (d : Nat) : (c.unbusy d).calls = c.calls := rfl
@[simp] theorem Cell.unbusy_ptests (c : Cell) (d : Nat) : (c.unbusy d).ptests = c.ptests := rfl
@[simp] theorem Cell.unbusy_wdog (c : Cell) (d : Nat) : (c.unbusy d).wdog = c.wdog := rfl
@[simp] theorem Cell.unbusy_rplReg (c : Cell) (d : Nat) : (c.unbusy d).rplReg = c.rplReg := rfl
@[simp] theorem Cell.unbusy_rpl (c : Cell) (d : Nat) : (c.unbusy d).rpl = c.rpl := rfl
@[simp] theorem Cell.unbusy_replays (c : Cell) (d : Nat) : (c.unbusy d).replays = c.replays := rfl
@[simp] theorem Cell.unbusy_nonReplay (c : Cell) (d : Nat) : (c.unbusy d).nonReplay = c.nonReplay := rfl
@[simp] theorem Cell.unbusy_sinkPending (c : Cell) (d : Nat) : (c.unbusy d).sinkPending = c.sinkPending := rfl
@[simp] theorem Cell.unbusy_ckpt (c : Cell) (d : Nat) : (c.unbusy d).ckpt = c.ckpt := rfl
@[simp] theorem Cell.unbusy_lanes (c : Cell) (d : Nat) : (c.unbusy d).lanes = c.lanes := rfl
@[simp] theorem Cell.unbusy_laneTag (c : Cell) (d : Nat) : (c.unbusy d).laneTag = c.laneTag := rfl
@[simp] theorem Cell.unbusy_vec (c : Cell) (d : Nat) : (c.unbusy d).vec = c.vec := rfl
@[simp] theorem Cell.unbusy_mat (c : Cell) (d : Nat) : (c.unbusy d).mat = c.mat := rfl
@[simp] theorem Cell.unbusy_agents (c : Cell) (d : Nat) : (c.unbusy d).agents = c.agents := rfl
@[simp] theorem Cell.unbusy_dbg (c : Cell) (d : Nat) : (c.unbusy d).dbg = c.dbg := rfl
@[simp] theorem Cell.setReg_st (c : Cell) (n : Nat) (v : Val) : (c.setReg n v).st = c.st := by
  unfold Cell.setReg; split <;> rfl
@[simp] theorem Cell.setReg_heldSt (c : Cell) (n : Nat) (v : Val) : (c.setReg n v).heldSt = c.heldSt := by
  unfold Cell.setReg; split <;> rfl
@[simp] theorem Cell.setReg_pcause (c : Cell) (n : Nat) (v : Val) : (c.setReg n v).pcause = c.pcause := by
  unfold Cell.setReg; split <;> rfl
@[simp] theorem Cell.setReg_ident (c : Cell) (n : Nat) (v : Val) : (c.setReg n v).ident = c.ident := by
  unfold Cell.setReg; split <;> rfl
@[simp] theorem Cell.setReg_ha (c : Cell) (n : Nat) (v : Val) : (c.setReg n v).ha = c.ha := by
  unfold Cell.setReg; split <;> rfl
@[simp] theorem Cell.setReg_hb (c : Cell) (n : Nat) (v : Val) : (c.setReg n v).hb = c.hb := by
  unfold Cell.setReg; split <;> rfl
@[simp] theorem Cell.setReg_page (c : Cell) (n : Nat) (v : Val) : (c.setReg n v).page = c.page := by
  unfold Cell.setReg; split <;> rfl
@[simp] theorem Cell.setReg_last (c : Cell) (n : Nat) (v : Val) : (c.setReg n v).last = c.last := by
  unfold Cell.setReg; split <;> rfl
@[simp] theorem Cell.setReg_runSince (c : Cell) (n : Nat) (v : Val) : (c.setReg n v).runSince = c.runSince := by
  unfold Cell.setReg; split <;> rfl
theorem Cell.setReg_g (c : Cell) (n : Nat) (v : Val) : (c.setReg n v).g = if n = 0 then c.g else SMap.put c.g n v := by
  unfold Cell.setReg; split <;> rfl
@[simp] theorem Cell.setReg_kept (c : Cell) (n : Nat) (v : Val) : (c.setReg n v).kept = c.kept := by
  unfold Cell.setReg; split <;> rfl
@[simp] theorem Cell.setReg_pc (c : Cell) (n : Nat) (v : Val) : (c.setReg n v).pc = c.pc := by
  unfold Cell.setReg; split <;> rfl
@[simp] theorem Cell.setReg_istore (c : Cell) (n : Nat) (v : Val) : (c.setReg n v).istore = c.istore := by
  unfold Cell.setReg; split <;> rfl
@[simp] theorem Cell.setReg_store (c : Cell) (n : Nat) (v : Val) : (c.setReg n v).store = c.store := by
  unfold Cell.setReg; split <;> rfl
@[simp] theorem Cell.setReg_storePoison (c : Cell) (n : Nat) (v : Val) : (c.setReg n v).storePoison = c.storePoison := by
  unfold Cell.setReg; split <;> rfl
@[simp] theorem Cell.setReg_upsets (c : Cell) (n : Nat) (v : Val) : (c.setReg n v).upsets = c.upsets := by
  unfold Cell.setReg; split <;> rfl
@[simp] theorem Cell.setReg_writes (c : Cell) (n : Nat) (v : Val) : (c.setReg n v).writes = c.writes := by
  unfold Cell.setReg; split <;> rfl
@[simp] theorem Cell.setReg_priors (c : Cell) (n : Nat) (v : Val) : (c.setReg n v).priors = c.priors := by
  unfold Cell.setReg; split <;> rfl
@[simp] theorem Cell.setReg_slots (c : Cell) (n : Nat) (v : Val) : (c.setReg n v).slots = c.slots := by
  unfold Cell.setReg; split <;> rfl
@[simp] theorem Cell.setReg_faults (c : Cell) (n : Nat) (v : Val) : (c.setReg n v).faults = c.faults := by
  unfold Cell.setReg; split <;> rfl
@[simp] theorem Cell.setReg_heldFault (c : Cell) (n : Nat) (v : Val) : (c.setReg n v).heldFault = c.heldFault := by
  unfold Cell.setReg; split <;> rfl
@[simp] theorem Cell.setReg_sys (c : Cell) (n : Nat) (v : Val) : (c.setReg n v).sys = c.sys := by
  unfold Cell.setReg; split <;> rfl
@[simp] theorem Cell.setReg_fired (c : Cell) (n : Nat) (v : Val) : (c.setReg n v).fired = c.fired := by
  unfold Cell.setReg; split <;> rfl
@[simp] theorem Cell.setReg_arrivals (c : Cell) (n : Nat) (v : Val) : (c.setReg n v).arrivals = c.arrivals := by
  unfold Cell.setReg; split <;> rfl
@[simp] theorem Cell.setReg_arrLost (c : Cell) (n : Nat) (v : Val) : (c.setReg n v).arrLost = c.arrLost := by
  unfold Cell.setReg; split <;> rfl
@[simp] theorem Cell.setReg_busy (c : Cell) (n : Nat) (v : Val) : (c.setReg n v).busy = c.busy := by
  unfold Cell.setReg; split <;> rfl
@[simp] theorem Cell.setReg_iseq (c : Cell) (n : Nat) (v : Val) : (c.setReg n v).iseq = c.iseq := by
  unfold Cell.setReg; split <;> rfl
@[simp] theorem Cell.setReg_readyAt (c : Cell) (n : Nat) (v : Val) : (c.setReg n v).readyAt = c.readyAt := by
  unfold Cell.setReg; split <;> rfl
@[simp] theorem Cell.setReg_startAt (c : Cell) (n : Nat) (v : Val) : (c.setReg n v).startAt = c.startAt := by
  unfold Cell.setReg; split <;> rfl
@[simp] theorem Cell.setReg_wait (c : Cell) (n : Nat) (v : Val) : (c.setReg n v).wait = c.wait := by
  unfold Cell.setReg; split <;> rfl
@[simp] theorem Cell.setReg_sleepAt (c : Cell) (n : Nat) (v : Val) : (c.setReg n v).sleepAt = c.sleepAt := by
  unfold Cell.setReg; split <;> rfl
@[simp] theorem Cell.setReg_waitAt (c : Cell) (n : Nat) (v : Val) : (c.setReg n v).waitAt = c.waitAt := by
  unfold Cell.setReg; split <;> rfl
@[simp] theorem Cell.setReg_wdSent (c : Cell) (n : Nat) (v : Val) : (c.setReg n v).wdSent = c.wdSent := by
  unfold Cell.setReg; split <;> rfl
@[simp] theorem Cell.setReg_step (c : Cell) (n : Nat) (v : Val) : (c.setReg n v).step = c.step := by
  unfold Cell.setReg; split <;> rfl
@[simp] theorem Cell.setReg_bpSkip (c : Cell) (n : Nat) (v : Val) : (c.setReg n v).bpSkip = c.bpSkip := by
  unfold Cell.setReg; split <;> rfl
@[simp] theorem Cell.setReg_rmParkReq (c : Cell) (n : Nat) (v : Val) : (c.setReg n v).rmParkReq = c.rmParkReq := by
  unfold Cell.setReg; split <;> rfl
@[simp] theorem Cell.setReg_abortReq (c : Cell) (n : Nat) (v : Val) : (c.setReg n v).abortReq = c.abortReq := by
  unfold Cell.setReg; split <;> rfl
@[simp] theorem Cell.setReg_parkWait (c : Cell) (n : Nat) (v : Val) : (c.setReg n v).parkWait = c.parkWait := by
  unfold Cell.setReg; split <;> rfl
@[simp] theorem Cell.setReg_bind (c : Cell) (n : Nat) (v : Val) : (c.setReg n v).bind = c.bind := by
  unfold Cell.setReg; split <;> rfl
@[simp] theorem Cell.setReg_ins (c : Cell) (n : Nat) (v : Val) : (c.setReg n v).ins = c.ins := by
  unfold Cell.setReg; split <;> rfl
@[simp] theorem Cell.setReg_outs (c : Cell) (n : Nat) (v : Val) : (c.setReg n v).outs = c.outs := by
  unfold Cell.setReg; split <;> rfl
@[simp] theorem Cell.setReg_callq (c : Cell) (n : Nat) (v : Val) : (c.setReg n v).callq = c.callq := by
  unfold Cell.setReg; split <;> rfl
@[simp] theorem Cell.setReg_phaseq (c : Cell) (n : Nat) (v : Val) : (c.setReg n v).phaseq = c.phaseq := by
  unfold Cell.setReg; split <;> rfl
@[simp] theorem Cell.setReg_phaseOut (c : Cell) (n : Nat) (v : Val) : (c.setReg n v).phaseOut = c.phaseOut := by
  unfold Cell.setReg; split <;> rfl
@[simp] theorem Cell.setReg_phaseSent (c : Cell) (n : Nat) (v : Val) : (c.setReg n v).phaseSent = c.phaseSent := by
  unfold Cell.setReg; split <;> rfl
@[simp] theorem Cell.setReg_acks (c : Cell) (n : Nat) (v : Val) : (c.setReg n v).acks = c.acks := by
  unfold Cell.setReg; split <;> rfl
@[simp] theorem Cell.setReg_chain (c : Cell) (n : Nat) (v : Val) : (c.setReg n v).chain = c.chain := by
  unfold Cell.setReg; split <;> rfl
@[simp] theorem Cell.setReg_flushes (c : Cell) (n : Nat) (v : Val) : (c.setReg n v).flushes = c.flushes := by
  unfold Cell.setReg; split <;> rfl
@[simp] theorem Cell.setReg_rewinds (c : Cell) (n : Nat) (v : Val) : (c.setReg n v).rewinds = c.rewinds := by
  unfold Cell.setReg; split <;> rfl
@[simp] theorem Cell.setReg_qreq (c : Cell) (n : Nat) (v : Val) : (c.setReg n v).qreq = c.qreq := by
  unfold Cell.setReg; split <;> rfl
@[simp] theorem Cell.setReg_qcut (c : Cell) (n : Nat) (v : Val) : (c.setReg n v).qcut = c.qcut := by
  unfold Cell.setReg; split <;> rfl
@[simp] theorem Cell.setReg_phaseD (c : Cell) (n : Nat) (v : Val) : (c.setReg n v).phaseD = c.phaseD := by
  unfold Cell.setReg; split <;> rfl
@[simp] theorem Cell.setReg_borrows (c : Cell) (n : Nat) (v : Val) : (c.setReg n v).borrows = c.borrows := by
  unfold Cell.setReg; split <;> rfl
@[simp] theorem Cell.setReg_phaseEnd (c : Cell) (n : Nat) (v : Val) : (c.setReg n v).phaseEnd = c.phaseEnd := by
  unfold Cell.setReg; split <;> rfl
@[simp] theorem Cell.setReg_sems (c : Cell) (n : Nat) (v : Val) : (c.setReg n v).sems = c.sems := by
  unfold Cell.setReg; split <;> rfl
@[simp] theorem Cell.setReg_semInit (c : Cell) (n : Nat) (v : Val) : (c.setReg n v).semInit = c.semInit := by
  unfold Cell.setReg; split <;> rfl
@[simp] theorem Cell.setReg_eagh (c : Cell) (n : Nat) (v : Val) : (c.setReg n v).eagh = c.eagh := by
  unfold Cell.setReg; split <;> rfl
@[simp] theorem Cell.setReg_eagRun (c : Cell) (n : Nat) (v : Val) : (c.setReg n v).eagRun = c.eagRun := by
  unfold Cell.setReg; split <;> rfl
@[simp] theorem Cell.setReg_copies (c : Cell) (n : Nat) (v : Val) : (c.setReg n v).copies = c.copies := by
  unfold Cell.setReg; split <;> rfl
@[simp] theorem Cell.setReg_eagReads (c : Cell) (n : Nat) (v : Val) : (c.setReg n v).eagReads = c.eagReads := by
  unfold Cell.setReg; split <;> rfl
@[simp] theorem Cell.setReg_accs (c : Cell) (n : Nat) (v : Val) : (c.setReg n v).accs = c.accs := by
  unfold Cell.setReg; split <;> rfl
@[simp] theorem Cell.setReg_tlb (c : Cell) (n : Nat) (v : Val) : (c.setReg n v).tlb = c.tlb := by
  unfold Cell.setReg; split <;> rfl
@[simp] theorem Cell.setReg_missing (c : Cell) (n : Nat) (v : Val) : (c.setReg n v).missing = c.missing := by
  unfold Cell.setReg; split <;> rfl
@[simp] theorem Cell.setReg_refused (c : Cell) (n : Nat) (v : Val) : (c.setReg n v).refused = c.refused := by
  unfold Cell.setReg; split <;> rfl
@[simp] theorem Cell.setReg_pendingReads (c : Cell) (n : Nat) (v : Val) : (c.setReg n v).pendingReads = c.pendingReads := by
  unfold Cell.setReg; split <;> rfl
@[simp] theorem Cell.setReg_savedCopies (c : Cell) (n : Nat) (v : Val) : (c.setReg n v).savedCopies = c.savedCopies := by
  unfold Cell.setReg; split <;> rfl
@[simp] theorem Cell.setReg_calls (c : Cell) (n : Nat) (v : Val) : (c.setReg n v).calls = c.calls := by
  unfold Cell.setReg; split <;> rfl
@[simp] theorem Cell.setReg_ptests (c : Cell) (n : Nat) (v : Val) : (c.setReg n v).ptests = c.ptests := by
  unfold Cell.setReg; split <;> rfl
@[simp] theorem Cell.setReg_wdog (c : Cell) (n : Nat) (v : Val) : (c.setReg n v).wdog = c.wdog := by
  unfold Cell.setReg; split <;> rfl
@[simp] theorem Cell.setReg_rplReg (c : Cell) (n : Nat) (v : Val) : (c.setReg n v).rplReg = c.rplReg := by
  unfold Cell.setReg; split <;> rfl
@[simp] theorem Cell.setReg_rpl (c : Cell) (n : Nat) (v : Val) : (c.setReg n v).rpl = c.rpl := by
  unfold Cell.setReg; split <;> rfl
@[simp] theorem Cell.setReg_replays (c : Cell) (n : Nat) (v : Val) : (c.setReg n v).replays = c.replays := by
  unfold Cell.setReg; split <;> rfl
@[simp] theorem Cell.setReg_nonReplay (c : Cell) (n : Nat) (v : Val) : (c.setReg n v).nonReplay = c.nonReplay := by
  unfold Cell.setReg; split <;> rfl
@[simp] theorem Cell.setReg_sinkPending (c : Cell) (n : Nat) (v : Val) : (c.setReg n v).sinkPending = c.sinkPending := by
  unfold Cell.setReg; split <;> rfl
@[simp] theorem Cell.setReg_ckpt (c : Cell) (n : Nat) (v : Val) : (c.setReg n v).ckpt = c.ckpt := by
  unfold Cell.setReg; split <;> rfl
@[simp] theorem Cell.setReg_lanes (c : Cell) (n : Nat) (v : Val) : (c.setReg n v).lanes = c.lanes := by
  unfold Cell.setReg; split <;> rfl
@[simp] theorem Cell.setReg_laneTag (c : Cell) (n : Nat) (v : Val) : (c.setReg n v).laneTag = c.laneTag := by
  unfold Cell.setReg; split <;> rfl
@[simp] theorem Cell.setReg_vec (c : Cell) (n : Nat) (v : Val) : (c.setReg n v).vec = c.vec := by
  unfold Cell.setReg; split <;> rfl
@[simp] theorem Cell.setReg_mat (c : Cell) (n : Nat) (v : Val) : (c.setReg n v).mat = c.mat := by
  unfold Cell.setReg; split <;> rfl
@[simp] theorem Cell.setReg_agents (c : Cell) (n : Nat) (v : Val) : (c.setReg n v).agents = c.agents := by
  unfold Cell.setReg; split <;> rfl
@[simp] theorem Cell.setReg_dbg (c : Cell) (n : Nat) (v : Val) : (c.setReg n v).dbg = c.dbg := by
  unfold Cell.setReg; split <;> rfl
@[simp] theorem Cell.stStore_st (c : Cell) (a n v : Nat) (p : Bool) : (c.stStore a n v p).st = c.st := rfl
@[simp] theorem Cell.stStore_heldSt (c : Cell) (a n v : Nat) (p : Bool) : (c.stStore a n v p).heldSt = c.heldSt := rfl
@[simp] theorem Cell.stStore_pcause (c : Cell) (a n v : Nat) (p : Bool) : (c.stStore a n v p).pcause = c.pcause := rfl
@[simp] theorem Cell.stStore_ident (c : Cell) (a n v : Nat) (p : Bool) : (c.stStore a n v p).ident = c.ident := rfl
@[simp] theorem Cell.stStore_ha (c : Cell) (a n v : Nat) (p : Bool) : (c.stStore a n v p).ha = c.ha := rfl
@[simp] theorem Cell.stStore_hb (c : Cell) (a n v : Nat) (p : Bool) : (c.stStore a n v p).hb = c.hb := rfl
@[simp] theorem Cell.stStore_page (c : Cell) (a n v : Nat) (p : Bool) : (c.stStore a n v p).page = c.page := rfl
@[simp] theorem Cell.stStore_last (c : Cell) (a n v : Nat) (p : Bool) : (c.stStore a n v p).last = c.last := rfl
@[simp] theorem Cell.stStore_runSince (c : Cell) (a n v : Nat) (p : Bool) : (c.stStore a n v p).runSince = c.runSince := rfl
@[simp] theorem Cell.stStore_g (c : Cell) (a n v : Nat) (p : Bool) : (c.stStore a n v p).g = c.g := rfl
@[simp] theorem Cell.stStore_kept (c : Cell) (a n v : Nat) (p : Bool) : (c.stStore a n v p).kept = c.kept := rfl
@[simp] theorem Cell.stStore_pc (c : Cell) (a n v : Nat) (p : Bool) : (c.stStore a n v p).pc = c.pc := rfl
@[simp] theorem Cell.stStore_istore (c : Cell) (a n v : Nat) (p : Bool) : (c.stStore a n v p).istore = c.istore := rfl
@[simp] theorem Cell.stStore_store (c : Cell) (a n v : Nat) (p : Bool) : (c.stStore a n v p).store = c.store.write a n v := rfl
@[simp] theorem Cell.stStore_storePoison (c : Cell) (a n v : Nat) (p : Bool) : (c.stStore a n v p).storePoison = c.storePoison.fill p (a / 8) ((a + n - 1) / 8 - a / 8 + 1) := rfl
@[simp] theorem Cell.stStore_upsets (c : Cell) (a n v : Nat) (p : Bool) : (c.stStore a n v p).upsets = c.upsets.filter (fun x => !(decide (a / 8 ≤ x.1) && decide (x.1 ≤ (a + n - 1) / 8))) := rfl
@[simp] theorem Cell.stStore_writes (c : Cell) (a n v : Nat) (p : Bool) : (c.stStore a n v p).writes = c.writes := rfl
@[simp] theorem Cell.stStore_priors (c : Cell) (a n v : Nat) (p : Bool) : (c.stStore a n v p).priors = c.priors := rfl
@[simp] theorem Cell.stStore_slots (c : Cell) (a n v : Nat) (p : Bool) : (c.stStore a n v p).slots = c.slots := rfl
@[simp] theorem Cell.stStore_faults (c : Cell) (a n v : Nat) (p : Bool) : (c.stStore a n v p).faults = c.faults := rfl
@[simp] theorem Cell.stStore_heldFault (c : Cell) (a n v : Nat) (p : Bool) : (c.stStore a n v p).heldFault = c.heldFault := rfl
@[simp] theorem Cell.stStore_sys (c : Cell) (a n v : Nat) (p : Bool) : (c.stStore a n v p).sys = c.sys := rfl
@[simp] theorem Cell.stStore_fired (c : Cell) (a n v : Nat) (p : Bool) : (c.stStore a n v p).fired = c.fired := rfl
@[simp] theorem Cell.stStore_arrivals (c : Cell) (a n v : Nat) (p : Bool) : (c.stStore a n v p).arrivals = c.arrivals := rfl
@[simp] theorem Cell.stStore_arrLost (c : Cell) (a n v : Nat) (p : Bool) : (c.stStore a n v p).arrLost = c.arrLost := rfl
@[simp] theorem Cell.stStore_busy (c : Cell) (a n v : Nat) (p : Bool) : (c.stStore a n v p).busy = c.busy := rfl
@[simp] theorem Cell.stStore_iseq (c : Cell) (a n v : Nat) (p : Bool) : (c.stStore a n v p).iseq = c.iseq := rfl
@[simp] theorem Cell.stStore_readyAt (c : Cell) (a n v : Nat) (p : Bool) : (c.stStore a n v p).readyAt = c.readyAt := rfl
@[simp] theorem Cell.stStore_startAt (c : Cell) (a n v : Nat) (p : Bool) : (c.stStore a n v p).startAt = c.startAt := rfl
@[simp] theorem Cell.stStore_wait (c : Cell) (a n v : Nat) (p : Bool) : (c.stStore a n v p).wait = c.wait := rfl
@[simp] theorem Cell.stStore_sleepAt (c : Cell) (a n v : Nat) (p : Bool) : (c.stStore a n v p).sleepAt = c.sleepAt := rfl
@[simp] theorem Cell.stStore_waitAt (c : Cell) (a n v : Nat) (p : Bool) : (c.stStore a n v p).waitAt = c.waitAt := rfl
@[simp] theorem Cell.stStore_wdSent (c : Cell) (a n v : Nat) (p : Bool) : (c.stStore a n v p).wdSent = c.wdSent := rfl
@[simp] theorem Cell.stStore_step (c : Cell) (a n v : Nat) (p : Bool) : (c.stStore a n v p).step = c.step := rfl
@[simp] theorem Cell.stStore_bpSkip (c : Cell) (a n v : Nat) (p : Bool) : (c.stStore a n v p).bpSkip = c.bpSkip := rfl
@[simp] theorem Cell.stStore_rmParkReq (c : Cell) (a n v : Nat) (p : Bool) : (c.stStore a n v p).rmParkReq = c.rmParkReq := rfl
@[simp] theorem Cell.stStore_abortReq (c : Cell) (a n v : Nat) (p : Bool) : (c.stStore a n v p).abortReq = c.abortReq := rfl
@[simp] theorem Cell.stStore_parkWait (c : Cell) (a n v : Nat) (p : Bool) : (c.stStore a n v p).parkWait = c.parkWait := rfl
@[simp] theorem Cell.stStore_bind (c : Cell) (a n v : Nat) (p : Bool) : (c.stStore a n v p).bind = c.bind := rfl
@[simp] theorem Cell.stStore_ins (c : Cell) (a n v : Nat) (p : Bool) : (c.stStore a n v p).ins = c.ins := rfl
@[simp] theorem Cell.stStore_outs (c : Cell) (a n v : Nat) (p : Bool) : (c.stStore a n v p).outs = c.outs := rfl
@[simp] theorem Cell.stStore_callq (c : Cell) (a n v : Nat) (p : Bool) : (c.stStore a n v p).callq = c.callq := rfl
@[simp] theorem Cell.stStore_phaseq (c : Cell) (a n v : Nat) (p : Bool) : (c.stStore a n v p).phaseq = c.phaseq := rfl
@[simp] theorem Cell.stStore_phaseOut (c : Cell) (a n v : Nat) (p : Bool) : (c.stStore a n v p).phaseOut = c.phaseOut := rfl
@[simp] theorem Cell.stStore_phaseSent (c : Cell) (a n v : Nat) (p : Bool) : (c.stStore a n v p).phaseSent = c.phaseSent := rfl
@[simp] theorem Cell.stStore_acks (c : Cell) (a n v : Nat) (p : Bool) : (c.stStore a n v p).acks = c.acks := rfl
@[simp] theorem Cell.stStore_chain (c : Cell) (a n v : Nat) (p : Bool) : (c.stStore a n v p).chain = c.chain := rfl
@[simp] theorem Cell.stStore_flushes (c : Cell) (a n v : Nat) (p : Bool) : (c.stStore a n v p).flushes = c.flushes := rfl
@[simp] theorem Cell.stStore_rewinds (c : Cell) (a n v : Nat) (p : Bool) : (c.stStore a n v p).rewinds = c.rewinds := rfl
@[simp] theorem Cell.stStore_qreq (c : Cell) (a n v : Nat) (p : Bool) : (c.stStore a n v p).qreq = c.qreq := rfl
@[simp] theorem Cell.stStore_qcut (c : Cell) (a n v : Nat) (p : Bool) : (c.stStore a n v p).qcut = c.qcut := rfl
@[simp] theorem Cell.stStore_phaseD (c : Cell) (a n v : Nat) (p : Bool) : (c.stStore a n v p).phaseD = c.phaseD := rfl
@[simp] theorem Cell.stStore_borrows (c : Cell) (a n v : Nat) (p : Bool) : (c.stStore a n v p).borrows = c.borrows := rfl
@[simp] theorem Cell.stStore_phaseEnd (c : Cell) (a n v : Nat) (p : Bool) : (c.stStore a n v p).phaseEnd = c.phaseEnd := rfl
@[simp] theorem Cell.stStore_sems (c : Cell) (a n v : Nat) (p : Bool) : (c.stStore a n v p).sems = c.sems := rfl
@[simp] theorem Cell.stStore_semInit (c : Cell) (a n v : Nat) (p : Bool) : (c.stStore a n v p).semInit = c.semInit := rfl
@[simp] theorem Cell.stStore_eagh (c : Cell) (a n v : Nat) (p : Bool) : (c.stStore a n v p).eagh = c.eagh := rfl
@[simp] theorem Cell.stStore_eagRun (c : Cell) (a n v : Nat) (p : Bool) : (c.stStore a n v p).eagRun = c.eagRun := rfl
@[simp] theorem Cell.stStore_copies (c : Cell) (a n v : Nat) (p : Bool) : (c.stStore a n v p).copies = c.copies := rfl
@[simp] theorem Cell.stStore_eagReads (c : Cell) (a n v : Nat) (p : Bool) : (c.stStore a n v p).eagReads = c.eagReads := rfl
@[simp] theorem Cell.stStore_accs (c : Cell) (a n v : Nat) (p : Bool) : (c.stStore a n v p).accs = c.accs := rfl
@[simp] theorem Cell.stStore_tlb (c : Cell) (a n v : Nat) (p : Bool) : (c.stStore a n v p).tlb = c.tlb := rfl
@[simp] theorem Cell.stStore_missing (c : Cell) (a n v : Nat) (p : Bool) : (c.stStore a n v p).missing = c.missing := rfl
@[simp] theorem Cell.stStore_refused (c : Cell) (a n v : Nat) (p : Bool) : (c.stStore a n v p).refused = c.refused := rfl
@[simp] theorem Cell.stStore_pendingReads (c : Cell) (a n v : Nat) (p : Bool) : (c.stStore a n v p).pendingReads = c.pendingReads := rfl
@[simp] theorem Cell.stStore_savedCopies (c : Cell) (a n v : Nat) (p : Bool) : (c.stStore a n v p).savedCopies = c.savedCopies := rfl
@[simp] theorem Cell.stStore_calls (c : Cell) (a n v : Nat) (p : Bool) : (c.stStore a n v p).calls = c.calls := rfl
@[simp] theorem Cell.stStore_ptests (c : Cell) (a n v : Nat) (p : Bool) : (c.stStore a n v p).ptests = c.ptests := rfl
@[simp] theorem Cell.stStore_wdog (c : Cell) (a n v : Nat) (p : Bool) : (c.stStore a n v p).wdog = c.wdog := rfl
@[simp] theorem Cell.stStore_rplReg (c : Cell) (a n v : Nat) (p : Bool) : (c.stStore a n v p).rplReg = c.rplReg := rfl
@[simp] theorem Cell.stStore_rpl (c : Cell) (a n v : Nat) (p : Bool) : (c.stStore a n v p).rpl = c.rpl := rfl
@[simp] theorem Cell.stStore_replays (c : Cell) (a n v : Nat) (p : Bool) : (c.stStore a n v p).replays = c.replays := rfl
@[simp] theorem Cell.stStore_nonReplay (c : Cell) (a n v : Nat) (p : Bool) : (c.stStore a n v p).nonReplay = c.nonReplay := rfl
@[simp] theorem Cell.stStore_sinkPending (c : Cell) (a n v : Nat) (p : Bool) : (c.stStore a n v p).sinkPending = c.sinkPending := rfl
@[simp] theorem Cell.stStore_ckpt (c : Cell) (a n v : Nat) (p : Bool) : (c.stStore a n v p).ckpt = c.ckpt := rfl
@[simp] theorem Cell.stStore_lanes (c : Cell) (a n v : Nat) (p : Bool) : (c.stStore a n v p).lanes = c.lanes := rfl
@[simp] theorem Cell.stStore_laneTag (c : Cell) (a n v : Nat) (p : Bool) : (c.stStore a n v p).laneTag = c.laneTag := rfl
@[simp] theorem Cell.stStore_vec (c : Cell) (a n v : Nat) (p : Bool) : (c.stStore a n v p).vec = c.vec := rfl
@[simp] theorem Cell.stStore_mat (c : Cell) (a n v : Nat) (p : Bool) : (c.stStore a n v p).mat = c.mat := rfl
@[simp] theorem Cell.stStore_agents (c : Cell) (a n v : Nat) (p : Bool) : (c.stStore a n v p).agents = c.agents := rfl
@[simp] theorem Cell.stStore_dbg (c : Cell) (a n v : Nat) (p : Bool) : (c.stStore a n v p).dbg = c.dbg := rfl

/-! ### Reading a register, a slot, a semaphore or an endpoint after an update -/

/-- g0 reads the clean zero (R60). -/
@[simp] theorem Cell.reg_zero (c : Cell) : c.reg 0 = Val.zero := rfl

theorem Cell.reg_setReg (c : Cell) (n j : Nat) (v : Val) :
    (c.setReg n v).reg j = if n = j ∧ n ≠ 0 then v else c.reg j := by
  unfold Cell.setReg
  by_cases hn : n = 0
  · simp [hn]
  · by_cases hj : j = 0
    · subst hj; simp [hn, Cell.reg]
    · simp [hn, Cell.reg, hj, SMap.get_put]

theorem Cell.slot_setSlot (c : Cell) (i j : Nat) (x : SlotState) :
    (c.setSlot i x).slot j = if i = j then x else c.slot j := SMap.get_put _ _ _ _ _

theorem Cell.sem_setSem (c : Cell) (i j : Nat) (x : Sem) :
    (c.setSem i x).sem j = if i = j then x else c.sem j := SMap.get_put _ _ _ _ _

theorem Cell.inEp_setIn (c : Cell) (i j : Nat) (x : InEp) :
    (c.setIn i x).inEp j = if i = j then x else c.inEp j := SMap.get_put _ _ _ _ _

theorem Cell.outEp_setOut (c : Cell) (i j : Nat) (x : OutEp) :
    (c.setOut i x).outEp j = if i = j then x else c.outEp j := SMap.get_put _ _ _ _ _

theorem Cell.code_setCode (c : Cell) (i j : Nat) (w : Word) :
    (c.setCode i w).code j = if i = j then w else c.code j := SMap.get_set _ _ _ _ _

/-- Which registers the updates of other fields leave alone. -/
@[simp] theorem Cell.reg_setSlot (c : Cell) (j n : Nat) (x : SlotState) : (c.setSlot j x).reg n = c.reg n := rfl
@[simp] theorem Cell.reg_setSem (c : Cell) (j n : Nat) (x : Sem) : (c.setSem j x).reg n = c.reg n := rfl
@[simp] theorem Cell.reg_setIn (c : Cell) (j n : Nat) (x : InEp) : (c.setIn j x).reg n = c.reg n := rfl
@[simp] theorem Cell.reg_setOut (c : Cell) (j n : Nat) (x : OutEp) : (c.setOut j x).reg n = c.reg n := rfl
@[simp] theorem Cell.reg_stStore (c : Cell) (a m v : Nat) (p : Bool) (n : Nat) : (c.stStore a m v p).reg n = c.reg n := rfl
@[simp] theorem Cell.slot_setReg (c : Cell) (n j : Nat) (v : Val) : (c.setReg n v).slot j = c.slot j := by
  simp [Cell.slot]
@[simp] theorem Cell.sem_setReg (c : Cell) (n j : Nat) (v : Val) : (c.setReg n v).sem j = c.sem j := by
  simp [Cell.sem]
@[simp] theorem Cell.inEp_setReg (c : Cell) (n j : Nat) (v : Val) : (c.setReg n v).inEp j = c.inEp j := by
  simp [Cell.inEp]
@[simp] theorem Cell.outEp_setReg (c : Cell) (n j : Nat) (v : Val) : (c.setReg n v).outEp j = c.outEp j := by
  simp [Cell.outEp]

end Sys2Proof.Machine
end

