-- ==== Sys2Proof/Laws/Issue.lean ====
section
/-! SUPPORT. The issue of an instruction to which nothing stands in the way: its body alone decides. -/

namespace Sys2Proof.Machine

open Sys2Proof

/-- No breakpoint or watchpoint stops a cell without any. -/
theorem Cell.hardBreak_none {c : Cell} (h : c.NoBreaks) (w : Option Watched) : c.hardBreak w = none := by
  have hb : c.breakpoint = none := by
    simp only [Cell.breakpoint, List.find?_eq_none]
    intro n hn
    have : n = 0 ∨ n = 1 ∨ n = 2 ∨ n = 3 := by simp [upto] at hn; omega
    have e := h n (by rcases this with rfl | rfl | rfl | rfl <;> simp)
    simp only [e]; simp
  have hw : ∀ w, c.watchBreak w = none := by
    intro w
    simp only [Cell.watchBreak, List.find?_eq_none]
    intro n hn
    have : n = 0 ∨ n = 1 := by simp [upto] at hn; omega
    have e := h (4 + 4 * n) (by rcases this with rfl | rfl <;> simp)
    simp only [Cell.watchMatch, e]; simp
  unfold Cell.hardBreak
  cases w <;> simp [hb, hw]

theorem and_zero_of_or {a b p : BitVec 8} (h : (a ||| b) &&& p = 0) : a &&& p = 0 := by
  apply BitVec.eq_of_getLsbD_eq
  intro j hj
  have e := congrArg (fun x => x.getLsbD j) h
  simp only [BitVec.getLsbD_and, BitVec.getLsbD_or] at e ⊢
  cases ha : a.getLsbD j <;> simp_all

/-- The outcome of a body at the issue. -/
def issued (i : Instr) (h : Hdr) (s : State) (r : Res) : State :=
  match r with
  | .ok f => commit s.cur h s.atIssue.now f
  | .error e => stopped i s.cur s.atIssue s.me e

/-- What an issue can do when nothing stands before it: the body commits, or it stops. -/
theorem issue_ready {i : Instr} {h : Hdr} {s : State} (r : s.Ready i h) (body : State → Cell → Res)
    (watch : State → Cell → Option Watched) :
    issue i h s body watch = .next (issued i h s (body s.atIssue s.me)) := by
  obtain ⟨r1, r2, r3, r4, r5, r6, r7, r8, r9⟩ := r
  simp only [State.me] at *
  have n1 : ¬((s.cell s.cur).st ≠ .running ∧ (s.cell s.cur).st ≠ .asleep) := by
    rintro ⟨a, b⟩; rcases r1 with r1 | r1 <;> contradiction
  have wm : h.wm &&& (s.cell s.cur).pendingMask = 0 := by
    unfold namedSlots at r3
    split at r3
    · exact and_zero_of_or r3
    · exact r3
  have nn : ¬((s.cell s.cur).inHandler = true ∧ namedSlots h &&& (s.cell s.cur).faultedMask ≠ 0) := fun ⟨a, b⟩ => b (r4 a)
  have nf : (if (s.cell s.cur).inHandler then none else (s.cell s.cur).faultFor (namedSlots h) (Instr.op i)) = none := by
    rcases r5 with r5 | r5 <;> simp [r5]
  have n8 : ¬(toVectorQueue (Instr.op i) = false ∧ (s.cell s.cur).portsOf (Instr.word i) &&& (s.cell s.cur).vports ≠ 0) := by
    rintro ⟨a, b⟩; rcases r8 with r8 | r8 <;> simp_all
  have n9 : ¬((upto 8).any (fun p => ((s.cell s.cur).portsOf (Instr.word i)).getLsbD p && s.atIssue.portBusy s.cur p) = true) :=
    fun a => Bool.noConfusion (r9.symm.trans a)
  unfold issue
  unfold namedSlots at nn nf r3
  simp only [State.atIssue, State.me] at n9
  rw [if_neg n1]
  simp only [Cell.hardBreak_none r2]
  rw [if_neg (by simpa using wm), if_neg nn]
  simp only [nf, r6, r7]
  rw [if_neg (by simpa using r3), if_neg (by simp), if_neg (by simp), if_neg n8, if_neg n9]
  simp only [issued, State.atIssue, State.me]
  split <;> simp_all

/-- A body that completes at once retires the instruction. -/
theorem commit_retire (h : Hdr) (s : State) (c : Cell) :
    commit s.cur h s.atIssue.now { s := s.atIssue, c } = s.retire h c := by
  simp only [commit, State.retire, Cell.retired]
  cases h.ee <;> rfl

/-- A body that completes with a token to come. -/
theorem commit_retireAsync (h : Hdr) (s : State) (c : Cell) :
    commit s.cur h s.atIssue.now { s := s.atIssue, c, async := true } = s.retireAsync h c := by
  simp only [commit, State.retireAsync, Cell.retired]
  cases h.ee <;> rfl

/-- A body that goes on elsewhere. -/
theorem commit_retireTo (h : Hdr) (s : State) (c : Cell) (t n : Nat) :
    commit s.cur h s.atIssue.now { s := s.atIssue, c, jump := some t, cost := n } = s.retireTo h c t n := by
  simp only [commit, State.retireTo, Cell.retired]
  cases h.ee <;> rfl

end Sys2Proof.Machine
end

