-- ==== Sys2Proof/Laws/Ops.lean ====
section
/-! SUPPORT. What each shared operation of Machine/Ops.lean can change, said once: the operation is an update of the named fields and
of nothing else. -/

namespace Sys2Proof.Machine

open Sys2Proof

/-! ### Fault queues, trace, parks -/

/-- A record changes its row's fault queue alone: it is appended, or its loss is noted. -/
theorem State.record_spec (s : State) (row kind : Nat) (dom : BitVec 12) (cell detail : Nat) (value : Word) :
    ∃ fq lost, s.record row kind dom cell detail value = s.setRow row { s.row row with fq := fq, fqLost := lost } ∧
      (fq = (s.row row).fq ∨ ∃ w, fq = (s.row row).fq ++ [(w, value)]) := by
  unfold State.record
  dsimp only
  split
  · exact ⟨_, _, rfl, .inr ⟨_, rfl⟩⟩
  · exact ⟨_, _, rfl, .inl rfl⟩

/-- A trace record changes its row's buffer alone. -/
theorem State.pushTrace_spec (s : State) (row type src : Nat) (dom : BitVec 12) (w1 : Word) :
    ∃ tr n, s.pushTrace row type src dom w1 = s.setRow row { s.row row with trace := tr, traceLost := n } := by
  unfold State.pushTrace
  by_cases h : (s.row row).traceLost = 0 <;> simp only [h, if_true, if_false] <;> split <;> exact ⟨_, _, rfl⟩

/-- A cell's trace record changes its row's buffer alone, if anything. -/
theorem State.trace_spec (s : State) (k type : Nat) (w1 : Word) :
    s.trace k type w1 = s ∨
      ∃ tr n, s.trace k type w1 = s.setRow (k / 512) { s.row (k / 512) with trace := tr, traceLost := n } := by
  unfold State.trace
  dsimp only
  split
  · exact .inr (State.pushTrace_spec ..)
  · exact .inl rfl

/-- A park writes the cell and its row's fault queue. -/
theorem State.park_spec (s : State) (k : Nat) (c : Cell) (why : PCause) (cause : BitVec 8) (tval : Word) :
    ∃ fq lost, s.park k c why cause tval =
      (s.setCell k { c with st := .parked, heldSt := c.st, pcause := why, rmParkReq := false, parkWait := none, refused := none }).setRow (yOf k)
        { s.row (yOf k) with fq := fq, fqLost := lost } := by
  obtain ⟨fq, lost, h, -⟩ := State.record_spec
    (s.setCell k { c with st := .parked, heldSt := c.st, pcause := why, rmParkReq := false, parkWait := none, refused := none })
    (yOf k) (if why = .sink then 2 else 1) c.ident.dom k (why.code * 2 ^ 21 + c.pc % 2048 * 2 ^ 10 + cause.toNat) tval
  exact ⟨fq, lost, h⟩

/-- Entering a handler: the cell parks inside a handler, or without a valid handler; otherwise only the cell changes, and goes on at
the handler with its slots of the record IDLE. -/
theorem State.enter_spec (s : State) (k : Nat) (c : Cell) (n : Nat) (r : TrapRec) :
    (c.inHandler = true ∧ s.enter k c n r = s.park k c .nested r.cause r.tval) ∨
    (c.inHandler = false ∧ (c.haOf n).getLsbD 16 = false ∧ s.enter k c n r = s.park k c .noHandler r.cause r.tval) ∨
    (c.inHandler = false ∧ (c.haOf n).getLsbD 16 = true ∧ s.enter k c n r = s.setCell k { c.idleSlots r.slots with
      st := .running, wait := none, step := 0, bpSkip := false, refused := none, pc := field ((c.idleSlots r.slots).haOf n) 0 11, readyAt := s.now + 3
      sys := { (c.idleSlots r.slots).sys with
        trap := r.pack (c.idleSlots r.slots).sys.entry, tpc := BitVec.ofNat 11 r.tpc, tval := r.tval
        intrap := (c.idleSlots r.slots).sys.entry ≠ 31, entry := BitVec.ofNat 5 n } }) := by
  unfold State.enter
  by_cases h : c.inHandler = true
  · exact .inl ⟨h, by rw [if_pos h]⟩
  · have h' : c.inHandler = false := by simpa using h
    rw [if_neg h]
    by_cases e : (c.haOf n).getLsbD 16 = false
    · exact .inr (.inl ⟨h', e, by rw [if_pos e]⟩)
    · exact .inr (.inr ⟨h', by simpa using e, by rw [if_neg e]⟩)

/-- What setting slots IDLE leaves of a cell. -/
theorem Cell.idleSlots_spec (c : Cell) (m : BitVec 8) : ∃ sl, c.idleSlots m = { c with slots := sl } := by
  unfold Cell.idleSlots
  suffices h : ∀ (js : List Nat) (c : Cell), ∃ sl, js.foldl (fun c j => c.setSlot j .idle) c = { c with slots := sl } from h _ c
  intro js
  induction js with
  | nil => exact fun c => ⟨c.slots, rfl⟩
  | cons j js ih => exact fun c => (ih (c.setSlot j .idle)).imp fun _ h => h

/-! ### The module's memory and the cells beside it -/

@[simp] theorem State.record_mem (s : State) (row kind : Nat) (dom : BitVec 12) (cell detail : Nat) (value : Word) :
    (s.record row kind dom cell detail value).mem = s.mem := by
  obtain ⟨_, _, h, -⟩ := State.record_spec s row kind dom cell detail value; rw [h]; rfl
@[simp] theorem State.record_cells (s : State) (row kind : Nat) (dom : BitVec 12) (cell detail : Nat) (value : Word) :
    (s.record row kind dom cell detail value).cells = s.cells := by
  obtain ⟨_, _, h, -⟩ := State.record_spec s row kind dom cell detail value; rw [h]; rfl
@[simp] theorem State.record_cell (s : State) (row kind : Nat) (dom : BitVec 12) (cell detail : Nat) (value : Word) (k : Nat) :
    (s.record row kind dom cell detail value).cell k = s.cell k := by simp [State.cell]
@[simp] theorem State.pushTrace_mem (s : State) (row type src : Nat) (dom : BitVec 12) (w1 : Word) :
    (s.pushTrace row type src dom w1).mem = s.mem := by
  obtain ⟨_, _, h⟩ := State.pushTrace_spec s row type src dom w1; rw [h]; rfl
@[simp] theorem State.pushTrace_cells (s : State) (row type src : Nat) (dom : BitVec 12) (w1 : Word) :
    (s.pushTrace row type src dom w1).cells = s.cells := by
  obtain ⟨_, _, h⟩ := State.pushTrace_spec s row type src dom w1; rw [h]; rfl
@[simp] theorem State.trace_mem (s : State) (k type : Nat) (w1 : Word) : (s.trace k type w1).mem = s.mem := by
  rcases State.trace_spec s k type w1 with h | ⟨_, _, h⟩ <;> rw [h]; rfl
@[simp] theorem State.trace_cells (s : State) (k type : Nat) (w1 : Word) : (s.trace k type w1).cells = s.cells := by
  rcases State.trace_spec s k type w1 with h | ⟨_, _, h⟩ <;> rw [h]; rfl
@[simp] theorem State.trace_cell (s : State) (k type : Nat) (w1 : Word) (j : Nat) : (s.trace k type w1).cell j = s.cell j := by
  simp [State.cell]
@[simp] theorem State.park_mem (s : State) (k : Nat) (c : Cell) (why : PCause) (cause : BitVec 8) (tval : Word) :
    (s.park k c why cause tval).mem = s.mem := by simp [State.park]
/-- A park gives the cell its park state and leaves every other cell. -/
theorem State.park_cell (s : State) (k j : Nat) (c : Cell) (why : PCause) (cause : BitVec 8) (tval : Word) :
    (s.park k c why cause tval).cell j = if k = j then
      { c with st := .parked, heldSt := c.st, pcause := why, rmParkReq := false, parkWait := none, refused := none } else s.cell j := by
  unfold State.park
  rw [State.record_cell]
  by_cases h : k = j
  · subst h; rw [State.cell_setCell, if_pos rfl]
  · rw [State.cell_setCell_ne _ _ h, if_neg h]
@[simp] theorem State.enter_mem (s : State) (k : Nat) (c : Cell) (n : Nat) (r : TrapRec) : (s.enter k c n r).mem = s.mem := by
  rcases State.enter_spec s k c n r with ⟨-, h⟩ | ⟨-, -, h⟩ | ⟨-, -, h⟩ <;> simp [h]
/-- Entering a handler leaves every other cell. -/
theorem State.enter_cell_ne (s : State) (k : Nat) (c : Cell) (n : Nat) (r : TrapRec) {j : Nat} (hj : k ≠ j) :
    (s.enter k c n r).cell j = s.cell j := by
  rcases State.enter_spec s k c n r with ⟨-, h⟩ | ⟨-, -, h⟩ | ⟨-, -, h⟩ <;> rw [h]
  · rw [State.park_cell, if_neg hj]
  · rw [State.park_cell, if_neg hj]
  · exact State.cell_setCell_ne _ _ hj
@[simp] theorem State.trapHere_mem (s : State) (k : Nat) (c : Cell) (opb cause : BitVec 8) (tval : Word) :
    (s.trapHere k c opb cause tval).mem = s.mem := by simp [State.trapHere]
@[simp] theorem State.takeFault_mem (s : State) (k : Nat) (c : Cell) (r : FaultRec) : (s.takeFault k c r).mem = s.mem := by
  unfold State.takeFault
  extract_lets d
  split
  · exact State.park_mem ..
  · exact State.enter_mem ..
@[simp] theorem State.arrivalTrap_mem (s : State) (k : Nat) (cause : BitVec 8) (tval : Word) :
    (s.arrivalTrap k cause tval).mem = s.mem := by unfold State.arrivalTrap; simp only; split <;> simp
@[simp] theorem State.fail_mem (s : State) (k : Nat) (t : Tok) (cause : BitVec 8) (tval : Word) :
    (s.fail k t cause tval).mem = s.mem := by
  unfold State.fail
  simp only
  split
  · rfl
  · split
    · rfl
    · split <;> simp
@[simp] theorem State.pass_mem (s : State) (n : Nat) : (s.pass n).mem = s.mem := rfl
@[simp] theorem State.pass_cells (s : State) (n : Nat) : (s.pass n).cells = s.cells := rfl

/-! ### Rings and windows -/

/-- A refill loads the head buffer of its port. -/
theorem Cell.refill_spec (c : Cell) (i : Nat) : ∃ hb, c.refill i = c.setIn i { c.inEp i with hb := hb } := ⟨_, rfl⟩

/-- A pop changes the port, the times since which entries are runnable, the checkpoint's list of pops and, for a word of the cell's own
counter chain, whether the firing can be replayed. -/
theorem Cell.popHead_spec (c : Cell) (i : Nat) :
    ∃ ins rs b ps, c.popHead i =
      { c with ins := ins, runSince := rs, nonReplay := b, ckpt := { c.ckpt with pops := ps } } := by
  simp only [Cell.popHead, Cell.dropStale, Cell.refill, Cell.setIn]
  exact ⟨_, _, _, _, rfl⟩

/-- A store of a word changes the local store, its poison bits and its upsets, and keeps the store's form. -/
theorem Cell.stWord_spec (c : Cell) (a : Nat) (v : Val) :
    ∃ st sp us, c.stWord a v = { c with store := st, storePoison := sp, upsets := us } ∧ (c.store.wf = true → st.wf = true) :=
  ⟨_, _, _, rfl, Memory.wf_write _ _ _ _⟩

/-- Two words in a row. -/
theorem Cell.stWord_stWord_spec (c : Cell) (a b : Nat) (v w : Val) :
    ∃ st sp us, (c.stWord a v).stWord b w = { c with store := st, storePoison := sp, upsets := us } ∧
      (c.store.wf = true → st.wf = true) := by
  obtain ⟨st1, sp1, us1, e1, h1⟩ := c.stWord_spec a v
  obtain ⟨st2, sp2, us2, e2, h2⟩ := (c.stWord a v).stWord_spec b w
  rw [e1] at e2 h2 ⊢
  exact ⟨st2, sp2, us2, e2, fun h => h2 (h1 h)⟩

/-- A word that is stored in a ring changes its port and the two words of the slot at TAIL. -/
theorem Cell.storeWord_spec (c : Cell) (i : Nat) (src : Src) (w : QWord) :
    ∃ ins st sp us, c.storeWord i src w = { c with ins := ins, store := st, storePoison := sp, upsets := us } ∧
      (c.store.wf = true → st.wf = true) := by
  unfold Cell.storeWord
  extract_lets e a d
  obtain ⟨st, sp, us, h, hw⟩ := c.stWord_stWord_spec a (a + 8) ⟨w.v, w.p⟩ ⟨w.side, false⟩
  have hd : d = { c with store := st, storePoison := sp, upsets := us } := h
  rw [hd]
  exact ⟨_, st, sp, us, rfl, hw⟩

/-- A word that enters a window changes its port and its two words of the replay buffer. -/
theorem Cell.enterWindow_spec (c : Cell) (i : Nat) (v : Val) (tag : BitVec 3) (pos : BitVec 2) (len : BitVec 10) :
    ∃ outs st sp us, c.enterWindow i v tag pos len = { c with outs := outs, store := st, storePoison := sp, upsets := us } ∧
      (c.store.wf = true → st.wf = true) := by
  unfold Cell.enterWindow
  extract_lets e w a d
  split
  · exact ⟨_, c.store, c.storePoison, c.upsets, rfl, id⟩
  · obtain ⟨st, sp, us, h, hw⟩ := c.stWord_stWord_spec a (a + 8) v ⟨w.side, false⟩
    have hd : d = { c with store := st, storePoison := sp, upsets := us } := h
    rw [hd]
    exact ⟨_, st, sp, us, rfl, hw⟩

/-- Bringing the runnable times up to date changes nothing else. -/
theorem Cell.noteRunnable_spec (c : Cell) (now : Nat) : ∃ rs, c.noteRunnable now = { c with runSince := rs } := by
  unfold Cell.noteRunnable
  generalize upto 16 = is
  induction is generalizing c with
  | nil => exact ⟨c.runSince, rfl⟩
  | cons i is ih =>
    simp only [List.foldl_cons]
    split
    · split
      · exact ih c
      · exact ih { c with runSince := SMap.put c.runSince i now }
    · exact ih { c with runSince := SMap.erase c.runSince i }

/-- After an instruction, the runnable times alone may change. -/
theorem Cell.afterPops_spec (c old : Cell) (now : Nat) : ∃ rs, c.afterPops old now = { c with runSince := rs } := by
  unfold Cell.afterPops
  split
  · exact ⟨c.runSince, rfl⟩
  · exact c.noteRunnable_spec now

/-- They stand where no port has changed. -/
theorem Cell.afterPops_same {c old : Cell} (now : Nat) (h : c.ins = old.ins) : c.afterPops old now = c := by
  unfold Cell.afterPops; rw [if_pos h]

/-- Retiring changes ports and acknowledgements. -/
theorem Cell.retirePort_spec (c : Cell) (i : Nat) :
    ∃ ins ak, c.retirePort i = { c with ins := ins, acks := ak } := ⟨_, _, rfl⟩

theorem Cell.retireAll_spec (c : Cell) : ∃ ins ak, c.retireAll = { c with ins := ins, acks := ak } := by
  unfold Cell.retireAll
  suffices h : ∀ (is : List Nat) (c : Cell), ∃ ins ak, is.foldl Cell.retirePort c = { c with ins := ins, acks := ak } from h _ c
  intro is
  induction is with
  | nil => exact fun c => ⟨c.ins, c.acks, rfl⟩
  | cons i is ih => exact fun c => (ih (c.retirePort i)).imp fun _ h => h.imp fun _ h => h

/-! ### Reset -/

theorem State.reset_mem_wf : State.reset.mem.wf = true := rfl
theorem State.reset_cell (k : Nat) : State.reset.cell k = Cell.init k := rfl
theorem State.reset_row (y : Nat) : State.reset.row y = {} := rfl

end Sys2Proof.Machine
end

