-- ==== Sys2Proof/Laws/Memory.lean ====
section
/-! SUPPORT. Every operation that writes the module's memory keeps its canonical form; what releasing circuits does. -/

namespace Sys2Proof

/-- A store whose entries are changed by a function that keeps the default gives the changed entry. -/
theorem SMap.get_map {α : Type} (d : α) (f : α → α) (hf : f d = d) (m : SMap α) (k : Nat) :
    SMap.get d (m.map (fun x => (x.1, f x.2))) k = f (SMap.get d m k) := by
  induction m with
  | nil => exact hf.symm
  | cons x m ih =>
    simp only [List.map_cons, SMap.get]
    split
    · rfl
    · exact ih

/-- What a filter keeps of a memory is in canonical form. -/
theorem SMap.wfFrom_filter {α : Type} [DecidableEq α] (d : α) (p : Nat × α → Bool) (m : SMap α) :
    ∀ {n : Nat}, SMap.wfFrom d n m = true → SMap.wfFrom d n (m.filter p) = true := by
  induction m with
  | nil => exact fun h => h
  | cons e m ih =>
    intro n h
    simp only [SMap.wfFrom, Bool.and_eq_true, decide_eq_true_eq] at h
    by_cases hp : p e = true
    · rw [List.filter_cons_of_pos hp]
      simp only [SMap.wfFrom, Bool.and_eq_true, decide_eq_true_eq]
      exact ⟨h.1, ih h.2⟩
    · rw [List.filter_cons_of_neg hp]
      exact SMap.wfFrom_mono d _ (Nat.le_succ_of_le h.1.1) (ih h.2)

theorem Memory.wf_filter (p : Host.Cell → Bool) (m : Memory) (h : Memory.wf m = true) : Memory.wf (m.filter p) = true :=
  SMap.wfFrom_filter Memory.unlisted p m h

/-- A list of byte writes keeps the form, whichever are made. -/
theorem Memory.wf_foldl (g : Host.Cell → Bool) (f : Host.Cell → Nat) (xs : List Host.Cell) :
    ∀ m : Memory, Memory.wf m = true →
      Memory.wf (xs.foldl (fun m x => if g x then Memory.setByte m (f x) x.2 else m) m) = true := by
  induction xs with
  | nil => exact fun _ h => h
  | cons x xs ih =>
    intro m h
    refine ih _ ?_
    dsimp only
    split
    · exact Memory.wf_setByte _ _ _ h
    · exact h

end Sys2Proof

namespace Sys2Proof.Machine

open Sys2Proof

theorem State.gwrite_wf (s : State) (a n v : Nat) (p : Bool) (h : s.mem.wf = true) : (s.gwrite a n v p).mem.wf = true :=
  Memory.wf_write _ _ _ _ h

/-- A global store changes no byte outside the bytes it stores to. -/
theorem State.gwrite_byte (s : State) (a n v j : Nat) (p : Bool) (h : j < a ∨ a + n ≤ j) :
    Memory.byte (s.gwrite a n v p).mem j = Memory.byte s.mem j := Memory.byte_write_outside _ _ _ _ _ h

/-- A global store of n bytes is read back. -/
theorem State.gwrite_read (s : State) (a n v : Nat) (p : Bool) : (s.gwrite a n v p).mem.read a n = v % 256 ^ n :=
  Memory.read_write _ _ _ _

@[simp] theorem State.gwrite_cells (s : State) (a n v : Nat) (p : Bool) : (s.gwrite a n v p).cells = s.cells := rfl
@[simp] theorem State.setPresent_mem (s : State) (a : Nat) (b : Bool) : (s.setPresent a b).mem = s.mem := rfl
@[simp] theorem State.setPresent_cells (s : State) (a : Nat) (b : Bool) : (s.setPresent a b).cells = s.cells := rfl
@[simp] theorem State.clearWord_mem (s : State) (a : Nat) : (s.clearWord a).mem = s.mem := rfl

theorem State.clearBytes_wf (s : State) (a n : Nat) (h : s.mem.wf = true) : (s.clearBytes a n).mem.wf = true :=
  Memory.wf_filter _ _ h

theorem State.movePage_wf (s : State) (a b n : Nat) (h : s.mem.wf = true) : (s.movePage a b n).mem.wf = true :=
  Memory.wf_foldl _ _ _ _ (Memory.wf_filter _ _ h)

theorem State.spill_wf (s : State) (row d k i : Nat) (src : Src) (w : QWord) (h : s.mem.wf = true) :
    (s.spill row d k i src w).mem.wf = true :=
  Memory.wf_write _ _ _ _ (Memory.wf_write _ _ _ _ (Memory.wf_write _ _ _ _ (Memory.wf_write _ _ _ _ h)))

/-- Setting the owners of regions leaves the memory. -/
theorem State.setRegions_mem (r : Nat → Nat) (js : List Nat) :
    ∀ s : State, (js.foldl (fun s j => s.setRegion (r j) {}) s).mem = s.mem := by
  induction js with
  | nil => exact fun _ => rfl
  | cons j js ih => exact fun s => ih (s.setRegion (r j) {})

theorem State.mapPages_wf (kind size : Nat) (dom : BitVec 12) (hs : Bool) (cs : List PageChoice) :
    ∀ s : State, s.mem.wf = true → (s.mapPages kind size dom hs cs).mem.wf = true := by
  induction cs with
  | nil => exact fun _ h => h
  | cons c cs ih =>
    intro s h
    refine ih _ ?_
    dsimp only
    split
    · rw [State.setRegions_mem]; exact State.clearBytes_wf s _ _ h
    · exact State.clearBytes_wf s _ _ h

/-- Setting the owners of regions leaves the cells. -/
theorem State.setRegions_cells (r : Nat → Nat) (js : List Nat) :
    ∀ s : State, (js.foldl (fun s j => s.setRegion (r j) {}) s).cells = s.cells := by
  induction js with
  | nil => exact fun _ => rfl
  | cons j js ih => exact fun s => ih (s.setRegion (r j) {})

/-- Mapping pages leaves the cells. -/
@[simp] theorem State.mapPages_cells (kind size : Nat) (dom : BitVec 12) (hs : Bool) (cs : List PageChoice) :
    ∀ s : State, (s.mapPages kind size dom hs cs).cells = s.cells := by
  induction cs with
  | nil => exact fun _ => rfl
  | cons c cs ih =>
    intro s
    refine (ih _).trans ?_
    dsimp only
    split
    · exact State.setRegions_cells _ _ _
    · rfl

/-- Words written one after the other keep the form. -/
theorem Memory.wf_writes {α : Type} (a v : α → Nat) (n : Nat) (xs : List α) :
    ∀ m : Memory, Memory.wf m = true → Memory.wf (xs.foldl (fun m x => Memory.write m (a x) n (v x)) m) = true := by
  induction xs with
  | nil => exact fun _ h => h
  | cons x xs ih => exact fun m h => ih _ (Memory.wf_write _ _ _ _ h)

/-- The words of a cut record keep the form, and leave the cells. -/
theorem State.writeCutRecord_wf (s : State) (n : Nat) (g : Graph) (r : CutRec) (cs : List PageChoice) (h : s.mem.wf = true) :
    (s.writeCutRecord n g r cs).mem.wf = true := Memory.wf_writes _ _ _ _ _ (State.mapPages_wf 0 0 0 false cs s h)

@[simp] theorem State.writeCutRecord_cells (s : State) (n : Nat) (g : Graph) (r : CutRec) (cs : List PageChoice) :
    (s.writeCutRecord n g r cs).cells = s.cells := State.mapPages_cells 0 0 0 false cs s

/-- What releasing circuits does to a cell: the lanes whose tags are accepted, and those tags, are gone. -/
theorem State.freeCircuits_cell (s : State) (p : BitVec 12 × BitVec 64 → Bool) (k : Nat) :
    (s.freeCircuits p).cell k = { s.cell k with
      lanes := (s.cell k).lanes.filter (fun y => !(s.cell k).laneTag.any (fun z => z.1 = y.1 && p z.2))
      laneTag := (s.cell k).laneTag.filter (fun y => !p y.2) } :=
  SMap.get_map (Cell.init k) (fun c : Cell => { c with
    lanes := c.lanes.filter (fun y => !c.laneTag.any (fun z => z.1 = y.1 && p z.2))
    laneTag := c.laneTag.filter (fun y => !p y.2) }) rfl s.cells k

/-- Releasing circuits leaves the memory. -/
@[simp] theorem State.freeCircuits_mem (s : State) (p : BitVec 12 × BitVec 64 → Bool) : (s.freeCircuits p).mem = s.mem := rfl

/-- An access that waits for the host leaves the memory. -/
@[simp] theorem State.holdAt_mem (s : State) (a : Nat) (d : Deferred) : (s.holdAt a d).mem = s.mem := by
  unfold State.holdAt; extract_lets r; split <;> rfl

theorem State.putBytes_wf (s : State) (dom : BitVec 12) (va n : Nat) (v : Word) (h : s.mem.wf = true) :
    (s.putBytes dom va n v).mem.wf = true := by
  unfold State.putBytes
  split
  · split
    · rw [State.holdAt_mem]; exact h
    · exact State.gwrite_wf _ _ _ _ _ h
  · exact h

theorem State.writeRecord_wf (s : State) (dom : BitVec 12) (va : Nat) (v : Word) (h : s.mem.wf = true) :
    (s.writeRecord dom va v).mem.wf = true := s.putBytes_wf dom va 8 v h

theorem State.restorePage_wf (s : State) (r : PageRec) (h : s.mem.wf = true) : (s.restorePage r).mem.wf = true := by
  unfold State.restorePage
  split
  · exact h
  · rename_i p _
    have := Memory.wf_foldl (fun _ => true) (fun x => pAddr p.entry % 2 ^ 50 + x.1) r.bytes _
      (State.clearBytes_wf s (pAddr p.entry % 2 ^ 50) (pSize p.entry) h)
    simpa using this

end Sys2Proof.Machine
end

