-- ==== Sys2Proof/Laws/Operands.lean ====
section
/-! SUPPORT. What the operand helpers of Machine/Operands.lean give and change when they succeed. -/

namespace Sys2Proof.Machine

open Sys2Proof

/-- A g register reads its value unless an asynchronous instruction will write it. -/
theorem readG_eq {c : Cell} {n : Nat} {v : Val} : readG c n = .ok v ↔ n ∉ c.busy ∧ v = c.reg n := by
  unfold readG
  by_cases h : n ∈ c.busy
  · simp [h]
  · simp [h, eq_comm]

/-- A field that names a g register reads it and changes nothing. -/
theorem readSrc_g {c : Cell} {f : BitVec 6} {n : BitVec 3} (h : f.toNat ≤ 55) (hb : f.toNat ∉ c.busy) :
    readSrc c f n = .ok (c.reg f.toNat, c) := by
  unfold readSrc
  rw [if_pos h, readG_eq.mpr ⟨hb, rfl⟩]
  rfl

/-- A source read changes ports, the times since which entries are runnable, the checkpoint's list of pops, and whether the firing can
be replayed. -/
theorem readSrc_spec {c c' : Cell} {f : BitVec 6} {n : BitVec 3} {v : Val} (h : readSrc c f n = .ok (v, c')) :
    ∃ ins rs b ps, c' = { c with ins := ins, runSince := rs, nonReplay := b, ckpt := { c.ckpt with pops := ps } } := by
  unfold readSrc at h
  split at h
  · unfold readG at h
    split at h
    · exact absurd h (by rintro ⟨⟩)
    · cases h; exact ⟨c.ins, c.runSince, c.nonReplay, c.ckpt.pops, rfl⟩
  · unfold readPort at h
    split at h
    · exact absurd h (by rintro ⟨⟩)
    · split at h
      · exact absurd h (by rintro ⟨⟩)
      · extract_lets w e res at h
        split at h
        · have e2 : (c.popHead (f.toNat - 56)).clearRes (f.toNat - 56) = c' := (Prod.mk.inj (Except.ok.inj h)).2
          obtain ⟨ins, rs, b, ps, e3⟩ := c.popHead_spec (f.toNat - 56)
          rw [e3] at e2
          exact ⟨_, rs, b, ps, e2.symm⟩
        · have e2 : c.setIn (f.toNat - 56) { e with res := some (res - 1) } = c' := (Prod.mk.inj (Except.ok.inj h)).2
          exact ⟨_, c.runSince, c.nonReplay, c.ckpt.pops, e2.symm⟩

/-- A push that succeeds enters its word in the window, or adds it to the phase endpoint. -/
theorem push_spec {c c' : Cell} {i : Nat} {v : Val} {tag : BitVec 3} {fld : Nat} (h : push c i v tag fld = .ok c') :
    (c.binding i = 2 ∧ c' = c.enterWindow i v tag 0 0) ∨
    (c.binding i = 3 ∧ ∃ w : QWord, w.v = v.v ∧ c' = { c with phaseOut := c.phaseOut ++ [w] }) := by
  unfold push at h
  split at h
  · rename_i hb
    refine .inl ⟨hb, ?_⟩
    cases hc : checkCtl c tag v.v with
    | error e => simp [hc, bind, Except.bind] at h
    | ok u =>
      simp only [hc, bind, Except.bind] at h
      split at h
      · exact absurd h (by rintro ⟨⟩)
      · split at h
        · exact absurd h (by rintro ⟨⟩)
        · cases h; rfl
  · split at h
    · rename_i hb
      refine .inr ⟨hb, ?_⟩
      split at h
      · exact absurd h (by rintro ⟨⟩)
      · split at h
        · exact absurd h (by rintro ⟨⟩)
        · split at h
          · exact absurd h (by rintro ⟨⟩)
          · cases h; exact ⟨_, rfl, rfl⟩
    · exact absurd h (by rintro ⟨⟩)

/-- A push changes windows with their replay buffers, or the phase endpoint; the local store keeps its form. -/
theorem push_frame {c c' : Cell} {i : Nat} {v : Val} {tag : BitVec 3} {fld : Nat} (h : push c i v tag fld = .ok c') :
    ∃ outs st sp us ph, c' = { c with outs := outs, store := st, storePoison := sp, upsets := us, phaseOut := ph } ∧
      (c.store.wf = true → st.wf = true) := by
  rcases push_spec h with ⟨-, rfl⟩ | ⟨-, w, -, rfl⟩
  · obtain ⟨outs, st, sp, us, e, hw⟩ := Cell.enterWindow_spec c i v tag 0 0
    exact ⟨outs, st, sp, us, c.phaseOut, e, hw⟩
  · exact ⟨c.outs, c.store, c.storePoison, c.upsets, _, rfl, id⟩

/-- A destination field that names a g register writes it; another pushes. -/
theorem writeDst_g {c : Cell} {f : BitVec 6} {v : Val} (h : f.toNat ≤ 55) (hb : f.toNat ∉ c.busy) :
    writeDst c f v = .ok (c.setReg f.toNat v) := by
  simp [writeDst, h, hb]

theorem writeDst_spec {c c' : Cell} {f : BitVec 6} {v : Val} (h : writeDst c f v = .ok c') :
    (f.toNat ≤ 55 ∧ f.toNat ∉ c.busy ∧ c' = c.setReg f.toNat v) ∨
    (55 < f.toNat ∧ push c (f.toNat - 56) v (c.defTag (f.toNat - 56)) 0 = .ok c') := by
  unfold writeDst at h
  simp only at h
  split at h
  · rename_i hn
    split at h
    · exact absurd h (by rintro ⟨⟩)
    · rename_i hb
      cases h
      exact .inl ⟨hn, by simpa using hb, rfl⟩
  · exact .inr ⟨by omega, h⟩

/-- Every g register but the destination is unchanged. -/
theorem writeDst_reg {c c' : Cell} {f : BitVec 6} {v : Val} (h : writeDst c f v = .ok c') {j : Nat} (hj : j ≠ f.toNat) :
    c'.reg j = c.reg j := by
  rcases writeDst_spec h with ⟨-, -, rfl⟩ | ⟨-, h⟩
  · rw [Cell.reg_setReg, if_neg (fun x => hj x.1.symm)]
  · obtain ⟨_, _, _, _, _, rfl, -⟩ := push_frame h; rfl

/-- A claimed destination is busy, or is a port that takes words. -/
theorem claimDst_spec {c c' : Cell} {f : BitVec 6} (h : claimDst c f = .ok c') :
    c' = c.setBusy f.toNat ∨ (55 < f.toNat ∧ c' = c) := by
  unfold claimDst at h
  simp only at h
  split at h
  · split at h
    · exact absurd h (by rintro ⟨⟩)
    · cases h; exact .inl rfl
  · split at h
    · cases h; exact .inr ⟨by omega, rfl⟩
    · exact absurd h (by rintro ⟨⟩)

/-- Two g registers are read in place. -/
theorem readAB_g {c : Cell} {a b : BitVec 6} {sa sb : BitVec 3} (ha : a.toNat ≤ 55) (hb : b.toNat ≤ 55) (ba : a.toNat ∉ c.busy)
    (bb : b.toNat ∉ c.busy) : readAB c a b sa sb = .ok (c.reg a.toNat, c.reg b.toNat, c) := by
  unfold readAB
  rw [readSrc_g ha ba]
  simp only [bind, Except.bind, readSrc_g hb bb]
  rfl

/-- Reading A and B changes ports, the times since which entries are runnable, the checkpoint's list of pops, and whether the firing can be replayed. -/
theorem readAB_spec {c c' : Cell} {a b : BitVec 6} {sa sb : BitVec 3} {x y : Val} (h : readAB c a b sa sb = .ok (x, y, c')) :
    ∃ ins rs n ps, c' = { c with ins := ins, runSince := rs, nonReplay := n, ckpt := { c.ckpt with pops := ps } } := by
  unfold readAB at h
  cases h1 : readSrc c a sa with
  | error e => simp [h1, bind, Except.bind] at h
  | ok u =>
    obtain ⟨x1, c1⟩ := u
    simp only [h1, bind, Except.bind] at h
    cases h2 : readSrc c1 b sb with
    | error e => simp [h2] at h
    | ok u2 =>
      obtain ⟨y1, c2⟩ := u2
      simp only [h2, pure, Except.pure, Except.ok.injEq, Prod.mk.injEq] at h
      obtain ⟨-, -, rfl⟩ := h
      obtain ⟨_, _, _, _, rfl⟩ := readSrc_spec h1
      obtain ⟨_, _, _, _, rfl⟩ := readSrc_spec h2
      exact ⟨_, _, _, _, rfl⟩

end Sys2Proof.Machine
end

