-- ==== Sys2Proof/Tests/Slice0.lean ====
section
/-! SUPPORT. Tests of the model: the decoding of words written out field by field, ill-formed terms that WellFormed refuses, and
for every statement states and operands that meet its hypotheses, clause by clause (witness_…), with results worked out by hand
from the rules. -/

namespace Sys2Proof.Tests

-- one theorem at a time: each is a kernel evaluation with a large stack of its own
set_option Elab.async false

open Sys2Proof Sys2Proof.Machine

/-! ### Helpers -/

/-- The check that decides `Ready`. -/
def readyB (s : State) (i : Instr) (h : Hdr) : Bool :=
  (s.me.st = .running || s.me.st = .asleep) && [0, 1, 2, 3, 4, 8].all (fun n => (s.me.debugField n).getLsbD 11 = false) &&
  namedSlots h &&& s.me.pendingMask = 0 && (!s.me.inHandler || namedSlots h &&& s.me.faultedMask = 0) &&
  (s.me.inHandler || (s.me.faultFor (namedSlots h) (Instr.op i)).isNone) && i.wf && privileged i s.me &&
  (toVectorQueue (Instr.op i) || s.me.portsOf (Instr.word i) &&& s.me.vports = 0) &&
  !(upto 8).any (fun p => (s.me.portsOf (Instr.word i)).getLsbD p && s.portBusy s.cur p)

/-- What the check says. -/
theorem ready_of_readyB {s : State} {i : Instr} {h : Hdr} (e : readyB s i h = true) : s.Ready i h := by
  simp only [readyB, Bool.and_eq_true, Bool.or_eq_true, decide_eq_true_eq, List.all_eq_true, Bool.not_eq_true',
    Option.isNone_iff_eq_none] at e
  obtain ⟨⟨⟨⟨⟨⟨⟨⟨e1, e2⟩, e3⟩, e4⟩, e5⟩, e6⟩, e7⟩, e8⟩, e9⟩ := e
  exact ⟨e1, e2, e3, fun a => e4.resolve_left (by simp [a]), e5, e6, e7, e8, e9⟩

/-- exec answers a next state of which p holds. -/
def gives (i : Instr) (s : State) (p : State → Bool) : Bool :=
  match exec i s with
  | .next t => p t
  | _ => false

/-- An operand helper succeeds with a result of which p holds. -/
def okB {ε α : Type} (x : Except ε α) (p : α → Bool) : Bool :=
  match x with
  | .ok y => p y
  | .error _ => false

/-- A module whose cell 0 runs the task of entry 0, in domain 0. -/
def run (c : Cell) : State := { cells := [(0, { c with st := .running, sys := { c.sys with entry := 0 } })] }
/-- The same beside other cells. -/
def runWith (c : Cell) (cs : List (Nat × Cell)) : State :=
  { cells := (0, { c with st := .running, sys := { c.sys with entry := 0 } }) :: cs }

/-- A header without wait mask or emit slot, and one that emits slot 2. -/
def h0 : Hdr := ⟨0, false, 0⟩
def h2 : Hdr := ⟨0, true, 2⟩

/-- The clean value v, and the poisoned one. -/
def cl (v : Nat) : Val := ⟨BitVec.ofNat 64 v, false⟩
def po (v : Nat) : Val := ⟨BitVec.ofNat 64 v, true⟩

/-- i is ready at cell 0 and answers a next state of which p holds, where cell 0 is c. -/
def runs (i : Instr) (h : Hdr) (s : State) (p : State → Cell → Bool) : Bool :=
  readyB s i h && gives i s (fun t => p t (t.cell 0))

/-- A word of the cell at port 3 of cell 9, with its place in a message. -/
def qw (v n : Nat) (tag : BitVec 3) (pos : BitVec 2 := 0) (len : BitVec 10 := 0) : QWord :=
  ⟨BitVec.ofNat 64 v, false, tag, 5, BitVec.ofNat 32 n, pos, len, 0, 0⟩

/-- Words stored in the ring of inbound port i, enabled for every tag, with 4 slots from address 0x1000 + 64 i. -/
def stored (c : Cell) (i : Nat) (ws : List QWord) : Cell :=
  let c := { c.setIn i { en := true, acc := 0xFF, log2cap := 6, rbase := BitVec.ofNat 17 (0x1000 + 64 * i) } with
    bind := SMap.put c.bind i 1 }
  (ws.foldl (fun c w => c.storeWord i (.cell 9 3 0) w) c).refill i

/-- Outbound port i, enabled and bound, with a window of 4 words in a replay buffer at 0x2000 + 64 i, towards port 2 of cell 7. -/
def outbound (c : Cell) (i : Nat) : Cell :=
  { c.setOut i { en := true, win := 4, rpbase := BitVec.ofNat 17 (0x2000 + 64 * i), dst := [(0, BitVec.ofNat 32 (7 * 8 + 2))] } with
    bind := SMap.put c.bind i 2 }

/-! ### Register instructions, operands, frames -/

/-- g1 = a and g2 = b; D, A and B of the operand field are g3, g1 and g2, C is g4. -/
def two (a b : Val) : State := run { g := [(1, a), (2, b)] }
def abd : FmtR := ⟨3, 1, 2, 0, 0, 0, 0, 0, 0, false, 0⟩
def three (a b c : Val) : State := run { g := [(1, a), (2, b), (4, c)] }
def abcd : FmtR := ⟨3, 1, 2, 4, 0, 0, 0, 0, 0, false, 0⟩

/-- The hypotheses of `PairCompletes` hold, and g3 takes r at PC + 1. -/
def pairCase (x : (Hdr → FmtR → Instr) × Word × Word × Word) : Bool :=
  let s := two ⟨x.2.1, false⟩ ⟨x.2.2.1, true⟩
  okB (readAB s.me 1 2 0 0) (fun y => okB (writeDst y.2.2 3 (cl 0)) (fun _ => true)) &&
  runs (x.1 h2 abd) h2 s (fun _ c => c.reg 3 = ⟨x.2.2.2, true⟩ && c.pc = 1 && c.slot 2 = .idle)

theorem witness_PairCompletes : ([(.add, -1, 3, 2), (.sub, 3, 5, -2), (.mul, -3, 5, -15), (.mulh, -1, 5, -1), (.mulhn, -1, 5, 4),
    (.div, -7, 2, -3), (.div, 7, 0, -1), (.divn, -1, 2, 0x7FFFFFFFFFFFFFFF), (.divn, 5, 0, -1), (.rem, -7, 2, -1), (.rem, 7, 0, 7),
    (.div, 0x8000000000000000, -1, 0x8000000000000000), (.rem, 0x8000000000000000, -1, 0), (.remn, 7, 4, 3), (.remn, 7, 0, 7),
    (.andR, 12, 10, 8), (.orR, 12, 10, 14), (.xorR, 12, 10, 6)] : List _).all pairCase = true := by decide +kernel

theorem witness_PairCompletes_shifts : ([(.shl, 3, 65, 6), (.shr, -1, 63, 1), (.sra, -8, 66, -2), (.rotl, 0x8000000000000001, 4, 0x18),
    (.min, -1, 2, -1), (.max, -1, 2, 2), (.minn, -1, 2, 2), (.maxn, -1, 2, -1), (.ceq, 5, 5, 1), (.ceq, 5, 6, 0), (.clt, -1, 0, 1),
    (.clt, 0, 0, 0), (.cltn, -1, 0, 0), (.cltn, 0, 1, 1)] : List _).all pairCase = true := by decide +kernel

theorem witness_OneCompletes : ([(.clz, 0, 64), (.clz, 1, 63), (.clz, -1, 0), (.popc, 0xFF00000000000001, 9)] :
    List ((Hdr → FmtR → Instr) × Word × Word)).all (fun x =>
      runs (x.1 h0 { abd with b := 0 }) h0 (two ⟨x.2.1, true⟩ (cl 0)) (fun _ c => c.reg 3 = ⟨x.2.2, true⟩ && c.pc = 1)) = true := by decide +kernel

/-- An immediate instruction from g1 to g3. -/
def immCase (x : (Hdr → FmtI → Instr) × Word × BitVec 29 × Word) : Bool :=
  runs (x.1 h0 ⟨3, 1, 0, x.2.2.1⟩) h0 (two ⟨x.2.1, true⟩ (cl 0)) (fun _ c => c.reg 3 = ⟨x.2.2.2, true⟩ && c.pc = 1)

theorem witness_ImmCompletes : ([(.addi, 5, 0x1FFFFFFF, 4), (.andi, -1, 0x10000000, 0xFFFFFFFFF0000000), (.ori, 1, 0x1FFFFFFE, -1),
    (.xori, 6, 5, 3), (.shli, 1, 63, 0x8000000000000000), (.shri, -1, 63, 1), (.srai, -4, 1, -2),
    (.movhi, 0xF00000003, 2, 0x40000003)] : List _).all immCase = true := by decide +kernel

theorem witness_MOVI : runs (.movi h0 ⟨3, 0, 0, 0x10000000⟩) h0 (two (cl 0) (cl 0))
    (fun _ c => c.reg 3 = ⟨0xFFFFFFFFF0000000, false⟩) = true := by decide +kernel

/-- ADDS at both ends of each range; the four functions are ADDS, ADDS unsigned, SUBS and SUBS unsigned. -/
theorem witness_ADDS : ([(0, 0x7FFFFFFFFFFFFFFF, 1, 0x7FFFFFFFFFFFFFFF), (0, 0x8000000000000000, -1, 0x8000000000000000), (0, 2, 3, 5),
    (1, -1, 1, -1), (1, 2, 3, 5), (2, 0x8000000000000000, 1, 0x8000000000000000), (2, 3, 5, -2), (3, 3, 5, 0), (3, 5, 3, 2)] :
    List (BitVec 3 × Word × Word × Word)).all (fun x => runs (.adds h0 { abd with fn := x.1 }) h0
      (two ⟨x.2.1, false⟩ ⟨x.2.2.1, false⟩) (fun _ c => c.reg 3 = ⟨x.2.2.2, false⟩)) = true := by decide +kernel

theorem witness_SEL_MODW : ([(.sel, po 7, cl 9, cl 0, cl 9), (.sel, cl 7, po 9, cl 1, cl 7), (.sel, po 7, cl 9, cl 1, po 7),
    (.modw, cl 7, cl 9, cl 0, cl 16), (.modw, cl 7, cl 9, cl 5, cl 1), (.modw, po 7, cl 9, cl 5, po 1)] :
    List ((Hdr → FmtR → Instr) × Val × Val × Val × Val)).all (fun x => runs (x.1 h0 abcd) h0 (three x.2.1 x.2.2.1 x.2.2.2.1)
      (fun _ c => c.reg 3 = x.2.2.2.2)) = true := by decide +kernel

theorem witness_LEA_NOP : runs (.lea h0 ⟨3, 1, 2, 0, 0, 3, false, 0, 0x3FFF⟩) h0 (two (cl 100) (cl 5)) (fun _ c => c.reg 3 = cl 139) &&
    runs (.nop h2 ⟨0, 0, 0, 0, 0, 0, 0, 0, 0, false, 0⟩) h2 (run { pc := 8 }) (fun _ c => c.pc = 9 && c.slot 2 = .idle) = true := by
  decide +kernel

theorem witness_RegisterOperands : okB (readSrc ({ g := [(55, po 3)] } : Cell) 55 0) (fun x => x.1 = po 3) &&
    okB (readSrc ({ g := [(0, po 3)] } : Cell) 0 0) (fun x => x.1 = cl 0) &&
    okB (writeDst ({ g := [(1, po 3)] } : Cell) 55 (cl 9)) (fun c => c.reg 55 = cl 9 && c.reg 1 = po 3) &&
    okB (writeDst ({} : Cell) 0 (cl 9)) (fun c => c.reg 0 = cl 0) &&
    !okB (readSrc ({ busy := [55] } : Cell) 55 0) (fun _ => true) && !okB (writeDst ({ busy := [1] } : Cell) 1 (cl 0)) (fun _ => true) =
    true := by decide +kernel

/-- Port 7 holds two words: with no sticky count the first is popped; with count 1 it stays for one more read; count 7 takes QSTK's. -/
theorem witness_PortReads : okB (readSrc (stored {} 7 [qw 11 0 1, qw 12 1 1]) 63 0)
      (fun x => x.1 = cl 11 && (x.2.inEp 7).occ = 1 && (x.2.inEp 7).head = 1 && (x.2.headAt 7 0).v = cl 12) &&
    okB (readSrc (stored {} 7 [qw 11 0 1, qw 12 1 1]) 63 1) (fun x => x.1 = cl 11 && (x.2.inEp 7).occ = 2 && (x.2.inEp 7).res = some 0) &&
    okB (readSrc ((stored {} 0 [qw 11 0 1]).setIn 0 { (stored {} 0 [qw 11 0 1]).inEp 0 with stk := 9 }) 56 7)
      (fun x => (x.2.inEp 0).res = some 8) &&
    !okB (readSrc (stored {} 0 []) 56 0) (fun _ => true) && !okB (readSrc (outbound {} 0) 56 0) (fun _ => true) = true := by decide +kernel

/-- The frame's hypotheses hold of ADD, ADD with an immediate and LEA, with g3 as the destination. -/
theorem witness_RegisterInstructionFrame :
    let s := { runWith { g := [(1, cl 1), (2, cl 2), (5, cl 9)], slots := [(4, .pending)] } [(6, {})] with mem := [⟨9, 1⟩] }
    [Instr.add h2 abd, .addi h2 ⟨3, 1, 0, 7⟩, .lea h2 ⟨3, 1, 2, 0, 0, 0, false, 0, 0⟩].all (fun i =>
      runs i h2 s (fun t c => c.reg 5 = cl 9 && c.slot 4 = .pending && c.reg 3 ≠ cl 0 && Memory.byte t.mem 9 = 1)) = true := by
  decide +kernel

theorem witness_InstructionsReachOthersThroughEngines :
    let s := runWith { g := [(1, cl 16), (2, cl 2)] } [(6, { g := [(1, cl 8)] })]
    ((encode (.stl h0 ⟨2, 1, 0, 0, 0, 0, false, 0, 0⟩)).isSome &&
      gives (.stl h0 ⟨2, 1, 0, 0, 0, 0, false, 0, 0⟩) s (fun t => Memory.byte (t.cell 0).store 16 = 2 && (t.cell 6).reg 1 = cl 8)) =
      true := by decide +kernel

/-! ### Branches, local accesses, system registers -/

/-- A taken branch on g1 from word pc by off, to the word t. -/
def branchCase (x : (Hdr → FmtB → Instr) × Word × Nat × BitVec 29 × Nat) : Bool :=
  runs (x.1 h0 ⟨0, 1, 0, x.2.2.2.1⟩) h0 (run { g := [(1, ⟨x.2.1, false⟩)], pc := x.2.2.1 })
    (fun t c => c.pc = x.2.2.2.2 && c.readyAt = t.now + if x.2.2.2.2 = x.2.2.1 + 1 then 1 else 2)

theorem witness_BranchCompletes : ([(.bz, 0, 7, 0x1FFFFFF9, 0), (.bz, 1, 7, 0x1FFFFFF9, 8), (.bnz, 1, 7, 2040, 2047), (.bnz, 0, 7, 2040, 8),
    (.blz, -1, 7, 5, 12), (.blz, 0, 7, 5, 8), (.bgez, 0, 7, 5, 12), (.bgez, -1, 7, 5, 8)] : List _).all branchCase = true := by
  decide +kernel

theorem witness_BranchesGoToTheirTarget :
    runs (.br h0 ⟨0, 0, 0, 2040⟩) h0 (run { pc := 7 }) (fun _ c => c.pc = 2047) &&
    runs (.br h0 ⟨0, 1, 0, 0x1FFFFFFF⟩) h0 (run { g := [(1, cl 100)], pc := 7 }) (fun _ c => c.pc = 99) &&
    runs (.call h0 ⟨3, 0, 0, 0x1FFFFFF9⟩) h0 (run { pc := 7 }) (fun _ c => c.pc = 0 && c.reg 3 = cl 8) &&
    runs (.loopn h0 ⟨0, 0, 0, 0x1FFFFFFE⟩) h0 (run { pc := 7, sys := { loop := 1 } }) (fun _ c => c.pc = 8 && c.sys.loop = 0) &&
    runs (.loopn h0 ⟨0, 0, 0, 0x1FFFFFFE⟩) h0 (run { pc := 7, sys := { loop := 0 } }) (fun _ c => c.pc = 5 && c.sys.loop = -1) &&
    runs (.loopn h0 ⟨0, 1, 0, 0x1FFFFFF9⟩) h0 (run { pc := 7, g := [(1, cl 3)] }) (fun t c => c.pc = 0 && c.reg 1 = cl 2 &&
      c.readyAt = t.now + 1) = true := by decide +kernel

theorem witness_ReturnGoesToItsOperand :
    let f : FmtR := ⟨0, 1, 0, 0, 0, 0, 0, 0, 0, false, 0⟩
    runs (.ret h0 f) h0 (run { g := [(1, cl 2047)] }) (fun t c => c.pc = 2047 && c.readyAt = t.now + 2) &&
    runs (.ret h0 f) h0 (run { g := [(1, po 5)], ha := [(16, 0x10100)] }) (fun _ c => c.pc = 0x100 && c.sys.tval = 1) &&
    runs (.ret h0 f) h0 (run { g := [(1, cl 2048)], ha := [(16, 0x10100)], pc := 9 })
      (fun _ c => c.pc = 0x100 && c.sys.tval = 2048 && field c.sys.trap 0 8 = 4 && c.sys.tpc = 9) = true := by decide +kernel

/-- A load of size 2^sz from g1 to g3. -/
def ldl (sz : BitVec 2) (sx : Bool) : Instr := .ldl h0 ⟨3, 1, 0, 0, 0, sz, sx, 0, 0⟩

theorem witness_LocalLoadsReadWhatStandsThere :
    let c (a : Nat) : Cell := { (({} : Cell).stWord 0x1FFF8 (po 0x80FFEE0000000000)) with
      g := [(1, cl a)], istore := [(2047, 0x1122334455667788)], ident := { unit := 77 }, sys := { rm := 4 } }
    runs (ldl 0 true) h0 (run (c 0x1FFFF)) (fun _ c => c.reg 3 = ⟨0xFFFFFFFFFFFFFF80, true⟩) &&
    runs (ldl 1 false) h0 (run (c 0x1FFFE)) (fun _ c => c.reg 3 = po 0x80FF) &&
    runs (ldl 3 false) h0 (run (c 0xE3FF8)) (fun _ c => c.reg 3 = cl 0x1122334455667788) &&
    runs (ldl 0 false) h0 (run (c 0xE3FF9)) (fun _ c => c.reg 3 = cl 0x77) &&
    runs (ldl 3 false) h0 (run (c 0xE0000)) (fun _ c => c.reg 3 = ⟨-1, false⟩) &&
    runs (ldl 3 false) h0 (run (c 0xF1000)) (fun _ _ => true) && runs (ldl 3 false) h0 (run (c 0xF1FF8)) (fun _ c => c.reg 3 = cl 0) &&
    runs (ldl 2 false) h0 (run (c 0xF2120)) (fun _ c => c.reg 3 = cl 4) && runs (ldl 3 false) h0 (run (c 0xF2FF8)) (fun _ _ => true) =
    true := by decide +kernel

theorem witness_LocalStoresWriteTheirBytes :
    let i (sz : BitVec 2) : Instr := .stl h0 ⟨2, 1, 0, 0, 0, sz, false, 0, 0⟩
    runs (i 1) h0 (run { (({} : Cell).stWord 0x1FFF8 (po (2 ^ 64 - 1))) with g := [(1, cl 0x1FFFE), (2, cl 0xABCDEF)] })
      (fun _ c => c.store.read 0x1FFF8 8 = 0xCDEFFFFFFFFFFFFF && !c.storePoison.has 0x3FFF) &&
    runs (i 3) h0 (run { g := [(1, cl 0), (2, po 5)] }) (fun _ c => c.ldWord 0 = po 5) = true := by decide +kernel

/-- A local access with cause 1 to 8, its value of sys.tval. -/
def causeCase (i : Instr) (a b : Val) (cause tval : Nat) : Bool :=
  runs i h0 (run { g := [(1, a), (2, b)], ha := [(16, 0x10100)] })
    (fun _ c => c.pc = 0x100 && field c.sys.trap 0 8 = cause && c.sys.tval.toNat = tval && c.reg 3 = cl 0)

theorem witness_LocalAccessCauses :
    let l : Instr := .ldl h0 ⟨3, 1, 2, 0, 0, 3, false, 0, 0⟩
    let s : Instr := .stl h0 ⟨3, 1, 2, 0, 0, 3, false, 0, 0⟩
    causeCase l (po 0x20001) (cl 0) 3 0x20001 && causeCase l (cl 0x20000) (po 0) 4 0x20000 && causeCase l (po 0x1FFF8) (po 0) 8 1 &&
    causeCase l (cl 0) (po 8) 8 2 && causeCase s (po 0xF1001) (cl 0) 2 0xF1001 && causeCase s (cl 0xE0000) (cl 0) 2 0xE0000 &&
    causeCase s (cl 0xF2000) (cl 0) 2 0xF2000 = true := by decide +kernel

/-- WRSYS of register n from g1 = v in a handler. -/
def wrsys (n v : Nat) (p : Cell → Bool) : Bool :=
  let s : State := { cells := [(0, { st := .running, sys := { entry := 16 }, g := [(1, cl v)] })] }
  runs (.wrsys h0 ⟨0, 1, 0, BitVec.ofNat 29 n⟩) h0 s (fun _ c => p c && c.pc = 1)

theorem witness_SystemRegisterAccess :
    wrsys 34 2047 (fun c => c.sys.tpc = 2047) && wrsys 35 9 (fun c => c.sys.tval = 9) && wrsys 36 5 (fun c => c.sys.rm = 5) &&
    wrsys 37 (2 ^ 32) (fun c => c.sys.lfsr = 1) && wrsys 37 3 (fun c => c.sys.lfsr = 3) && wrsys 38 7 (fun c => c.sys.loop = 7) &&
    wrsys 39 31 (fun c => c.sys.flags = 31) && wrsys 40 (2 ^ 32 - 1) (fun c => c.sys.wd = -1) &&
    runs (.rdsys h0 ⟨3, 0, 0, 36⟩) h0 (run { sys := { rm := 3 } }) (fun _ c => c.reg 3 = cl 3) &&
    [0, 33, 41].all (fun n => runs (.wrsys h0 ⟨0, 1, 0, BitVec.ofNat 29 n⟩) h0 (run { g := [(1, cl 1)], ha := [(16, 0x10100)] })
      (fun _ c => c.pc = 0x100 && field c.sys.trap 0 8 = 2)) = true := by decide +kernel

/-! ### Handlers, returns, tasks -/

/-- A cell with valid handlers at 0x100 (trap) and 0x180 (break), and one without. -/
def handled : Cell := { pc := 9, ha := [(16, 0x10100), (18, 0x10180)] }
def inHandlerState (c : Cell) (prev : Nat) : State :=
  let trap := BitVec.ofNat 64 (prev * 2 ^ 27 + 0x7FE * 2 ^ 16)
  { cells := [(0, { c with st := .running, sys := { c.sys with entry := 16, intrap := true, trap, tpc := 0x33 } })] }

theorem witness_EnteringAHandler :
    let r : TrapRec := { cause := 4, tpc := 9, taken := 9, opb := 5, tval := 7, slots := 2 }
    let c : Cell := { handled with st := .running, sys := { entry := 3 }, slots := [(1, .faulted)] }
    (((run c).enter 0 c 16 r).cell 0).pc = 0x100 && (((run c).enter 0 c 18 r).cell 0).pc = 0x180 &&
    (((run c).enter 0 c 16 r).cell 0).slot 1 = .idle &&
    (((run c).enter 0 { c with sys := { entry := 18 } } 16 r).cell 0).pcause = .nested &&
    (((run c).enter 0 { c with ha := [] } 16 r).cell 0).pcause = .noHandler &&
    ((((run c).enter 0 { c with ha := [] } 16 r).row 0).fq.map (fun x => field x.1 0 25)) = [2 * 2 ^ 21 + 9 * 2 ^ 10 + 4] := by
  decide +kernel

theorem witness_SoftwareTrapsAndBreaks :
    runs (.trap h0 ⟨0, 0, 0, 0x1FFFFFFF⟩) h0 (run handled) (fun _ c => c.pc = 0x100 && c.sys.tval = -1 && c.sys.trap.getLsbD 8) &&
    runs (.brk h0 ⟨0, 0, 0, 5⟩) h0 (run handled) (fun _ c => c.pc = 0x180 && c.sys.tval = 5 && c.sys.trap.getLsbD 9) &&
    runs (.brk h0 ⟨0, 0, 0, 5⟩) h0 (inHandlerState handled 0) (fun _ c => c.pc = 10 && c.sys.entry = 16) = true := by decide +kernel

theorem witness_ReturnsFromHandlers :
    let f (n : BitVec 3) : FmtR := ⟨0, 0, 0, 0, 0, 0, 0, 0, 0, false, n⟩
    runs (.rettRetry h0 (f 0)) h0 (inHandlerState handled 2) (fun _ c => c.pc = 0x7FE && c.sys.entry = 2 && !c.sys.intrap) &&
    runs (.rettNext h0 (f 1)) h0 (inHandlerState handled 2) (fun t c => c.pc = 0x7FF && c.readyAt = t.now + 3) &&
    runs (.rettRedo h0 (f 2)) h0 (inHandlerState handled 2) (fun _ c => c.pc = 0x33) &&
    runs (.rettEnd h0 (f 3)) h0 (inHandlerState handled 2) (fun _ c => c.st = .idle && c.sys.entry = 31) &&
    [Instr.rettRetry h0 (f 0), .rettNext h0 (f 1), .rettRedo h0 (f 2)].all (fun i =>
      runs i h0 (inHandlerState handled 31) (fun _ c => c.st = .idle)) &&
    [Instr.rettRetry h0 (f 0), .rettNext h0 (f 1), .rettRedo h0 (f 2), .rettEnd h0 (f 3)].all (fun i =>
      runs i h0 (run handled) (fun _ c => c.pc = 0x100 && field c.sys.trap 0 8 = 1)) = true := by decide +kernel

theorem witness_DoneEndsTheTask :
    let c := ((stored {} 3 [qw 5 8 1]).popHead 3)
    runs (.done h0 ⟨0, 0, 0, 0, 0, 0, 0, 0, 0, false, 0⟩) h0 (run c) (fun _ c => c.st = .idle && c.sys.entry = 31 &&
      (c.inEp 3).popped = [] && c.acks = [⟨.cell 9 3 0, 8, false⟩]) && c.rmParkReq = false && (c.inEp 3).popped.length = 1 = true := by
  decide +kernel

/-- An idle cell 0 at a task boundary. -/
def idle (c : Cell) : State := { cells := [(0, { c with st := .idle })], now := 50 }
/-- Entry 2 takes tag 1 of port 3, at word 0x40 with priority 1; entry 5 does at 0x50 with priority 0. -/
def twoEntries : Cell := { stored {} 3 [qw 5 8 1] with
  ha := [(2, BitVec.ofNat 32 (2 ^ 16 + 3 * 2 ^ 13 + 2 ^ 11 + 0x40)), (5, BitVec.ofNat 32 (2 ^ 16 + 3 * 2 ^ 13 + 0x50)), (16, 0x10100),
    (17, 0x10110), (19, 0x10130)], hb := [(2, 0x200), (5, 0x200)] }

theorem witness_TaskBoundary :
    [idle { twoEntries with arrivals := [⟨9, 3⟩] }, idle { twoEntries with sys := { sreq := true } }, idle { twoEntries with qreq := true },
      idle twoEntries, idle (stored {} 3 [])].all (fun s => (upto 8).all (fun i => !(s.cell 0).stray i) && (s.cell 0).st = .idle &&
        (s.cell 0).parkWait = none && !s.retiring (s.cell 0)) &&
    gives (.taskDispatch 0) (idle { twoEntries with arrivals := [⟨9, 3⟩] }) (fun t => (t.cell 0).pc = 0x100 && (t.cell 0).sys.entry = 16) &&
    gives (.taskDispatch 0) (idle { twoEntries with sys := { sreq := true } }) (fun t => (t.cell 0).pc = 0x130) &&
    gives (.taskDispatch 0) (idle { twoEntries with qreq := true }) (fun t => (t.cell 0).pc = 0x110 && (t.cell 0).sys.entry = 17) &&
    gives (.taskDispatch 0) (idle twoEntries) (fun t => (t.cell 0).pc = 0x40 && (t.cell 0).sys.entry = 2 && (t.cell 0).readyAt = 53 &&
      ((t.cell 0).inEp 3).occ = 1 && SMap.get 15 (t.cell 0).last 1 = 2) &&
    gives (.taskDispatch 0) (idle (stored {} 3 [])) (fun t => (t.cell 0).st = .idle) = true := by decide +kernel

theorem witness_ServiceCalls :
    runs (.svc h2 ⟨3, 1, 0, 0x02030004⟩) h2 (run { g := [(1, cl 9)] }) (fun _ c => c.calls.length = 1 && c.slot 2 = .pending &&
      c.busy = [3] && c.calls.all (fun q => field q.header 59 5 = 2 && field q.header 51 8 = 3 && field q.header 35 16 = 4 && q.arg = 9)) &&
    gives (.svcReply 0 0) (run { calls := [⟨0, 0, 3, ⟨some 2, 0, 0, 0, 0, false, 0⟩, none, some (0, 5)⟩], busy := [3], slots := [(2, .pending)] })
      (fun t => (t.cell 0).reg 3 = cl 5 && (t.cell 0).slot 2 = .idle && (t.cell 0).calls = []) &&
    gives (.svcReply 0 0) (run { calls := [⟨0, 0, 3, ⟨some 2, 0, 0, 0, 0, false, 0⟩, none, some (4, 5)⟩], busy := [3], slots := [(2, .pending)] })
      (fun t => (t.cell 0).reg 3 = cl 0 && (t.cell 0).slot 2 = .faulted && (t.cell 0).faults.map (fun r => (r.cause, r.tval)) = [(14, 4)]) =
    true := by decide +kernel

/-! ### Ports -/

def port (c : Cell) (i : Instr) (h : Hdr) (p : Cell → Bool) : Bool := runs i h (run c) (fun _ c => p c)
/-- The words of the window of port i, with their tags, positions and sequence numbers. -/
def window (c : Cell) (i : Nat) : List (Nat × Nat × Nat × Nat) :=
  (c.outEp i).ents.map (fun e => (e.w.v.toNat, e.w.tag.toNat, e.w.pos.toNat, e.w.seq.toNat))

theorem witness_PopTakesTheHeadWord :
    let c := (stored {} 7 [qw 11 4 1, qw 12 5 1])
    ((c.inEp 7).occ = 2 && ((c.popHead 7).inEp 7).occ = 1 && ((c.popHead 7).inEp 7).head = 1 &&
      ((c.popHead 7).inEp 7).popped = [⟨.cell 9 3 0, 4⟩]) = true := by decide +kernel

theorem witness_AWordEntersTheWindow :
    let c := (outbound { ident := { unit := 6 } } 3)
    let c := c.setOut 3 { c.outEp 3 with seq := 9, rph := 3 }
    (c.rpl = false && window (c.enterWindow 3 (po 0xAB) 2 0 0) 3 = [(0xAB, 2, 0, 9)] &&
      ((c.enterWindow 3 (po 0xAB) 2 0 0).outEp 3).rph = 0 && (c.enterWindow 3 (po 0xAB) 2 0 0).ldWord (0x2000 + 64 * 3 + 48) = po 0xAB) =
      true := by decide +kernel

/-- Two single words and a message of two at port 7; x of format X with EF20 = ef, D = g3, A = g1, B = g2. -/
def four : Cell := { stored {} 7 [qw 11 0 1, qw 12 1 1 1 1, qw 13 2 1 3 1] with g := [(1, cl 0x4000), (2, cl 0)] }
def xf (d a b c : BitVec 6) (ef : BitVec 20) : FmtX := ⟨d, a, b, c, ef⟩

theorem witness_InboundPortInstructions :
    port four (.pop h0 (xf 3 0 2 0 7)) h0 (fun c => c.reg 3 = cl 11 && (c.reg 2).v = (qw 11 0 1).side && (c.inEp 7).occ = 2) &&
    port four (.peek h0 (xf 3 0 2 0 0x17)) h0 (fun c => c.reg 3 = cl 13 && (c.reg 2).v = (qw 13 2 1 3 1).side && (c.inEp 7).occ = 3) &&
    port (four.popHead 7) (.popl h0 (xf 3 1 2 0 (7 + 8 * 1023))) h0 (fun c => c.reg 3 = cl 2 && c.ldWord 0x4000 = cl 12 &&
      c.ldWord 0x4008 = cl 13 && (c.inEp 7).occ = 0) &&
    port { four with g := [(1, cl 3)] } (.qskip h0 (xf 0 1 0 0 7)) h0 (fun c => (c.inEp 7).occ = 0 && (c.inEp 7).popped.length = 3) &&
    port { four with g := [(1, cl 2)] } (.rngrd h0 (xf 3 1 2 0 7)) h0 (fun c => c.reg 3 = cl 13 && (c.inEp 7).occ = 3) = true := by
  decide +kernel

theorem witness_OutboundPortInstructions :
    let c := { outbound {} 3 with g := [(1, cl 0x1F0), (2, cl 2)], store := (({} : Cell).stWord 0x1F8 (cl 5)).store }
    port c (.push h0 (xf 0 1 0 0 (3 + 8 * 5))) h0 (fun c => window c 3 = [(0x1F0, 5, 0, 0)]) &&
    port c (.pushl h0 (xf 0 1 0 0 (3 + 8 * 5 + 128 * 3))) h0 (fun c => window c 3 = [(0, 5, 1, 0), (5, 5, 2, 1), (0, 5, 2, 2), (0, 5, 3, 3)]) &&
    port c (.pushl h0 (xf 0 1 2 0 (3 + 8 * 5 + 64))) h0 (fun c => window c 3 = [(0, 5, 1, 0), (5, 5, 3, 1)]) &&
    port { c with g := [(1, cl 8)] } (.pushl h0 (xf 0 1 2 0 (3 + 64))) h0 (fun c => window c 3 = [] && c.pc = 1) &&
    port ((stored (outbound {} 3) 3 [qw 11 0 4 1 1, qw 12 1 4 3 1]).setIn 3
        { (stored (outbound {} 3) 3 [qw 11 0 4 1 1, qw 12 1 4 3 1]).inEp 3 with diven := true }) (.qdiv h0 (xf 0 0 0 0 3)) h0
      (fun c => window c 3 = [(11, 4, 1, 0), (12, 4, 3, 1)] && (c.inEp 3).occ = 0 && c.acks.length = 2) = true := by decide +kernel

theorem witness_PortReadings :
    let c := (outbound four 3)
    port c (.qlen h0 (xf 3 0 0 0 7)) h0 (fun c => c.reg 3 = cl 3) && port c (.qlen h0 (xf 3 0 0 0 3)) h0 (fun c => c.reg 3 = cl 0) &&
    port { c with bind := [(0, 3)] } (.qlen h0 (xf 3 0 0 0 0)) h0 (fun c => c.reg 3 = cl 0) &&
    port c (.qroom h0 (xf 3 0 0 0 7)) h0 (fun c => c.reg 3 = cl 1) && port c (.qroom h0 (xf 3 0 0 0 3)) h0 (fun c => c.reg 3 = cl 4) &&
    port { c with bind := [(0, 3)] } (.qroom h0 (xf 3 0 0 0 0)) h0 (fun c => c.reg 3 = cl 16) &&
    port (c.setOut 3 { c.outEp 3 with seq := -1 }) (.qseq h0 (xf 3 0 0 0 3)) h0 (fun c => c.reg 3 = cl (2 ^ 32 - 1)) &&
    port { c with g := [(1, cl 3)] } (.qwaitn h0 (xf 3 1 0 0 7)) h0 (fun c => c.reg 3 = cl 3) &&
    port c (.qsleep h0 (xf 3 0 0 0 (8 * 128))) h0 (fun c => c.reg 3 = cl 128) = true := by decide +kernel

theorem witness_PortSettings :
    let c := (outbound four 3)
    port { c with phaseq := 0x80000000 } (.qbind h0 (xf 0 0 0 0 (8 * 3))) h0 (fun c => c.binding 0 = 3) &&
    port { c with bind := [] } (.qbind h0 (xf 0 0 0 0 (7 + 8))) h0 (fun c => c.binding 7 = 1) &&
    port { c with bind := [] } (.qbind h0 (xf 0 0 0 0 (3 + 16))) h0 (fun c => c.binding 3 = 2) &&
    port (c.setIn 7 { c.inEp 7 with res := some 2 }) (.qbind h0 (xf 0 0 0 0 7)) h0 (fun c => c.binding 7 = 0 && (c.inEp 7).res = none) &&
    port c (.qtagOut h0 (xf 0 0 0 0 (3 + 8 * 7))) h0 (fun c => (c.outEp 3).deftag = 7) &&
    port c (.qtagIn h0 (xf 0 0 0 0 (7 + 8 * 0x81 + 0x800))) h0 (fun c => (c.inEp 7).acc = 0x81) &&
    port c (.qstk h0 (xf 0 0 0 0 (7 + 8 * 0xFFFF))) h0 (fun c => (c.inEp 7).stk = 0xFFFF) = true := by decide +kernel

theorem witness_MarksAndFlushes :
    let c := (outbound (four.popHead 7) 3)
    port c (.qmark h0 (xf 0 0 0 0 0)) h0 (fun c => (c.inEp 7).popped = [] && c.acks = [⟨.cell 9 3 0, 0, false⟩] && c.ckpt.pc = 1) &&
    port c (.qmark h0 (xf 0 0 0 0 (8 * 128))) h0 (fun c => (c.inEp 7).popped = []) &&
    port c (.qflush h0 (xf 0 0 0 0 3)) h0 (fun c => c.pc = 1) &&
    port (c.enterWindow 3 (cl 5) 1 0 0) (.qflush h2 (xf 0 0 0 0 11)) h2 (fun c => c.slot 2 = .pending && c.flushes.length = 1) &&
    port (c.enterWindow 3 (cl 5) 1 0 0) (.qflush h0 (xf 0 0 0 0 11)) h0 (fun c => c.st = .asleep && c.pc = 0) = true := by
  decide +kernel

theorem witness_CounterChainInstructions :
    let c := { four with chain := { lim := [(0, 3)], port := 7, idx := true, ind := [(0, 1)], seq := 4 } }
    port { c with g := [(1, cl 65536)] } (.ccfgLim h0 (xf 0 1 0 0 3)) h0 (fun c => SMap.get 0 c.chain.lim 3 = 65536) &&
    port { c with g := [(1, cl 31)] } (.ccfgMode h0 (xf 0 1 0 0 4)) h0 (fun c => c.chain.port = 7 && c.chain.idx && c.chain.mark) &&
    port c (.cstart h0 (xf 0 0 0 0 0)) h0 (fun c => c.chain.run && c.chain.ind = [] && c.chain.seq = 0) &&
    port c (.cstart h0 (xf 0 0 0 0 1)) h0 (fun c => c.chain.run && c.chain.ind = [(0, 1)] && c.chain.seq = 4) &&
    port c (.cstop h0 (xf 0 0 0 0 0)) h0 (fun c => !c.chain.run) &&
    port { c with chain := { c.chain with run := true } } (.cstop h0 (xf 0 0 0 0 0)) h0 (fun c => !c.chain.run && !c.chain.done) &&
    port c (.cread h0 (xf 3 0 0 0 0)) h0 (fun c => c.reg 3 = cl 1) && port c (.cread h0 (xf 3 0 0 0 1)) h0 (fun _ => true) = true := by
  decide +kernel

/-! ### Messages, acknowledgements, the phase -/

/-- Cell 9 with the words in the window of port 3 towards port 2 of cell 7, whose ring has 4 slots. -/
def sender (ws : List QWord) : Cell :=
  (outbound { st := .idle } 3).setOut 3 { (outbound {} 3).outEp 3 with ents := ws.map (fun w => ⟨w, 0, 0, 0, 0, 0⟩) }
def receiver (c : Cell) : Cell := stored { c with st := .idle } 2 []
def link (ws : List QWord) (c : Cell) : State := { cells := [(7, c), (9, sender ws)] }

theorem witness_Deliverable :
    let s := (link [qw 21 0 1 1 1, qw 22 1 1 3 1] (receiver {}))
    (s.nextMessage (.cell 9 3 0)).length = 2 && s.toHost (.cell 9 3 0) = none && dstModule (s.destOf (.cell 9 3 0)) = s.modNo &&
    dstCell (s.destOf (.cell 9 3 0)) = 7 && dstPort (s.destOf (.cell 9 3 0)) = 2 &&
    (s.nextMessage (.cell 9 3 0)).all (fun w => !w.isCtl 2) && (s.row (yOf 7)).domState 0 = 1 && (s.cell 7).ident.dom = 0 &&
    ((s.cell 7).inEp 2).acc.getLsbD 1 && ((s.cell 7).inEp 2).en && (s.cell 7).rewinds = [] && ((s.cell 7).inEp 2).waiting = [] &&
    !s.portBusy 7 2 && s.onCircuit (.cell 9 3 0) = none && gives (.queueMessageArrival (.cell 9 3 0)) s (fun t => ((t.cell 7).inEp 2).occ = 2 && ((t.cell 7).inEp 2).tail = 2 &&
      ((t.cell 7).inEp 2).metas.map (fun o => o.seq) = [0, 1] && ((t.cell 7).ringSlot 2 1).v = cl 22) = true := by decide +kernel

theorem witness_RefusedMessagesTrap :
    let s := (link [] ((receiver {}).setIn 2 { (receiver {}).inEp 2 with acc := 1 }))
    let t := s.arrive 7 2 ⟨.cell 9 3 0, [qw 21 0 1]⟩
    let u := s.arrive 7 2 ⟨.cell 9 3 0, [qw 1 0 0 1 4, qw 2 1 0 2 4, qw 3 2 0 2 4, qw 4 3 0 2 4, qw 5 4 0 3 4]⟩
    (!(qw 21 0 1).isCtl 6 && (s.cell 7).arrivals = [] && (t.cell 7).arrivals = [⟨9, 10⟩] && ((t.cell 7).inEp 2).tagf &&
      (u.cell 7).arrivals = [⟨10, 2 + 5 * 2 ^ 16⟩] && ((u.cell 7).inEp 2).ovr && (u.cell 7).acks.length = 5) = true := by decide +kernel

theorem witness_DeferredStoresMarkersAndChainWords :
    let w : List Msg := [⟨.cell 9 3 0, [qw 21 0 1]⟩]
    gives (.queueMessageStoreDeferred 7 2) (link [] ((receiver {}).setIn 2 { (receiver {}).inEp 2 with waiting := w }))
      (fun t => ((t.cell 7).inEp 2).occ = 1 && ((t.cell 7).inEp 2).waiting = []) &&
    gives (.quiesceArrival (.cell 9 3 0)) (link [qw (2 * 2 ^ 56 + 77) 4 7] (receiver {}))
      (fun t => (t.cell 7).qreq && (t.cell 7).qcut = 77 && ((t.cell 7).inEp 2).qc = 1 && (t.cell 7).acks = [⟨.cell 9 3 0, 4, false⟩]) &&
    (qw (2 * 2 ^ 56 + 77) 4 7).isCtl 2 && ((receiver {}).rewindTest 2 (qw (2 * 2 ^ 56 + 77) 4 7) 1).1 &&
    gives (.counterChainEmit 7) (link [] { receiver {} with chain := { lim := [(0, 3)], port := 2, idx := true, ind := [(0, 1)], run := true } })
      (fun t => ((t.cell 7).inEp 2).occ = 1 && ((t.cell 7).ringSlot 2 0).v = cl 1 && (t.cell 7).chain.indOf 0 = 2) = true := by
  decide +kernel

theorem witness_WindowsAreFreed :
    let s (n : Bool) : State := link [qw 21 0 1, qw 22 1 1] { receiver {} with acks := [⟨.cell 9 3 0, 0, n⟩] }
    gives (.wordAck 7) (s false) (fun t => window (t.cell 9) 3 = [(22, 1, 0, 1)] && (t.cell 7).acks = [] && !((t.cell 9).outEp 3).nack) &&
    gives (.wordNack 7) (s true) (fun t => window (t.cell 9) 3 = [(22, 1, 0, 1)] && ((t.cell 9).outEp 3).nack) &&
    gives (.suspendedResend (.cell 9 3 0)) (s false) (fun t => window (t.cell 9) 3 = [(21, 1, 0, 0), (22, 1, 0, 1)]) = true := by
  decide +kernel

/-- Two consumers, of which the second has not acknowledged the word; the task has slept on the full window for 2^16 clk. -/
def lagging : State :=
  let e : OutEp := { en := true, win := 1, mcm1 := 1, dst := [(0, 58), (1, 66)], ents := [⟨qw 21 0 1, 0, 1, 1, 1, 0⟩] }
  { now := 65536, cells := [(9, { ({} : Cell).setOut 3 e with st := .asleep, bind := [(3, 2)], wait := some (.pushFull, .room 3 1) })] }

theorem witness_WindowsAreFreed_laggards : (lagging.cell 9).blocked 3 && ((lagging.cell 9).outEp 3).consumers = 3 &&
    gives (.laggardTimeout 9 3) lagging (fun t => ((t.cell 9).outEp 3).det = 2 && window (t.cell 9) 3 = [] &&
      (t.row 0).fq.length = 1) = true := by decide +kernel

/-- R121: a CTL word of another subtype that reaches the accumulator is discarded and recorded. -/
theorem test_strayCtlAtTheRoot :
    let w : QWord := ⟨BitVec.ofNat 64 (5 * 2 ^ 56), false, 7, 0, 0, 0, 0, 0, 0⟩
    let t := ({ cells := [(7, { phaseD := 5 })] } : State).phaseWord 7 0 w
    ((t.cell 7).phaseD = 5 && (t.row 0).fq.map (fun x => x.2) = [BitVec.ofNat 64 (5 * 2 ^ 56)]) = true := by decide +kernel

theorem witness_TheRootCountsTheWeight :
    let w (x : Nat) : QWord := ⟨BitVec.ofNat 64 (3 * 2 ^ 56 + x), false, 7, 0, 0, 0, 0, 0, 0⟩
    let s (x d : Nat) : State := { cells := [(0, { st := .running, phaseq := BitVec.ofNat 32 (2 ^ 31 + 8 * 7), phaseOut := [w x] }),
      (7, { st := .idle, phaseD := d })] }
    gives (.phaseReturn 0) (s (8 * 2 ^ 48 + 2 ^ 46) (2 ^ 247)) (fun t => (t.cell 7).phaseD = 0 && (t.cell 7).phaseEnd && (t.cell 0).phaseOut = []) &&
    gives (.phaseReturn 0) (s (255 * 2 ^ 48 + 2 ^ 46) (2 ^ 247)) (fun t => (t.cell 7).phaseD = 2 ^ 247 - 1 && !(t.cell 7).phaseEnd) &&
    gives (.borrowRequest 0) (s (2 * 2 ^ 46 + 5 * 2 ^ 28 + 3 * 2 ^ 25) 1) (fun t => (t.cell 7).phaseD = 2 ^ 247 + 1 &&
      t.net.map (fun g => (g.cell, g.port.toNat, field g.w.v 48 8, field g.w.v 46 2)) = [(5, 3, 8, 3)]) &&
    gives (.borrowGrantDeferred 7) { cells := [(7, { st := .idle, phaseD := 2, borrows := [(0, BitVec.ofNat 64 (5 * 2 ^ 28))] })] }
      (fun t => (t.cell 7).phaseD = 2 ^ 247 + 2 && (t.cell 7).borrows = [] && t.net.map (fun g => g.cell) = [5]) = true := by decide +kernel

/-! ### Semaphores, copies, generators -/

theorem witness_SemaphoreInstructions :
    let c (v a : Nat) : Cell := { sems := [(15, ⟨BitVec.ofNat 40 v, false⟩)], g := [(1, cl a)] }
    port (c 5 3) (.sinc h0 (xf 0 1 0 0 15)) h0 (fun c => c.sem 15 = ⟨8, false⟩) &&
    port (c 5 (2 ^ 64 - 6)) (.sinc h0 (xf 0 1 0 0 15)) h0 (fun c => c.sem 15 = ⟨0, true⟩) &&
    port (c 5 (2 ^ 40 - 5)) (.sinc h0 (xf 0 1 0 0 15)) h0 (fun c => c.sem 15 = ⟨-1, true⟩) &&
    port (c 5 (2 ^ 40 - 6)) (.sinc h0 (xf 0 1 0 0 15)) h0 (fun c => c.sem 15 = ⟨-1, false⟩) &&
    port (c 5 (2 ^ 40)) (.sset h0 (xf 0 1 0 0 15)) h0 (fun c => c.sem 15 = ⟨-1, true⟩) &&
    port (c 5 9) (.sset h0 (xf 0 1 0 0 15)) h0 (fun c => c.sem 15 = ⟨9, false⟩) &&
    port { c 5 9 with sems := [(15, ⟨5, true⟩)] } (.srd h0 (xf 3 0 0 0 15)) h0 (fun c => c.reg 3 = cl (2 ^ 40 + 5)) &&
    port (c 5 5) (.swait h0 (xf 0 1 0 0 15)) h0 (fun c => c.sem 15 = ⟨5, false⟩ && c.pc = 1) &&
    port (c 5 4) (.swaitd h0 (xf 3 1 0 0 15)) h0 (fun c => c.sem 15 = ⟨1, false⟩ && c.reg 3 = cl 1) = true := by decide +kernel

/-- D = g3, A = g1, B = g2, C = g4 with d, a, b, c in them. -/
def regs (d a b c : Nat) : Cell := { g := [(1, cl a), (2, cl b), (3, cl d), (4, cl c)], ident := { load := 6 } }
def copyCase (i : Instr) (d a b c form : Nat) : Bool :=
  runs i h2 (run (regs d a b c)) (fun t c => c.slot 2 = .pending && c.copies.length = 1 && c.pc = 1 &&
    (t.block 0).copyq.map (fun m => (m.form, m.dst, m.src, m.len)) = [(form, d, a, b)])

theorem witness_CopiesAreIssued :
    copyCase (.cpy h2 (xf 3 1 2 0 0x1F)) 0x1FFF8 (2 ^ 57 - 8) 8 0 0 && copyCase (.cpy h2 (xf 3 1 2 0 0x20)) (2 ^ 57 - 8) 0x1FFF8 8 0 1 &&
    copyCase (.cpys h2 (xf 3 1 2 4 0)) 0x1FF00 0x10000 8 (3 * 2 ^ 48 + 16 * 2 ^ 24 + (2 ^ 24 - 8)) 0 &&
    copyCase (.cpyg h2 (xf 3 1 2 0 0)) 0 8 (2 ^ 40 - 1) 0 2 && copyCase (.cpyd h2 (xf 3 1 2 4 0)) 0 0x1FFF8 8 262143 3 = true := by
  decide +kernel

def cmd : CopyCmd where
  cell := 0
  tok := ⟨some 2, 5, 0, 0, 0, false, 0⟩
  form := 3
  dst := 0x1FFF8
  src := 8
  len := 8
  rows := 1
  sstr := 0
  dstr := 0
  target := 7
  se := true
  sem := 15
  dom := 0
  rpl := false

theorem witness_CopiesRun :
    let c : Cell := { (({} : Cell).stWord 8 (cl 77)) with st := .running, copies := [5], slots := [(2, .pending)] }
    let s (m : CopyCmd) : State := { cells := [(0, c), (7, { st := .idle, ident := { units := 2 } })], blocks := [(0, { copyq := [m], running := [cmd] })] }
    gives (.copyStart 0) (s { cmd with len := 1048576 }) (fun t => (t.block 0).copyq = [] && (t.block 0).running.length = 2) &&
    gives (.copyStart 0) (s { cmd with len := 1048577 }) (fun t => (t.block 0).running.length = 1 && (t.block 0).reqs = [⟨.copy, 4, 0⟩]) &&
    (s cmd).sameLoad 0 7 && gives (.copyCompletion 0 0) (s cmd) (fun t => (t.cell 7).ldWord 0x1FFF8 = cl 77 && (t.cell 0).slot 2 = .idle &&
      (t.cell 7).sem 15 = ⟨8, false⟩ && (t.cell 0).copies = [] && (t.block 0).running = []) = true := by decide +kernel

/-- A cell with handle 1 on generator 255, whose registers give 2 elements of one word from 0x100 with tag 2 and a window of 1. -/
def genCell : Cell := { eagh := [(1, 0x1FF)], g := [(1, cl 0x77)] }
def genRegs : SMap Word := [(0, 0x100), (1, 2), (5, 8), (10, 4), (12, 1)]
def genState (e : Eag) (c : Cell) : State := { run c with eags := [(255, e)] }

theorem witness_GeneratorInstructions :
    runs (.eagcfgW h0 (xf 0 1 0 0 (1 + 2 * 16))) h0 (genState {} genCell) (fun t _ => (t.eag 255).reg 16 = 0x77) &&
    runs (.eagcfgR h2 (xf 3 0 0 0 65)) h2 (genState { regs := genRegs } genCell) (fun _ c => c.busy = [3] &&
      c.eagReads.map (fun x => x.2.2) = [0x100]) &&
    runs (.eaggoStart h2 (xf 0 0 0 0 1)) h2 (genState { regs := genRegs } genCell) (fun t c => c.eagRuns 1 && (t.eag 255).reg 17 = 1) &&
    runs (.eaggoResume h2 (xf 0 0 0 0 3)) h2 (genState { regs := SMap.put genRegs 16 1 } genCell) (fun t c => c.eagRuns 1 &&
      (t.eag 255).next = 1) &&
    runs (.eaggoStop h2 (xf 0 0 0 0 5)) h2 (genState { regs := genRegs } genCell) (fun _ c => c.slot 2 = .idle) &&
    runs (.eaggoStop h2 (xf 0 0 0 0 5)) h2 (genState { regs := genRegs, run := some ⟨0, 1, ⟨none, 0, 0, 0, 0, false, 0⟩, false, []⟩ } genCell)
      (fun t c => c.slot 2 = .pending && (t.eag 255).run.all (fun r => r.stopping)) = true := by decide +kernel

/-- A translation entry: kind, size code, frame address, domain, W and HS; valid. -/
def entryOf (kind size pa dom : Nat) (w hs : Bool) : Word :=
  BitVec.ofNat 64 (kind * 2 ^ 62 + size * 2 ^ 60 + pa + dom * 16 + (if w then 8 else 0) + (if hs then 4 else 0) + 1)

theorem witness_GeneratorStreams :
    let r : EagRun := ⟨0, 1, ⟨some 2, 0, 0, 0, 0, false, 0⟩, false, []⟩
    let s (n : Nat) : State := { genState { regs := SMap.put genRegs 16 (BitVec.ofNat 64 n), run := some r } { genCell with eagRun := [(1, true)], slots := [(2, .pending)] } with
      mem := [⟨0x100, 9⟩, ⟨0x108, 10⟩], blocks := [(eagBlock 255, { tlb := [⟨0, entryOf 0 0 0 0 true false, 0⟩] })] }
    gives (.eagcfgReadReply 0) (run { eagReads := [(3, ⟨some 2, 0, 0, 0, 0, false, 0⟩, 0x55)], slots := [(2, .pending)], busy := [3] })
      (fun t => (t.cell 0).reg 3 = cl 0x55 && (t.cell 0).slot 2 = .idle) &&
    gives (.eagElementCommit 255) (s 0) (fun t => (t.eag 255).win.map (fun x => (x.w.v, x.w.tag)) = [(9, 2)] && (t.eag 255).next = 1 &&
      (t.eag 255).run.isSome) &&
    gives (.eagElementCommit 255) (s 1) (fun t => (t.eag 255).win.map (fun x => x.w.v) = [10] && (t.eag 255).run = none &&
      (t.eag 255).reg 17 = 2 && (t.cell 0).slot 2 = .idle) = true := by decide +kernel

/-! ### Global memory at the cell -/

/-- A cell of domain 5 with pages of kinds 0, 1 and 2 at 0, 0x10000 and 0x20000, the last of its cache at the top of memory. -/
def glob (c : Cell) : State := run { c with
  ident := { dom := 5 }
  tlb := [⟨0, entryOf 0 0 0x40000 5 true false, 0⟩, ⟨0x10000, entryOf 1 0 0x50000 5 true false, 0⟩, ⟨0x20000, entryOf 2 0 0x60000 5 true false, 0⟩,
    ⟨0x30000, entryOf 0 0 0x70000 6 false false, 0⟩, ⟨2 ^ 57 - 0x10000, entryOf 0 0 0x40000 5 false false, 0⟩] }
def leavesAs (i : Instr) (a b d : Nat) (kind : AccKind) (pa size : Nat) : Bool :=
  runs i h2 (glob { g := [(1, cl a), (2, cl b), (3, cl d), (4, cl 9)] }) (fun _ c => c.slot 2 = .pending && c.pc = 1 &&
    c.accs.map (fun x => (x.kind, x.pa, x.size, x.status)) = [(kind, pa, size, .sent)])
def mf (sz : BitVec 2) : FmtM := ⟨3, 1, 2, 0, 0, sz, false, 0, 0⟩

theorem witness_LoadsAndStoresLeave :
    leavesAs (.ldg h2 (mf 0)) (2 ^ 57 - 1) 0 0 .ldg 0x4FFFF 1 && leavesAs (.ldf h2 (mf 3)) 0x10000 8 0 .ldf 0x50008 8 &&
    leavesAs (.ald h2 (mf 3)) 0x20000 8 0 .ald 0x60008 8 && leavesAs (.ald h2 (mf 2)) 0 8 0 .ald 0x40008 4 &&
    leavesAs (.stg h2 (mf 1)) 0xFFFE 0 7 .stg 0x4FFFE 2 && leavesAs (.stf h2 (mf 3)) 0x10000 0 7 .stf 0x50000 8 &&
    leavesAs (.clrf h2 ⟨0, 1, 2, 0, 0, 3, false, 0, 0⟩) 0x1FFF8 0 7 .clrf 0x5FFF8 8 = true := by decide +kernel

theorem witness_AtomicsLeave : ([(.aadd, .aadd), (.amin, .amin), (.amax, .amax), (.axchg, .axchg), (.aor, .aor), (.aand, .aand)] :
    List ((Hdr → FmtX → Instr) × AccKind)).all (fun x => leavesAs (x.1 h2 (xf 3 1 2 0 0xC)) 0x20008 7 0 x.2 0x60008 8) &&
    leavesAs (.afadd h2 (xf 3 1 2 0 8)) 0x20004 7 0 .afadd 0x60004 4 && leavesAs (.acas h2 (xf 3 1 2 4 0xC)) 0x20008 7 0 .acas 0x60008 8 =
    true := by decide +kernel

def ldgStops (c : Cell) (a b : Val) (cause tval : Nat) : Bool :=
  runs (.ldg h0 (mf 3)) h0 (glob { c with g := [(1, a), (2, b)], ha := [(16, 0x10100)] })
    (fun _ c => c.pc = 0x100 && field c.sys.trap 0 8 = cause && c.sys.tval.toNat = tval)

theorem witness_GlobalAccessCauses :
    ldgStops {} (po 4) (cl 0) 3 4 && ldgStops {} (cl (2 ^ 57)) (cl 0) 5 (2 ^ 57) && ldgStops { refused := some 0x80000 } (cl 0x80000) (cl 0) 5 0x80000 &&
    runs (.ldg h0 (mf 3)) h0 (glob { g := [(1, cl 0x80000)] }) (fun _ c => c.st = .asleep && c.missing = some (0x80000, false) && c.pc = 0) &&
    ldgStops {} (cl 0x30000) (cl 0) 5 0x30000 && ldgStops {} (cl 0x10000) (po 0) 6 0x10000 && ldgStops {} (cl 0) (po 0) 8 2 = true := by
  decide +kernel

theorem witness_FencesWait :
    let f (n : BitVec 3) : FmtM := ⟨0, 0, 0, 0, 0, 0, false, n, 0⟩
    let x : Access := ⟨.stg, 0, 0x40000, 8, false, false, 0, 0, 0, cl 1, cl 0, ⟨none, 0, 0, 0, 0, false, 0⟩, .sent, 0, 5⟩
    runs (.fence h0 (f 0)) h0 (run {}) (fun _ c => c.pc = 1) && runs (.fence h0 (f 2)) h0 (run {}) (fun _ c => c.pc = 1) &&
    runs (.fence h0 (f 3)) h0 { run {} with blocks := [(0, { comb := [⟨0, 1, [], 0, false, false, []⟩], combNo := 1 })] }
      (fun t c => (t.block 0).comb.all (fun e => e.sent) && (c.pc = 1 || c.st = .asleep)) &&
    runs (.fence h0 (f 4)) h0 (run {}) (fun _ c => c.pc = 1) &&
    runs (.fence h0 (f 1)) h0 (run { accs := [x], iseq := 4 }) (fun _ c => c.st = .asleep && c.pc = 0) = true := by decide +kernel

/-! ### Memory tiles -/

/-- Cell 0 has sent an access of the address pa, with data 7 and expected value 3. -/
def acc (kind : AccKind) (pa size : Nat) (sgn : Bool := false) : Access :=
  ⟨kind, 0x999, pa, size, false, sgn, 0, 0, 3, cl 7, cl 3, ⟨some 2, 5, 9, 0, 0, false, 0⟩, .sent, 0, 0⟩
def tile (x : Access) : State :=
  { run { accs := [x], slots := [(2, .pending)], busy := [3] } with mem := [⟨0x40000, 3⟩, ⟨0x40009, 0x80⟩] }
def status (t : State) : List AccStatus := (t.cell 0).accs.map (fun x => x.status)
def turnB (s : State) (x : Access) : Bool :=
  s.me.accs = [x] && x.status = .sent && s.inOrder s.me x && s.own x.pa && (match s.combCase 0 x with | .past => true | _ => false) &&
  !s.hostHeld (x.pa % 2 ^ 50) && !s.vaultBusy (x.pa % 2 ^ 50) && x.pa % x.size = 0

theorem witness_TileTurn : turnB (tile (acc .ldg 0x40000 8)) (acc .ldg 0x40000 8) = true := by decide +kernel

theorem witness_TileReads :
    gives (.tileRead 0 0) (tile (acc .ldg 0x40008 8)) (fun t => status t = [.done (cl 0x8000) 0]) &&
    gives (.tileRead 0 0) { tile (acc .ldf 0x40000 8) with present := [(0x8000, true)], memPoison := [(0x8000, true)] }
      (fun t => status t = [.done (po 3) 0]) &&
    gives (.tileRead 0 0) (tile (acc .ldf 0x40000 8)) (fun t => status t = [.deferred] && t.deferTable 0 = [(0x8000, .ask (.cell 0 5))]) &&
    gives (.tileRead 0 0) { tile (acc .ldf 0x40000 8) with deferred := [(0, List.replicate 120 (1, .service (.cell 3 0)))] }
      (fun t => status t = [.nacked 1]) = true := by decide +kernel

theorem witness_TileWrites :
    gives (.tileWrite (.cell 0 0)) { tile (acc .stg 0x40000 8) with memPoison := [(0x8000, true)] }
      (fun t => t.mem.read 0x40000 8 = 7 && !t.memPoison.has 0x8000 && t.mem.byte 0x40009 = 0x80) &&
    gives (.tileWrite (.cell 0 0)) (tile (acc .stg 0x40009 1)) (fun t => t.mem.byte 0x40009 = 7 && t.mem.byte 0x40000 = 3) &&
    gives (.tileFill 0 0) (tile (acc .stf 0x40008 8)) (fun t => t.mem.read 0x40008 8 = 7 && t.present.has 0x8001) &&
    gives (.tileFill 0 0) { tile (acc .stf 0x40000 8) with present := [(0x8000, true)] } (fun t => status t = [.failed 7]) &&
    gives (.tileClrf 0 0) { tile (acc .clrf 0x40000 8) with present := [(0x8000, true)] } (fun t => t.present = [] && t.mem.byte 0x40000 = 3) =
    true := by decide +kernel

theorem witness_FillsServeDeferredReads :
    let y : Access := { acc .ldf 0x40008 8 with status := .deferred }
    let s : State := { tile (acc .stf 0x40008 8) with
      cells := [(0, { st := .running, accs := [acc .stf 0x40008 8] }), (4, { st := .running, accs := [y] })], deferred := [(0, [(0x8001, .ask (.cell 4 5))])] }
    gives (.tileFill 0 0) s (fun t => (t.cell 4).accs.map (fun x => x.status) = [.done (cl 7) 0] && t.deferTable 0 = []) = true := by
  decide +kernel

/-- An atomic on the word 3 gives 3 and stores new; on bytes 8 to 11 it sees 0x8000, with sign bit 31 clear. -/
theorem witness_TileAtomics : ([(.aadd, false, 10), (.axchg, false, 7), (.acas, false, 7), (.aor, false, 7), (.aand, false, 3), (.amin, false, 3),
    (.amax, false, 7), (.amin, true, 3), (.amax, true, 7), (.ald, false, 3)] : List (AccKind × Bool × Nat)).all (fun x =>
      turnB (tile (acc x.1 0x40000 8 x.2.1)) (acc x.1 0x40000 8 x.2.1) && gives (.tileAtomic 0 0) (tile (acc x.1 0x40000 8 x.2.1))
        (fun t => t.mem.read 0x40000 8 = x.2.2 && status t = [.done (cl 3) 0])) = true := by decide +kernel

theorem witness_TileAtomics_signed :
    let s (k : AccKind) : State := { tile (acc k 0x40000 4 true) with mem := [⟨0x40000, 0xFF⟩, ⟨0x40001, 0xFF⟩, ⟨0x40002, 0xFF⟩, ⟨0x40003, 0xFF⟩] }
    gives (.tileAtomic 0 0) (s .amin) (fun t => t.mem.read 0x40000 8 = 0xFFFFFFFF && status t = [.done (cl 0xFFFFFFFF) 0]) &&
    gives (.tileAtomic 0 0) (s .amax) (fun t => t.mem.read 0x40000 8 = 7) = true := by decide +kernel

/-- 1.0 + 2.0 = 3.0 in F32 and F64. -/
theorem witness_TileFloatingAdd :
    let s (size one two : Nat) : State := { tile { acc .afadd 0x40000 size with data := cl two } with mem := Memory.write [] 0x40000 8 one }
    gives (.tileAtomic 0 0) (s 4 0x3F800000 0x40000000) (fun t => t.mem.read 0x40000 8 = 0x40400000) &&
    gives (.tileAtomic 0 0) (s 8 0x3FF0000000000000 0x4000000000000000) (fun t => t.mem.read 0x40000 8 = 0x4008000000000000) = true := by
  decide +kernel

theorem witness_RepliesReachTheCell :
    let done (x : Access) : Access := { x with status := .done (po 0x80) 4 }
    gives (.deferredReadRetry 0 0) { tile { acc .ldf 0x40000 8 with status := .nacked 1 } with present := [(0x8000, true)] }
      (fun t => status t = [.done (cl 3) 0]) &&
    gives (.accessReply 0 0) (tile (done { acc .ldg 0x40000 1 with sx := true })) (fun t => (t.cell 0).reg 3 = ⟨-128, true⟩ &&
      (t.cell 0).sys.flags = 4 && (t.cell 0).slot 2 = .idle && (t.cell 0).busy = [] && (t.cell 0).accs = []) &&
    gives (.accessReply 0 0) (tile (done (acc .stg 0x40000 1))) (fun t => (t.cell 0).reg 3 = cl 0 && (t.cell 0).slot 2 = .idle) &&
    gives (.accessReply 0 0) (tile { acc .ldg 0x40000 1 with status := .failed 5 }) (fun t => (t.cell 0).slot 2 = .faulted &&
      (t.cell 0).faults.map (fun r => (r.cause, r.tval, r.pc)) = [(5, 0x999, 9)]) = true := by decide +kernel

theorem witness_BuffersFlushAndGroupsAreRebuilt :
    let s (sent : Bool) : State := { run {} with blocks := [(0, { comb := [⟨0, 0x1000, [(3, 5)], 0, sent, false, []⟩] })], mem := [⟨0x40000, 3⟩] }
    gives (.combineFlushTimeout 0) (s false) (fun t => (t.block 0).comb.all (fun e => e.sent) && t.mem.byte 0x40003 = 0) &&
    gives (.tileWrite (.comb 0 0)) (s true) (fun t => (t.block 0).comb = [] && t.mem.byte 0x40003 = 5 && t.mem.byte 0x40000 = 3) &&
    gives (.backgroundScrub (.lstore 0 1) 63) (run { upsets := [(127, ⟨1, 0, false⟩)] }) (fun t => t.rebuilds = [⟨.lstore 0 1, 0⟩]) &&
    gives (.backgroundScrub (.lstore 0 1) 62) (run { upsets := [(127, ⟨1, 0, false⟩)] }) (fun t => t.rebuilds = []) = true := by decide +kernel

/-- A word whose byte 7 fails is restored from the other rows of its group; two words that both fail in byte 0 are poisoned. -/
theorem witness_BuffersFlushAndGroupsAreRebuilt_rebuild :
    let one : Upset := ⟨0x0100000000000000, 0, false⟩
    let s (c : Cell) : State := { run c with rebuilds := [⟨.lstore 0 1, 0⟩], now := 80 }
    one.seen && one.lanes = [7] && (upto 8).all (fun b => one.lanes.contains b || field one.data (8 * b) 8 = 0) &&
    gives (.parityRebuildDone (.lstore 0 1)) (s { upsets := [(127, one)], store := (({} : Cell).stWord 0x3F8 (cl 0x0300000000000007)).store })
      (fun t => t.rebuilds = [] && (t.cell 0).upsets = [] && (t.cell 0).ldWord 0x3F8 = cl 0x0200000000000007) &&
    gives (.parityRebuildDone (.lstore 0 1)) (s { upsets := [(64, ⟨1, 0, false⟩), (127, ⟨4, 0, false⟩)] })
      (fun t => t.rebuilds = [] && (t.cell 0).storePoison.has 64 && (t.cell 0).storePoison.has 127 && (t.row 0).fq.length = 2) = true := by decide +kernel

theorem witness_TranslationsAreFilledAndRemoved :
    let p : Page := ⟨0x10000, entryOf 0 0 0x40000 5 true false, 0⟩
    let ch (cut : List CacheId) : Change := ⟨.cell 3 0, 0x10000, 0x10000, 5, .unmap, [.cell 0, .cell 1], cut⟩
    let s : State := { run { missing := some (0x10008, true), ident := { dom := 5 } } with pages := [p] }
    gives (.translationMissRequest 0) s (fun t => SMap.get [] t.misses 0 = [(.cell 0, 0x10008, 0x50000000000C00)]) &&
    gives (.translationFill 0) { s with misses := [(0, [(.cell 0, 0x10008, 0)])] } (fun t => (t.cell 0).tlb.map (fun q => q.va) = [0x10000] &&
      (t.block 0).tlb.map (fun q => (q.va, q.tag)) = [(0x10000, 5)] && SMap.get [] t.misses 0 = []) &&
    gives (.translationFill 0) { s with misses := [(0, [(.cell 0, 0x20000, 0)])] } (fun t => (t.cell 0).refused = some 0x20000) &&
    !s.changing 0x10008 && gives (.translationFill 0) { s with misses := [(0, [(.block 3 7, 0x10008, 0)])] } (fun t => SMap.get [] t.misses 0 = [] &&
      (t.block 3).tlb.map (fun q => (q.va, q.tag)) = [(0x10000, 7)]) &&
    gives (.translationInvalidate (.cell 0) 0x10000 0x10000 5) { run { tlb := [p, { p with va := 0x30000 }] } with changes := [ch []] }
      (fun t => (t.cell 0).tlb.map (fun q => q.va) = [0x30000] && t.changes.all (fun c => c.cut = [.cell 0])) &&
    gives (.invalidateAck (.cell 0)) { run {} with changes := [ch [.cell 0]] } (fun t => t.changes.all (fun c => c.waits = [.cell 1])) &&
    State.cacheQuiet { run {} with changes := [ch [.cell 0]] } (ch [.cell 0]) (.cell 0) = true := by decide +kernel

/-- The host's addresses are those from HB on, which the host sets. -/
theorem host_addr (p x : Nat) (h : x < hbmTop - hbmBase) : hostAddr p (Config.hostBase p + x) = some (hbmBase + x) := by
  unfold hostAddr; rw [if_pos ⟨by omega, by omega⟩, Nat.add_sub_cancel_left]

theorem witness_HostSharedRegionsChangeOwner :
    let n := regionOf hbmBase
    let s (r : Region) : State := { run {} with
      regions := [(n, r)], pages := [⟨0, entryOf 0 1 hbmBase 5 true true, 0⟩], now := 5000, carrier := { hosts := [(0, { up := true, mem := true })] } }
    (s {}).hostShared hbmBase && !(run {}).hostShared hbmBase && ((s {}).host 0).mem &&
    ((s { reqs := [(0, 0, ⟨false, 0, 0⟩)] }).region n).reqs.length = 1 && (s {}).blocks = [] &&
    gives (.backInvalidateComplete n []) { s { host := true, held := [(hbmBase, .ask (.eag 255 0))] } with mem := [⟨hbmBase, 9⟩], eags := [(255, { words := [(0, .asked 0)] })] }
      (fun t => !(t.region n).host && (t.region n).held = [] && t.wordSt (.eag 255 0) = some (.got (cl 9))) &&
    gives (.ownerHoldExpiry n) (s { since := some 3400 }) (fun t => (t.region n).since = none) = true := by decide +kernel

/-! ### The strip event unit -/

/-- Strip 0 with line 3 enabled for slots 0 and 7, event line 7 (OR) for them, event line 6 (AND), and mutex 3. -/
def unit0 (b : Barrier) (e : EventLine) (m : Mutex) : Strip :=
  { bars := [(3, { b with cfg := 0x281 })], evs := [(6, { e with cfg := 0x681 }), (7, { e with cfg := 0x481 })], muts := [(3, m)], live := some 0 }
def evState (b : Barrier) (e : EventLine) (m : Mutex) (c : Cell) : State := { run c with strips := [(0, unit0 b e m)] }
def evCase (i : Instr) (h : Hdr) (s : State) (p : Strip → Cell → Bool) : Bool := runs i h s (fun t c => p (t.strip 0) c)

theorem witness_EventUnitInstructions :
    let g : Cell := { g := [(1, po 0x100000009)] }
    evCase (.evarr h2 (xf 0 0 0 0 3)) h2 (evState {} {} {} g) (fun t c => t.evq.map (fun x => x.op) = [.arrive 3 none] && c.slot 2 = .pending) &&
    evCase (.evcmb h2 (xf 3 1 0 0 (3 + 4 * 5))) h2 (evState {} {} {} g) (fun t c => t.evq.map (fun x => x.op) = [.arrive 3 (some ⟨9, true, 5, false⟩)] &&
      c.slot 2 = .pending) &&
    evCase (.evwaitB h0 (xf 3 0 0 0 3)) h0 (evState { gen := 2, res := 9, resP := true } {} {} g) (fun _ c => c.reg 3 = po (2 * 2 ^ 32 + 9)) &&
    evCase (.evwaitE h0 (xf 3 0 0 0 (8 + 7))) h0 (evState {} { pend := 0x81, fcnt := 5 } {} g) (fun t c => c.reg 3 = cl 5 && (t.ev 7).pend = 0x80) &&
    evCase (.evsig h2 (xf 0 0 0 0 7)) h2 (evState {} { sigd := 1 } {} g) (fun t _ => t.evq.map (fun x => x.op) = [.signal 7]) &&
    evCase (.evsig h2 (xf 0 0 0 0 6)) h2 (evState {} {} {} g) (fun t _ => t.evq.map (fun x => x.op) = [.signal 6]) &&
    evCase (.evunlk h2 (xf 0 0 0 0 3)) h2 (evState {} {} { hold := some 0 } g) (fun t _ => t.evq.map (fun x => x.op) = [.unlock 3]) &&
    evCase (.evlock h0 (xf 0 0 0 0 3)) h0 (evState {} {} {} g) (fun t c => t.evq.map (fun x => x.op) = [.lock 3] && c.st = .asleep && c.pc = 0) &&
    evCase (.evlock h0 (xf 0 0 0 0 3)) h0 (evState {} {} { hold := some 0 } { g with step := 1 }) (fun _ c => c.pc = 1) = true := by decide +kernel

theorem witness_EventUnitChanges :
    let tk : Tok := ⟨none, 0, 0, 0, 0, false, 0⟩
    let s (b : Barrier) (e : EventLine) (m : Mutex) (op : EvOp) (j : Nat) : State :=
      { evState b e m {} with strips := [(0, { unit0 b e m with evq := [⟨0, j, op, tk⟩] })], now := 10 }
    gives (.eventApply 0) (s { arr := 1, accv := some ⟨5, false, 0, false⟩ } {} {} (.arrive 3 (some ⟨4, false, 0, false⟩)) 7)
      (fun t => ((t.strip 0).bar 3).gen = 1 && ((t.strip 0).bar 3).arr = 0 && ((t.strip 0).bar 3).res = 4) &&
    gives (.eventApply 0) (s {} {} {} (.arrive 3 (some ⟨4, false, 0, false⟩)) 7) (fun t => ((t.strip 0).bar 3).gen = 0 &&
      ((t.strip 0).bar 3).arr = 0x80 && ((t.strip 0).bar 3).accv = some ⟨4, false, 0, false⟩) &&
    gives (.eventApply 0) (s {} {} {} (.signal 7) 0) (fun t => (t.strip 0).ev 7 = { cfg := 0x481, fcnt := 1, pend := 0x81 }) &&
    gives (.eventApply 0) (s {} {} { hold := some 0, wq := [7] } (.unlock 3) 0) (fun t => ((t.strip 0).mut 3).hold = some 7 &&
      ((t.strip 0).mut 3).wq = []) &&
    gives (.eventApply 0) (s {} {} {} (.lock 3) 7) (fun t => ((t.strip 0).mut 3).hold = some 7) = true := by decide +kernel

theorem witness_EventUnitChanges_messages :
    let s (x : Strip) : State := { run {} with strips := [(0, x), (4, {})] }
    gives (.eventUpMessage 0) (s { unit0 {} {} {} with kids := [(7, 0x8004)], ups := [⟨4, 3, some ⟨6, false, 2, false⟩⟩] })
      (fun t => ((t.strip 0).bar 3).accv = some ⟨6, false, 2, false⟩ && ((t.strip 0).bar 3).reports = 0x80 && (t.strip 0).ups = []) &&
    gives (.eventDownMessage 0) (s { unit0 { arr := 0x81 } {} {} with downs := [(3, 9, true)] }) (fun t => ((t.strip 0).bar 3).gen = 1 &&
      ((t.strip 0).bar 3).arr = 0 && ((t.strip 0).bar 3).res = 9 && ((t.strip 0).bar 3).resP) &&
    gives (.eventParentFire 0) (s { unit0 {} {} {} with fires := [6] }) (fun t => (t.strip 0).ev 6 = { cfg := 0x681, fcnt := 1, pend := 0x81 }) =
    true := by decide +kernel

/-! ### The vector unit -/

/-- v1 holds 3, 5, … in 32-bit elements, v2 holds 4, -1; VL is 2; g1 and g2 hold 0x40 and 0, g3 a header of VSDE. -/
def vecCell : Cell :=
  let v : SMap VReg := [(1, { d := BitVec.ofNat 16384 (3 + 5 * 2 ^ 32) }), (2, { d := BitVec.ofNat 16384 (4 + (2 ^ 32 - 1) * 2 ^ 32) })]
  { vec := { v, vl := 2 }, g := [(1, cl 0x40)] }
/-- D, A, B, C, TY and FN of a vector instruction without mask. -/
def vf (d a b c : BitVec 6) (ty : BitVec 4) (fn : BitVec 3 := 0) : FmtV := ⟨d, a, b, c, 0, false, 0, ty, 0, false, fn⟩
def queues (i : Instr) (c : Cell) : Bool := runs i h2 (run c) (fun _ c => c.vec.queue.length = 1 && c.slot 2 = .pending && c.pc = 1 &&
  c.vec.queue.all (fun e => e.op = Instr.op i && e.vl = 2))

theorem witness_VectorInstructionsEnterTheQueue :
    ([.vadd, .vsub, .vmul, .vdiv, .vmin, .vmax] : List (Hdr → FmtV → Instr)).all (fun mk => queues (mk h2 (vf 3 1 2 0 10)) vecCell) &&
    ([.vand, .vor, .vxor, .vshl, .vshr, .vsra] : List (Hdr → FmtV → Instr)).all (fun mk => queues (mk h2 (vf 3 1 2 0 2)) vecCell) &&
    ([.vsqrt, .vrcp, .vexp2, .vsig, .vabs, .vneg] : List (Hdr → FmtV → Instr)).all (fun mk => queues (mk h2 (vf 3 1 0 0 10)) vecCell) &&
    queues (.vfma h2 (vf 3 1 2 4 10)) vecCell && queues (.vfms h2 (vf 3 1 2 4 10)) vecCell && queues (.vcmp h2 (vf 3 1 2 0 10 6)) vecCell &&
    queues (.vsel h2 (vf 3 1 2 7 2)) vecCell && queues (.vcvt h2 (vf 3 1 0 13 10)) vecCell && queues (.vred h2 (vf 33 1 0 0 2 5)) vecCell &&
    queues (.vscan h2 (vf 3 1 0 0 2 5)) vecCell && queues (.vperm h2 (vf 3 1 2 0 2)) vecCell && queues (.viotaCnt h2 (vf 3 0 0 7 2 1)) vecCell &&
    queues (.vmovp h2 (vf 3 1 2 0 0 3)) vecCell = true := by decide +kernel

theorem witness_VectorInstructionsEnterTheQueue_memory :
    queues (.vldl h2 (vf 3 33 34 0 2)) vecCell && queues (.vstl h2 (vf 0 33 34 1 2)) vecCell && queues (.vsdc h2 (vf 3 33 34 0 14)) vecCell &&
    queues (.viota h2 (vf 3 33 34 0 2)) vecCell && queues (.vgath h2 (vf 3 33 2 0 2)) vecCell && queues (.vscat h2 (vf 0 33 2 1 2)) vecCell &&
    queues (.vbcast h2 (vf 3 33 0 0 2)) vecCell && queues (.vbcast h2 (vf 3 1 34 0 2)) vecCell && queues (.vext h2 (vf 33 1 34 0 2)) vecCell &&
    queues (.vsdd h2 (vf 3 33 34 0 10)) vecCell && queues (.vmovpRd h2 (vf 33 1 34 0 0 5)) vecCell && queues (.vmovpWr h2 (vf 1 33 34 0 0 6)) vecCell &&
    queues (.vpopq h2 (vf 3 0 0 7 2)) (stored vecCell 7 []) && queues (.vpushq h2 (vf 0 1 0 3 2)) (outbound vecCell 3) = true := by decide +kernel

theorem witness_VSDE : let h : Nat := 0x4801
    hdrBad (cl h).v = false && hdrE (cl h).v ≠ 255 → queues (.vsde h2 (vf 0 1 33 35 10)) { vecCell with g := [(1, cl 0x40), (3, cl h)] } = true := by
  decide +kernel

theorem witness_VsetlSets : ([(0, 33, 0x40, 64), (0, 33, 9, 9)] : List (BitVec 3 × BitVec 6 × Nat × Nat)).all (fun x =>
      runs (.vsetl h0 (vf 35 x.2.1 0 0 2 x.1)) h0 (run { g := [(1, cl x.2.2.1)] }) (fun _ c => c.vec.vl = x.2.2.2 && c.reg 3 = cl x.2.2.2)) &&
    runs (.vsetl h0 (vf 35 0 0 0 0 1)) h0 (run { ident := { ext0 := 5000 } }) (fun _ c => c.vec.vl = 512 && c.reg 3 = cl 2048) &&
    runs (.vsetl h0 (vf 35 0 0 0 3 2)) h0 (run { ident := { ext1 := 3 } }) (fun _ c => c.vec.vl = 6 && c.reg 3 = cl 3) &&
    runs (.vsetl h0 (vf 35 0 0 0 2 3)) h0 (run { ident := { ext2 := 0 } }) (fun _ c => c.vec.vl = 0) &&
    runs (.vsetl h0 (vf 35 0 0 0 2 4)) h0 (run { ident := { ext3 := 512 } }) (fun _ c => c.vec.vl = 512) = true := by decide +kernel

/-- Every slot of the lane groups and of the port taken. -/
def allTaken : SMap Nat := [(0, 9), (1, 9), (2, 9), (3, 9), (4, 9)]
def ventry (op : BitVec 8) (f : FmtV) (begun : Bool) : VEntry where
  op := op
  f := f
  x := ⟨0, 0, 0, 0, 0⟩
  ga := cl 0x40
  gb := cl 0
  gc := cl 0
  mode := 0
  lfsr := 1
  vl := 2
  tok := ⟨some 2, 5, 0, op, 0, false, 0⟩
  begun := begun
  taken := allTaken
def vecState (e : VEntry) : State := run { vecCell with vec := { vecCell.vec with queue := [e] }, slots := [(2, .pending)] }

/-- VADD, VSUB, VMUL, VAND, VOR, VXOR, VSHL and VSHR of 3 and 4, and of 5 and -1, from v1 and v2 to v3. -/
theorem witness_VectorLaneResults : ([(0x88, 7, 4), (0x89, 2 ^ 32 - 1, 6), (0x8A, 12, 2 ^ 32 - 5), (0x98, 0, 5), (0x99, 7, 2 ^ 32 - 1),
    (0x9A, 7, 2 ^ 32 - 6), (0x9B, 48, 2 ^ 31), (0x9C, 0, 0)] : List (BitVec 8 × Nat × Nat)).all (fun x =>
      isLane x.1 && isInt 2 && (ventry x.1 (vf 3 1 2 0 2) true).spent && gives (.vectorCompletion 0 0) (vecState (ventry x.1 (vf 3 1 2 0 2) true)) (fun t =>
        ((t.cell 0).vec.reg 3).elem 32 0 = (x.2.1, false) && ((t.cell 0).vec.reg 3).elem 32 1 = (x.2.2, false) &&
        ((t.cell 0).vec.reg 3).elem 32 2 = (0, false) && (t.cell 0).slot 2 = .idle && (t.cell 0).vec.queue = [])) = true := by decide +kernel

/-- With a mask, element 1 is inactive: it keeps its value, or reads 0 under PZ. -/
theorem witness_VectorLaneResults_masked :
    let q (pz : Bool) : List VEntry := [ventry 0x88 { vf 2 1 2 0 2 with p := 1, pz } true]
    let s (pz : Bool) : State := run { vecCell with vec := { vecCell.vec with m := [(1, { b := 1 })], queue := q pz } }
    gives (.vectorCompletion 0 0) (s false) (fun t => ((t.cell 0).vec.reg 2).elem 32 1 = (2 ^ 32 - 1, false) &&
      ((t.cell 0).vec.reg 2).elem 32 0 = (7, false)) &&
    gives (.vectorCompletion 0 0) (s true) (fun t => ((t.cell 0).vec.reg 2).elem 32 1 = (0, false)) = true := by decide +kernel

theorem witness_VectorPortInstructions :
    let ld (a : Nat) (b : Bool) : VEntry := { ventry 0xA2 (vf 3 33 34 0 2) b with ga := cl a }
    let s (e : VEntry) : State := let t := vecState e; t.setCell 0 { t.cell 0 with store := (({} : Cell).stWord 0x40 (cl 0x700000006)).store }
    gives (.vectorPortStart 0) (s (ld 0x40 false)) (fun t => (t.cell 0).vec.queue.all (fun e => e.begun) && (t.cell 0).vec.queue.length = 1) &&
    gives (.vectorPortStart 0) (s (ld 0x41 false)) (fun t => (t.cell 0).vec.queue = [] && (t.cell 0).slot 2 = .faulted &&
      (t.cell 0).faults.map (fun r => (r.cause, r.vector)) = [(3, true)]) &&
    gives (.vectorCompletion 0 0) (s (ld 0x40 true)) (fun t => ((t.cell 0).vec.reg 3).elem 32 0 = (6, false) &&
      ((t.cell 0).vec.reg 3).elem 32 1 = (7, false) && (t.cell 0).slot 2 = .idle) &&
    gives (.vectorCompletion 0 0) (s (ventry 0xA7 (vf 35 1 34 0 2) true)) (fun t => (t.cell 0).reg 3 = cl 3) &&
    [(0, 8), (1, 14), (2, 6), (3, 4)].all (fun x => gives (.vectorCompletion 0 0) (let t := vecState (ventry 0xAD (vf 3 1 2 0 0 (BitVec.ofNat 3 x.1)) true)
      t.setCell 0 { t.cell 0 with vec := { (t.cell 0).vec with m := [(1, { b := 12 }), (2, { b := 10 })] } })
      (fun t => ((t.cell 0).vec.mask 3).b = BitVec.ofNat 512 x.2)) = true := by decide +kernel

/-! ### Predicates -/

theorem witness_PredicateInstructions :
    ([.pori2, .pori3, .pinci, .pinsp, .psegx] : List (Hdr → FmtX → Instr)).all (fun mk => runs (mk h2 (xf 3 1 2 7 0)) h2 (run vecCell)
      (fun _ c => c.vec.queue.length = 1 && c.slot 2 = .pending)) &&
    runs (.pstat h0 (xf 3 0 0 0 1)) h0 (run { vec := { cnta := 65535, cntb := 2, cntc := 3, cntp := 255 } })
      (fun _ c => c.reg 3 = cl (65535 * 2 ^ 48 + 2 * 2 ^ 32 + 3 * 2 ^ 16 + 255 * 2 ^ 8) && c.vec.cnta = 0) = true := by decide +kernel

/-- One lane of PORI2 with the points (0, 0), (1, 0), (0, 1), which turn left: the determinant is positive. -/
def left : List Val := [cl 0, cl 0, cl 0x3FF0000000000000, cl 0, cl 0, cl 0x3FF0000000000000]
def pentry (begun : Bool) (ls : List PredLane) : VEntry :=
  { ventry 0xC0 (vf 0 0 0 0 0) begun with x := xf 3 1 2 7 0x80, ga := cl 0, lfsr := 0, vl := 0, lanes := ls }
def lane0 : PredLane := { lane := 0, words := left, pois := false }
def predCell (q p : List VEntry) : Cell :=
  let c := (List.range 6).foldl (fun (c : Cell) j => c.stWord (8 * j) (left.getD j Val.zero)) {}
  { c with vec := { queue := q, preds := p, m := [(1, { b := 1 })] }, slots := [(2, .pending)] }

theorem witness_PredicatePhases :
    gives (.predicateReadPhase 0) (run (predCell [pentry false []] [])) (fun t => (t.cell 0).vec.queue = [{ pentry true [lane0] with cost := 6 }]) &&
    gives (.predicateReadPhase 0) (run { predCell [{ pentry false [] with ga := cl 4 }] [] with store := [] })
      (fun t => (t.cell 0).vec.queue = [] && (t.cell 0).faults.map (fun r => (r.cause, r.tval)) = [(3, 4)]) &&
    gives (.predicateHandoff 0 5) (run (predCell [{ pentry true [lane0] with cost := 6 }] [])) (fun t => (t.cell 0).vec.queue = [] &&
      (t.cell 0).vec.preds.flatMap (fun e => e.lanes.map (fun x => (x.stage, x.res))) = [(.a, 1)]) &&
    gives (.stageBSettle 0 0 []) { run (predCell [] [pentry true [lane0]]) with quads := [(0, { stageB := [⟨0, 5, 0, 9⟩] })] }
      (fun t => (t.quad 0).stageB = [] && (t.cell 0).vec.preds.length = 1) &&
    gives (.stageCBurstStart 0) { run (predCell [] [pentry true [lane0]]) with quads := [(0, { stageC := [⟨0, 5, [0], false, false⟩] })] }
      (fun t => (t.block 0).reqs.length = 1 && (t.quad 0).stageC.all (fun b => b.asked)) &&
    gives (.stageCLaneSettle 0 []) { run (predCell [] [pentry true [lane0]]) with quads := [(0, { stageC := [⟨0, 5, [0], true, true⟩] })] }
      (fun t => (t.quad 0).stageC = []) &&
    gives (.predicateCompletion 0 0) (run (predCell [] [pentry true [{ lane0 with stage := .a, res := -1, z := true }]])) (fun t =>
      (t.cell 0).vec.preds = [] && ((t.cell 0).vec.reg 3).elem 32 0 = (2 ^ 32 - 1, false) && ((t.cell 0).vec.mask 7).b = 1 &&
      (t.cell 0).slot 2 = .idle && (t.cell 0).vec.cnta = 1) = true := by decide +kernel

/-- A turn that stage A leaves open, with the points (0, 0), (1, 1) and (2, 2): stages B and C find 0. -/
theorem witness_PredicatePhases_exact :
    let two : Val := cl 0x4000000000000000
    let one : Val := cl 0x3FF0000000000000
    let x : PredLane := { lane0 with words := [cl 0, cl 0, one, one, two, two] }
    let e : VEntry := pentry true [x]
    (e.laneRes x).any (fun r => r.stage ≠ .a && (e.leave (fun _ => 0) r.stage false x).res = 0 &&
      (e.leave (fun _ => 0) r.stage false x).stage = r.stage && (e.leave (fun _ => 0) r.stage false x).z) = true := by decide +kernel

/-! ### The matrix array -/

/-- The eight cells of strip 0 in one load. -/
def stripState (c : Cell) (f : Nat → Cell → Cell) : State :=
  { cells := (List.range 8).map (fun k => (k, f k { c with st := .running, sys := { entry := 0 }, ident := { load := 6 } })) }
/-- A descriptor of one plane set with NS = 1 at address 0. -/
def aDesc : Nat := 1 * 2 ^ 17
def bDesc : Nat := 1 * 2 ^ 17 + 1 * 2 ^ 22

theorem witness_MatrixEntries :
    let c : Cell := { g := [(1, cl aDesc), (2, cl bDesc), (4, cl 1)] }
    runs (.mgang h2 (xf 0 1 2 4 (7 + 8 * 1))) h2 (stripState c (fun _ c => c)) (fun _ c => c.mat.entries.length = 1 && c.mat.joined = 1 &&
      c.slot 2 = .pending && c.mat.entries.all (fun e => e.join.any (fun x => x.acc = 7 && x.n = 1 && x.kb = 1))) &&
    runs (.mleaveRsv h2 (xf 0 0 0 0 8)) h2 (stripState c (fun _ c => c)) (fun _ c => c.mat.entries.all (fun e => e.join.any (fun x => x.kind = 1 && x.w = 8))) &&
    runs (.mleaveRel h2 (xf 0 0 0 0 0x10)) h2 (stripState c (fun _ c => c)) (fun _ c => c.mat.entries.all (fun e => e.join.any (fun x => x.kind = 2))) &&
    runs (.mread h2 (xf 3 0 0 0 15)) h2 (stripState c (fun _ c => c)) (fun _ c => c.mat.entries.map (fun e => (e.acc, e.v, e.clr)) = [(7, 3, true)]) &&
    runs (.mfill h2 (xf 0 3 0 0 7)) h2 (stripState c (fun _ c => c)) (fun _ c => c.mat.entries.map (fun e => (e.acc, e.v)) = [(7, 3)]) &&
    runs (.mswap h2 (xf 3 0 0 0 7)) h2 (stripState c (fun _ c => c)) (fun _ c => c.mat.entries.map (fun e => (e.acc, e.v)) = [(7, 3)]) &&
    runs (.mclr h2 (xf 0 0 0 0 0x81)) h2 (stripState c (fun _ c => c)) (fun _ c => c.mat.entries.map (fun e => e.acc) = [0, 7]) = true := by
  decide +kernel

theorem witness_MatrixSettings :
    port { g := [(1, cl (2 ^ 64 - 32768))] } (.mscl h0 (xf 0 1 0 0 3)) h0 (fun c => c.mat.scale 3 = -32768) &&
    port { mat := { sc := [(3, -32768)] } } (.msclRd h0 (xf 3 0 0 0 7)) h0 (fun c => c.reg 3 = cl (2 ^ 64 - 32768)) &&
    port { mat := { stat := 0x81 } } (.mstat h0 (xf 3 0 0 0 1)) h0 (fun c => c.reg 3 = cl 0x81 && c.mat.stat = 0) &&
    port {} (.mcut h0 (xf 0 0 0 0 31)) h0 (fun c => c.mat.cut = (true, 15)) &&
    port { mat := { cut := (true, 3) } } (.mcutOff h0 (xf 0 0 0 0 0)) h0 (fun c => !c.mat.cut.1) && port {} (.msync h0 (xf 0 0 0 0 0)) h0 (fun c => c.pc = 1) =
    true := by decide +kernel

def joinOf (n : Nat) : MatEntry := ⟨⟨some 2, 5, 0, 0xC8, 0, false, 0⟩, some ⟨0, 0, 1, n, 1, 0, (false, 0), 0, BitVec.ofNat 64 aDesc, BitVec.ofNat 64 bDesc, 0⟩, 1, 0, false⟩
def gangState (f : Nat → MatEntry) (m : StripMat) : State :=
  { stripState { slots := [(2, .pending)] } (fun k c => { c with mat := { entries := [f k] } }) with strips := [(0, { mat := m })] }
def gang (started : Bool) : Group := { j := 0, kind := 0, acc := 1, n := 1, kb := 1, w := 2, started, granted := started }

theorem witness_MatrixArray :
    ((gangState (fun _ => joinOf 1) {}).joins 0 0).length = 8 && gives (.groupFormation 0) (gangState (fun _ => joinOf 1) {})
      (fun t => (t.stripMat 0).groups.length = 1 && (t.stripMat 0).next = 1) &&
    gives (.groupFormation 0) (gangState (fun k => joinOf (if k = 7 then 2 else 1)) {}) (fun t => (t.stripMat 0).groups = [] &&
      (t.cell 7).faults.map (fun r => r.cause) = [11] && (t.cell 0).slot 2 = .faulted) &&
    (gangState (fun _ => joinOf 1) { groups := [gang false] }).eligible 0 (gang false) &&
    gives (.gangLeaveRequest 0) (gangState (fun _ => joinOf 1) { groups := [gang false] }) (fun t => (t.block 0).reqs = [⟨.gang 0 0, 2, 32⟩]) &&
    gives (.gangStart 0) (gangState (fun _ => joinOf 1) { groups := [{ gang false with granted := true }] })
      (fun t => (t.stripMat 0).groups.map (fun g => (g.started, g.covered)) = [(true, false)]) &&
    gives (.gangStart 0) (gangState (fun _ => joinOf 1) { groups := [gang false], rsv := 2 })
      (fun t => (t.stripMat 0).groups.map (fun g => (g.started, g.covered)) = [(true, true)]) &&
    gives (.gangCompletion 0 0 []) (gangState (fun _ => joinOf 1) { groups := [gang true] }) (fun t => (t.stripMat 0).groups = [] &&
      (t.cell 7).mat.entries = [] && (t.cell 7).slot 2 = .idle) = true := by decide +kernel

/-- MREAD.CLR (C9), MFILL (CD), MSWAP (CF) and MCLR (CA) of accumulator 1 and v3, which hold 5 and 9. -/
theorem witness_MatrixTransfers : ([(0xC9, 0, 5), (0xCD, 9, 9), (0xCF, 9, 5), (0xCA, 0, 9)] : List (BitVec 8 × Nat × Nat)).all (fun x =>
    let m : MatState := { acc := [(1, { d := 5 })], entries := [⟨⟨some 2, 5, 0, x.1, 0, false, 0⟩, none, 1, 3, true⟩] }
    gives (.matrixTransferComplete 0 0) (run { mat := m, vec := { v := [(3, { d := 9 })] } })
      (fun t => ((t.cell 0).mat.accOf 1).d.toNat = x.2.1 && ((t.cell 0).vec.reg 3).d.toNat = x.2.2 && (t.cell 0).mat.entries = [])) = true := by
  decide +kernel

/-! ### The exchange -/

/-- Group 15 with agents in cells 0 (participant 0) and 7 (participant 1). -/
def xgrp : XGroup := { cfg := BitVec.ofNat 32 (2 ^ 31 + 2 ^ 20 + 1), agents := [(0, 0), (1, BitVec.ofNat 32 (7 * 8))] }
def xstate (g : XGroup) (a : Agent) (c : Cell) : State :=
  { runWith { c with agents := [(15, a)] } [(7, { st := .running })] with carrier := { xgroups := [(15, g)] }, now := 5000 }

theorem witness_ExchangeInstructions :
    let c : Cell := { (({} : Cell).stWord 0x1FFF8 (cl 16)) with g := [(1, cl 0x1FFF0), (2, cl 64), (3, cl 1), (4, cl 128)] }
    (xstate xgrp {} c).partOf xgrp 0 = some 0 && xgrp.np = 2 &&
    runs (.xsend h0 (xf 3 1 2 0 15)) h0 (xstate xgrp {} c) (fun _ c => (c.agent 15).segs = [⟨1, 0x1FFF0, 64, false⟩] && c.nonReplay) &&
    runs (.xpost h2 (xf 0 1 2 4 15)) h2 (xstate xgrp {} c) (fun _ c => (c.agent 15).st = 1 && (c.agent 15).post.any (fun x =>
      x.demand = [0, 16] && x.base = 64 && x.limit = 128) && c.slot 2 = .pending) &&
    runs (.xgrant h2 (xf 3 2 0 0 15)) h2 (xstate xgrp { st := 1 } c) (fun _ c => (c.agent 15).st = 2 && (c.agent 15).recAt = 64) &&
    runs (.xdone h2 (xf 3 0 0 0 15)) h2 (xstate xgrp { st := 2 } c) (fun _ c => (c.agent 15).st = 2 && (c.agent 15).closing.isSome) &&
    runs (.xdone h2 (xf 3 0 0 0 15)) h2 (xstate xgrp { st := 3 } c) (fun _ c => (c.agent 15).st = 4) &&
    runs (.xstat h0 (xf 3 0 0 0 15)) h0 (xstate xgrp { st := 4, stby := true, fails := 15, held := 5, round := -1 } c)
      (fun _ c => c.reg 3 = cl (65535 * 2 ^ 48 + 4 * 2 ^ 45 + 2 ^ 44 + 15 * 2 ^ 40 + 5)) = true := by decide +kernel

theorem witness_RoundPlans : ((grantRow 1 (fun _ => 10) [0, 1, 2] 15).map (fun x => x.2)).sum ≤ 15 ∧
    (phasePairs [((0, 1), 1), ((0, 2), 1), ((1, 1), 2)]).length = 2 := by decide +kernel

/-- A round in which participant 0 sends 16 bytes to participant 1. -/
def round0 : XRound := planRound 0 65536 [(0, ⟨[0, 16], 0, 0⟩), (1, ⟨[0, 0], 64, 128⟩)] 2

theorem witness_ExchangeRounds :
    let post : Post := ⟨[0, 16], 0, 0⟩
    let tk : Tok := ⟨some 2, 0, 0, 0, 0, false, 0⟩
    let g (r : XRound) : XGroup := { xgrp with rounds := [r], round := 1 }
    round0.phases = [[(0, 1)]] && round0.grant 0 1 = 16 &&
    gives (.xaPostArrival 15 0) (xstate xgrp { post := some post } {}) (fun t => (t.xgroup 15).posts = [(0, post)] && ((t.cell 0).agent 15).arrived) &&
    gives (.xaPostArrival 15 0) (xstate { xgrp with posts := [(1, post)], firstAt := 3977 } { post := some post } {}) (fun t => (t.xgroup 15).posts = [] &&
      (t.xgroup 15).round = 1 && (t.xgroup 15).rounds.length = 1 && ((t.cell 0).agent 15).round = 0) &&
    gives (.xaPostArrival 15 0) (xstate { xgrp with posts := [(1, post)], firstAt := 3976 } { post := some post } {}) (fun t =>
      (t.xgroup 15).posts = [(0, post)] && (t.xgroup 15).round = 1 && ((t.cell 0).agent 15).round = 1) &&
    gives (.xpostAck 15 0) (xstate xgrp { acks := [(tk, true)] } { slots := [(2, .pending)] }) (fun t => (t.cell 0).slot 2 = .idle) &&
    gives (.roundDeadline 15) (xstate { xgrp with posts := [(0, post)], firstAt := 3976 } {} {}) (fun t => (t.xgroup 15).rounds.length = 1) &&
    gives (.calendarWrite 15 0) (xstate (g round0) { st := 2, arrived := true, grant := some (3, tk), recAt := 64 } {})
      (fun t => (t.cell 0).reg 3 = cl 1 && ((t.cell 0).agent 15).st = 3 && (t.cell 0).ldWord 88 = cl 0 && (t.cell 0).ldWord 104 = cl 16) &&
    (g round0).serves && (g round0).each = 32 && gives (.exchangePhaseStart 15) (xstate { g round0 with reserved := 32 } {} {}) (fun t => (t.xgroup 15).rounds.all (fun r => r.running)) &&
    gives (.exchangePairEnd 15 0) (xstate (g { round0 with running := true, written := [0, 1] }) {} {})
      (fun t => (t.xgroup 15).rounds.map (fun r => (r.short, r.phase)) = [([(0, 1)], 1)]) &&
    gives (.xdoneComplete 15 0) (xstate (g { round0 with phase := 1, written := [0, 1] }) { st := 4, closing := some (3, tk), segs := [⟨1, 0, 24, false⟩] } {})
      (fun t => ((t.cell 0).agent 15).st = 0 && (t.cell 0).reg 3 = cl 24 && ((t.cell 0).agent 15).segs.all (fun x => x.held)) = true := by decide +kernel

/-- Participant 0 sends the word at 0x100 to participant 1, whose region begins at 64; both pages lie in the frame at 0x40000. -/
theorem witness_ExchangeRounds_moves :
    let r : XRound := { planRound 0 65536 [(0, ⟨[0, 8], 0, 0⟩), (1, ⟨[0, 0], 64, 128⟩)] 2 with running := true, written := [0, 1] }
    let s : State := { xstate { xgrp with rounds := [r], round := 1 } { segs := [⟨1, 0x100, 8, false⟩] } {} with
      blocks := [(0, { tlb := [⟨0, entryOf 0 0 0x40000 0 true false, 0⟩] })], mem := [⟨0x40041, 7⟩, ⟨0x40100, 9⟩] }
    blockOf 0 = 0 && blockOf 7 = 0 && r.slotLen xgrp.q (0, 1) = 8 && r.place xgrp.q (0, 1) = 64 &&
    gives (.exchangePairEnd 15 0) s (fun t => t.mem.read 0x40040 8 = 9 && t.mem.byte 0x40100 = 9 && ((t.cell 0).agent 15).segs = [] &&
      (t.xgroup 15).rounds.map (fun r => (r.short, r.phase, r.running)) = [([], 1, false)]) = true := by decide +kernel

theorem witness_ExchangeRounds_standby :
    let g : XGroup := { xgrp with stby := 0x80000000 }
    g.hasStandby && gives (.xaHeartbeat 15) (xstate g {} {}) (fun t => (t.xgroup 15).beatAt = 5000) &&
    gives (.xaStandbyTakeover 15) { xstate g {} {} with now := 4 * 2 ^ 16 } (fun t => (t.xgroup 15).taken && ((t.cell 0).agent 15).stby) &&
    gives (.xaStandbyTakeover 15) { xstate g {} {} with now := 4 * 2 ^ 16 - 1 } (fun t => !(t.xgroup 15).taken) = true := by decide +kernel

/-! ### Supervisor instructions, the configuration stream, the scheduler -/

theorem witness_SupervisorInstructions :
    let c := { outbound {} 7 with qreq := true, qcut := 77, sys := { entry := 17 } }
    let o := outbound { g := [(1, cl 0), (2, cl 3)] } 7
    let ws : List WinEnt := [⟨qw 9 3 1, 0, 1, 1, 0, 0⟩, ⟨qw 9 4 1, 0, 0, 0, 0, 0⟩]
    port c (.qfwd h0 (xf 0 0 0 0 (8 * 128))) h0 (fun c => (c.outEp 7).fwd && window c 7 = [(2 * 2 ^ 56 + 77, 7, 0, 0)] && c.pc = 1) &&
    port (c.setOut 7 { c.outEp 7 with fwd := true }) (.qfwd h0 (xf 0 0 0 0 (8 * 128))) h0 (fun c => window c 7 = []) &&
    runs (.parkCut h0 (xf 0 0 0 0 0)) h0 { cells := [(0, { c.setOut 7 { c.outEp 7 with fwd := true } with st := .running })] }
      (fun _ c => c.st = .parked && c.pcause = .cut && c.pc = 1 && !c.qreq) &&
    port {} (.parkSelf h0 (xf 0 0 0 0 1)) h0 (fun c => c.st = .parked && c.pcause = .self && c.pc = 1) &&
    runs (.reinj h0 (xf 3 1 2 0 7)) h0 (runWith (o.setOut 7 { o.outEp 7 with seq := 5, ents := ws }) [(7, receiver {})])
      (fun t c => c.reg 3 = cl 2 && (t.cell 7).rewinds.map (fun r => (r.port, r.expected, r.stop)) = [(2, 3, 5)]) &&
    port { g := [(1, cl 4095)] } (.ptestDom h2 (xf 3 1 0 0 0)) h2 (fun c => c.ptests.map (fun x => x.2.2) = [4095] && c.slot 2 = .pending) &&
    port { g := [(1, cl 262143)] } (.ptestCell h2 (xf 3 1 0 0 1)) h2 (fun c => c.ptests.map (fun x => x.2.2.toNat) = [2 ^ 32 + 262143]) &&
    port { g := [(1, cl (2 ^ 32 - 1))] } (.wdogSet h0 (xf 0 1 0 0 0)) h0 (fun c => c.wdog = some (2 ^ 32 - 1, 0)) &&
    port { wdog := some (5, 0) } (.wdogOff h0 (xf 0 0 0 0 1)) h0 (fun c => c.wdog = none) = true := by decide +kernel

theorem witness_SupervisorEvents :
    let s (q : Nat) : State := { run { ptests := [(3, ⟨some 2, 0, 0, 0, 0, false, 0⟩, BitVec.ofNat 64 q)] } with rows := [(0, { quince := [(5, 2)] })] }
    gives (.ptestReply 0) (s 5) (fun t => (t.cell 0).reg 3 = cl 2 && (t.cell 0).ptests = []) &&
    gives (.ptestReply 0) (s (2 ^ 32)) (fun t => (t.cell 0).reg 3 = ⟨(s 5).me.cstat, false⟩) &&
    gives (.rmWatchdogExpiry 0) { run { wdog := some (1, 0) } with now := 1600 } (fun t => (t.cell 0).st = .parked && (t.cell 0).pcause = .hang) =
    true := by decide +kernel

/-- Issuer 0 of the master of row 3 has set its base to element b of space sp. -/
def m0 : Master := ⟨3, 0⟩
def cfgState (sp : BitVec 3) (b : Nat) (stopped : Bool) (c : Cell) : State :=
  { cells := [(262143, c)], issuers := [(masterKey m0, { based := true, space := sp, base := b, stopped, words := 9 })] }
def failsWith (i : Instr) (s : State) (code : Nat) : Bool :=
  gives i s (fun t => (t.issuer m0).stopped && t.reports.map (fun x => (field x.2 56 8, field x.2 48 8, field x.2 0 32)) = [(2, code, 9)])

theorem witness_ConfigurationCommands :
    let s (c : Cell) : State := cfgState 0 262142 false c
    failsWith (.cfgReservedCommand m0 0) (s {}) 0x81 && failsWith (.base m0 4 0) (s {}) 0x82 && failsWith (.base m0 3 262143) (s {}) 0x83 &&
    gives (.base m0 0 262143) (s {}) (fun t => (t.issuer m0).base = 262143 && (t.issuer m0).words = 10) &&
    gives (.write m0 1 0 0xFFF) (s {}) (fun t => (t.cell 262143).ident.unit = 0xFFF && (t.cell 262143).st = .configured) &&
    gives (.wide m0 1 7 0xFFFFFFFF) (s {}) (fun t => (t.cell 262143).ident.ext0 = -1) &&
    gives (.wide m0 1 2 5) (s { st := .parked }) (fun t => (t.cell 262143).ident.node = 5 && (t.cell 262143).st = .parked) &&
    failsWith (.wide m0 1 7 1) (s { st := .idle }) 0x85 && failsWith (.istore m0 1 0 1) (s { st := .idle }) 0x85 &&
    gives (.istore m0 1 2047 9) (s {}) (fun t => (t.cell 262143).code 2047 = 9) &&
    gives (.lstore m0 1 0x3FFF 9) (s {}) (fun t => (t.cell 262143).ldWord 0x1FFF8 = cl 9) &&
    gives (.start m0 1) (s { outbound (stored {} 7 []) 3 with st := .configured, bind := [], semInit := [(15, 6)] })
      (fun t => (t.cell 262143).st = .idle && (t.cell 262143).binding 7 = 1 && (t.cell 262143).binding 3 = 2 && (t.cell 262143).sem 15 = ⟨6, false⟩) &&
    failsWith (.start m0 1) (s { st := .idle }) 0x85 && failsWith (.istore m0 2 0 1) (s {}) 0x83 = true := by decide +kernel

theorem witness_ConfigurationCommands_marks :
    gives (.mark m0 0 0xFFF) (cfgState 3 0 false {}) (fun t => t.reports.map (fun x => (field x.2 56 8, field x.2 0 32)) = [(1, 0xFFF)]) &&
    gives (.clrerr m0 0 0) (cfgState 3 0 true {}) (fun t => !(t.issuer m0).stopped && (t.issuer m0).words = 0) &&
    gives (.istore m0 1 0 5) (cfgState 0 262142 true {}) (fun t => (t.cell 262143).code 0 = -1 && !(t.issuer m0).based) = true := by decide +kernel

def asleep (on : WaitCond) (c : Cell) : State := { cells := [(0, { c with st := .asleep, wait := some (.token, on) })], now := 16777216 }

theorem witness_SchedulerEvents :
    [asleep (.slots 0x80) {}, asleep (.reg 55) {}, asleep (.head 7 0) (stored {} 7 [qw 1 0 1]), asleep (.room 3 4) (outbound {} 3),
      asleep (.sem 15 9) { sems := [(15, ⟨9, false⟩)] }].all (fun s => gives (.taskWake 0) s (fun t => (t.cell 0).st = .running && (t.cell 0).wait = none)) &&
    gives (.taskWake 0) (asleep (.sem 15 9) { sems := [(15, ⟨9, false⟩)], dbg := { f := [(13, 16)] } }) (fun t =>
      (t.row 0).trace.map (fun x => x.2.toNat) = [15 * 2 ^ 40 + 9]) &&
    ((idle twoEntries).me.runnable 2 && gives (.priorityAging 0) (idle twoEntries) (fun t => SMap.find (t.cell 0).runSince 2 = some 50 &&
      SMap.find (t.cell 0).runSince 3 = none)) &&
    gives (.watchdogSleepLimit 0) (asleep (.slots 1) { sys := { wd := 0x4000 } }) (fun t => (t.cell 0).wdSent && (t.cell 0).sys.wde && (t.row 0).fq.length = 1) &&
    gives (.istoreFetchError 0) (run {}) (fun t => (t.cell 0).pcause = .istore) &&
    runs (.unassignedOpcode (-1)) (Hdr.ofWord (-1)) (run handled) (fun _ c => c.pc = 0x100 && c.sys.tval = -1) = true := by decide +kernel

def graph1 (ended : Bool) : Graph :=
  { dom := 5, serial := 6, units := [(0, 0, 0), (1, 0, 7)], root := 0, ended, img := { wellFormed := true, regions := [], nodes := [], edges := [], params := [], uses := [] }, block := [] }

theorem witness_LoadsStartAndRetire :
    let s (g : Graph) (st : CellState) : State := { cells := [(0, { st, g := [(1, cl 5)] }), (7, { st }), (9, { st })], carrier := { svc := { graphs := [(3, g)] } } }
    gives (.loadStart 6) (s (graph1 false) .configured) (fun t => (t.cell 0).st = .idle && (t.cell 7).st = .idle && (t.cell 9).st = .configured) &&
    (s (graph1 true) .idle).loadDrained (graph1 true) && gives (.loadMark 6) (s (graph1 true) .idle) (fun t => (t.cell 0).st = .free &&
      (t.cell 0).reg 1 = cl 0 && (t.cell 9).st = .idle && (t.graph 3).any (fun g => g.marked) && t.carrier.svc.marks.map (fun w => (field w 56 8, field w 0 32)) = [(4, 6)]) = true := by decide +kernel

/-- A load that waits does not start; once the load before it is marked it is the graph's, in the regions of the earlier one. -/
theorem witness_LoadsStartAndRetire_inTurn :
    let g2 : Graph := { graph1 false with serial := 7, units := [(0, 0, 9)], root := 9 }
    let s : State := { cells := [(0, { st := .idle }), (7, { st := .idle }), (9, { st := .configured })]
                       carrier := { svc := { graphs := [(3, { graph1 true with vas := [0x40000] })], waiting := [(4, g2), (3, g2)] } } }
    gives (.loadStart 7) s (fun t => (t.cell 9).st = .configured) &&
    gives (.loadMark 6) s (fun t => (t.cell 0).st = .free && t.graph 3 = some { g2 with vas := [0x40000] } &&
      t.carrier.svc.waiting = [(4, g2)] && gives (.loadStart 7) t (fun u => (u.cell 9).st = .idle)) = true := by decide +kernel

/-! ### Links and packets -/

def ports (p : Nat) (x : LinkPort) : State := { run {} with carrier := { ports := [(p, x)] } }

theorem witness_PortsTrainAndReplay :
    let f (q : Nat) (n : Nat) : SentFlit := ⟨[BitVec.ofNat 64 (q * 2 ^ 52)], n⟩
    let s (n : Nat) : State := ports 31 { up := true, tx := 2, sent := [f 0 0, f 1 n] }
    gives (.linkTrain 31 5 0x3F) (ports 31 { ctl := 0x1FF, peer := 5 }) (fun t => (t.linkPort 31).up && (t.linkPort 31).good = 0x3F) &&
    gives (.linkTrain 31 5 0x1F) (ports 31 { ctl := 0x1FF, peer := 5 }) (fun t => !(t.linkPort 31).up && (t.row 256).fq.length = 1) &&
    gives (.linkTrain 31 6 0xFF) (ports 31 { ctl := 0x1FF, peer := 5 }) (fun t => !(t.linkPort 31).up) &&
    gives (.linkTrain 31 5 0xFF) (ports 31 { peer := 5 }) (fun t => !(t.linkPort 31).up) &&
    gives (.lossOfLink 31 0xC0) (ports 31 { up := true, good := 0xFF }) (fun t => (t.linkPort 31).up && (t.linkPort 31).good = 0x3F) &&
    gives (.lossOfLink 31 0xE0) (ports 31 { up := true, good := 0xFF }) (fun t => !(t.linkPort 31).up) &&
    gives (.linkReplayRequest 31 1) (s 14) (fun t => (t.linkPort 31).up && (t.linkPort 31).sent.map (fun y => y.tries) = [0, 15]) &&
    gives (.linkReplayRequest 31 1) (s 15) (fun t => !(t.linkPort 31).up) = true := by decide +kernel

/-- The words of a flit with FSEQ q of type ty on channel vc, of a packet to module d from module 5 with ESEQ e and HOPS h. -/
def flit (q ty d e h : Nat) : List Word :=
  [BitVec.ofNat 64 (q * 2 ^ 52 + 3 * 2 ^ 38 + ty * 2 ^ 35), BitVec.ofNat 64 (d * 2 ^ 54 + 5 * 2 ^ 44 + 2 ^ 40 + e), BitVec.ofNat 64 (h * 2 ^ 59), 7]

theorem witness_FlitsAreReceived :
    let s : State := ports 8 { up := true, rx := 4 }
    let two : Carrier := { planes := [(1, { table := [(9, 0x9)] })], ports := [(8, { up := true, rx := 4 }), (9, { up := true })] }
    let r (ok : Bool) (ws : List Word) : Instr := .flitReceive 8 ⟨ok, true, true, ws⟩
    gives (r false (flit 4 4 0 0 0)) s (fun t => (t.linkPort 8).ask = some 4 && (t.linkPort 8).rx = 4) &&
    gives (r true (flit 5 4 0 0 0)) s (fun t => (t.linkPort 8).ask = some 4) &&
    gives (r true (flit 4 4 0 9 0)) s (fun t => (t.linkPort 8).rx = 5 && (t.inStream 5 3).held = [⟨5, 1, 9⟩]) &&
    (field ((flit 4 4 0 9 0).getD 0 0) 35 3 = 4 && field ((flit 4 1 9 0 29).getD 2 0) 59 5 = 29) &&
    gives (r true (flit 4 1 9 0 29)) { s with carrier := two } (fun t => (t.linkPort 8).rx = 5) &&
    (let down : State := { s with carrier := { two with ports := [(8, { up := true, rx := 4 })] } }
     down.route 1 false 9 = some 9 && !(down.linkPort 9).up && s.route 1 false 9 = none &&
      gives (r true (flit 4 1 9 0 29)) down (fun _ => true)) &&
    gives (r true (flit 4 5 0 0 0)) s (fun t => (t.plane 1).marks = [(8, 3)]) = true := by decide +kernel

theorem witness_PacketsAreDelivered :
    let s (h : PacketHead) (c : Cell) : State := { run c with carrier := { ins := [(4 * 5 + 3, { next := 9, held := [h] })] } }
    populated 0x40001 && !(s ⟨5, 1, 9⟩ {}).vaultBusy 0x40001 && !(s ⟨5, 1, 9⟩ {}).hostHeld 0x40001 && ((s ⟨5, 1, 9⟩ {}).inStream 5 3).next = 9 &&
    gives (.packetDelivery 5 3 (.write 0x40001 2 0xABCD (.cell 0 0))) (s ⟨5, 1, 8⟩ {}) (fun t => t.mem = []) &&
    gives (.packetDelivery 5 3 (.write 0x40001 2 0xABCD (.cell 0 0))) (s ⟨5, 1, 9⟩ {}) (fun _ => true) &&
    gives (.packetDelivery 5 3 (.nack (.cell 0 5))) (s ⟨5, 3, 9⟩ { accs := [{ acc .ldg 0 8 with status := .away 2 }] })
      (fun t => status t = [.nacked 3]) &&
    gives (.packetDelivery 5 3 (.reply (.cell 0 5) 0 77 false 0)) (s ⟨5, 3, 9⟩ { accs := [{ acc .ldg 0 8 with status := .away 2 }] })
      (fun t => status t = [.done (cl 77) 0]) &&
    gives (.packetAck 5 3) { run {} with carrier := { outs := [(23, { next := 2, unacked := [⟨0, 0, false, .write 0 8 0 (.cell 0 0)⟩, ⟨1, 1, false, .write 0 8 0 (.cell 0 0)⟩] })] } }
      (fun t => (t.outStream 5 3).unacked.map (fun p => p.eseq) = [1]) = true := by decide +kernel

theorem witness_RoutingTables :
    gives (.routeSwitch 1 true) (ports 8 { up := true, tx := 4095 }) (fun t => (t.plane 1).act && (t.linkPort 8).tx = 3 && (t.linkPort 9).tx = 0) &&
    gives (.routeSwitch 1 false) (ports 8 { up := true }) (fun t => (t.linkPort 8).tx = 0) &&
    gives (.routeTableWrite 1 9) (ports 8 { tidx := BitVec.ofNat 32 (2 ^ 11 + 1023) }) (fun t => (t.plane 1).entry true 1023 = 9 &&
      field (t.linkPort 8).tidx 0 10 = 0) &&
    gives (.routeTableWrite 1 9) (ports 8 { tidx := 1023 }) (fun t => (t.plane 1).entry false 1023 = (ports 8 {} |>.plane 1).entry false 1023) =
    true := by decide +kernel

/-! ### Parks, row managers, containment -/

def parkedCell (c : Cell) : Cell := { c with st := .parked, heldSt := .running, g := [(5, cl 6)], pc := 4 }
def cellState (k : Nat) (c : Cell) : State := { cells := [(k, c)] }

theorem witness_CellsParkAndResume :
    let waits (why : PCause) (c : Cell) : State := cellState 9 { c with st := .asleep, parkWait := some why, qreq := true, pc := 4 }
    let reads : Cell := { accs := [{ acc .ldf 0x40000 8 with status := .deferred }], busy := [3] }
    gives (.cctlPark 9) (cellState 9 { st := .idle }) (fun t => (t.cell 9).st = .parked && (t.cell 9).pcause = .rmPark &&
      (t.row 0).fq.length = 1) &&
    gives (.cctlPark 9) (cellState 9 { st := .asleep }) (fun t => (t.cell 9).rmParkReq) &&
    gives (.rmParkEffect 9) (cellState 9 { st := .running, rmParkReq := true }) (fun t => (t.cell 9).st = .parked) &&
    ((waits .cut reads).settled 9 && gives (.cutParkComplete 9) (waits .cut reads) (fun t => (t.cell 9).pcause = .cut &&
      (t.cell 9).pc = 5 && (t.cell 9).pendingReads.length = 1 && !(t.cell 9).qreq)) &&
    !(waits .self { accs := [acc .ldg 0x40000 8] }).settled 9 &&
    gives (.cctlResume 9 true) (cellState 9 (parkedCell (stored {} 7 [qw 3 3 1]))) (fun t => (t.cell 9).st = .running && (t.cell 9).rpl &&
      ((t.cell 9).inEp 7).hb.length = 1 && (t.cell 9).pc = 4) &&
    gives (.cctlResume 9 false) (cellState 9 { parkedCell {} with heldSt := .asleep, wait := some (.popEmpty, .head 7 0) }) (fun t =>
      (t.cell 9).st = .asleep && (t.cell 9).wait = some (.popEmpty, .head 7 0)) &&
    gives (.cctlAbort 9) (cellState 9 (parkedCell { copies := [1] })) (fun t => (t.cell 9).abortReq && (t.cell 9).st = .parked) &&
    gives (.rmParkEffect 9) (cellState 9 { parkedCell reads with abortReq := true }) (fun t => (t.cell 9).st = .idle && !(t.cell 9).abortReq) &&
    ((cellState 9 (parkedCell reads)).enginesDone 9 && gives (.cctlAbort 9) (cellState 9 (parkedCell reads)) (fun t =>
      (t.cell 9).st = .idle && (t.cell 9).busy = [] && (t.cell 9).accs = [] && (t.cell 9).reg 5 = cl 6)) &&
    !(cellState 9 (parkedCell { copies := [1] })).enginesDone 9 = true := by decide +kernel

theorem witness_RowManagersWriteTheirWindows :
    let s : State := { cells := [(512 * 511 + 511, { st := .parked }), (512 * 511, { st := .running })], memPoison := [(0x1000, true)] }
    let reg (x n : Nat) : Nat := 0x40000000 + 0x40000 * x + 0x30100 + 8 * n
    populated 0x8000 && !s.vaultBusy 0x8000 && !s.hostHeld 0x8000 &&
    gives (.rmWindowWrite 511 (2 ^ 50 + 0x8000) 0x1234) s (fun t => t.mem.read 0x8000 8 = 0x1234 && !t.memPoison.has 0x1000) &&
    gives (.rmWindowWrite 511 (reg 511 55) 7) s (fun t => (t.cell (512 * 511 + 511)).reg 55 = cl 7) &&
    gives (.rmWindowWrite 511 (reg 0 1) 7) s (fun t => (t.cell (512 * 511)).reg 1 = cl 0 && (t.row 511).fq.length = 1) &&
    gives (.rmWindowWrite 511 (0x4C000000 + 8 * 4095) 0xA0004) s (fun t => (t.row 511).domState 4095 = 4 &&
      field ((t.row 511).quinceOf 4095) 16 44 = 10) &&
    [0x48000000, 0x48FFFFF8, 0x49000000, 0x4AFFFFF8].all (fun a => gives (.rmWindowWrite 511 a 0) s (fun _ => true)) &&
    [0x1000000, 0x11FFFF8].all (fun a => gives (.rmWindowWrite 511 a 0x1234) s (fun t =>
      (t.row 511).hart.sram.read (a - 0x1000000) 8 = 0x1234 && (t.row 511).hart.mcause = 0)) &&
    gives (.rmWindowWrite 511 0x2004000 77) s (fun t => (t.row 511).hart.mtimecmp = 77) &&
    gives (.rmWindowWrite 511 0x200BFF8 77) { s with now := 16 } (fun t => t.mtime (t.row 511).hart = 77) = true := by
  decide +kernel

/-- Block pages of a row that has none, an address below every window and a misaligned one trap in the row manager's core. -/
theorem witness_RowManagersWriteTheirWindows_traps :
    let s : State := { rows := [(511, { hart := { pc := 0x44, mtvec := 0x101, x := [(1, 9)] } })] }
    ({} : State).serves 504 504 && gives (.rmWindowWrite 504 0x4B000000 0) {} (fun t => (t.row 504).hart.mcause = 0) &&
    [(0x4B000000, 7), (0x4B3FFFF8, 7), (0x3FFFFFF8, 7), (0xFFFFF8, 7), (0x1200000, 7), (0x2010000, 7), (0x4B000004, 6), (0x40000001, 6)].all (fun x =>
      gives (.rmWindowWrite 511 x.1 5) s (fun t => (t.row 511).hart.mcause = BitVec.ofNat 64 x.2 && (t.row 511).hart.pc = 0x100 &&
        (t.row 511).hart.mtval = BitVec.ofNat 64 x.1 && (t.row 511).hart.mepc = 0x44 && (t.row 511).hart.machine)) = true := by decide +kernel

theorem witness_RowManagersWatchTheirRows :
    let r (x : Row) : State := { rows := [(511, x)], now := 480000, blocks := [(4095, { mtstat := 9 })] }
    let o : Cell := outbound { ident := { dom := 5, unit := 6 } } 7
    let c : Cell := o.setOut 7 { o.outEp 7 with det := 1, odom := 8, seq := 77 }
    gives (.faultQueuePop 511) (r { fq := [(1, 2), (3, 4)] }) (fun t => (t.row 511).fq = [(3, 4)] && (t.row 511).popped = 2) &&
    gives (.faultQueuePop 511) (r { popped := 2 }) (fun t => (t.row 511).popped = 0) &&
    ((r { fq := [(1, 2)] }).mip 511).getLsbD 11 && !((r {}).mip 511).getLsbD 11 && (({} : State).serves 511 511) &&
    gives (.mtstatReadClear 4095) (r {}) (fun t => (t.block 4095).mtstat = 0) &&
    gives (.heartbeatTick 511) (r { beatAt := 320000 }) (fun t => (t.row 511).hbeat = 1) &&
    gives (.rowManagerTakeover 511 510) ((r {}).setRow 510 { beatAt := 1 }) (fun t => (t.row 511).takenBy = some 510) &&
    [511, 512].all (fun y => gives (.rowManagerTakeover y (1023 - y)) (r {}) (fun t => (t.row y).takenBy = none)) &&
    gives (.rowManagerTakeover 511 510) (r {}) (fun t => (t.row 511).takenBy = none) &&
    gives (.rowManagerTakeover 511 510) ((r { beatAt := 1 }).setRow 510 { beatAt := 1 }) (fun t => (t.row 511).takenBy = none) &&
    (((o.outEp 7).dstOf 0) = 58 && (({} : State).row (yOf 7)).domState 8 = 0) &&
    gives (.oraReattach 9 7 1) { cells := [(9, c)], rows := [(0, { quince := [(8, 1)] })] } (fun t => ((t.cell 9).outEp 7).det = 0 &&
      t.net.map (fun m => (m.cell, m.port.toNat, m.w.v.toNat)) = [(7, 2, 6 * 2 ^ 56 + 6 * 2 ^ 32 + 77)]) = true := by decide +kernel

theorem witness_ContainmentOfADomain :
    let mine : Cell := parkedCell { pcause := .sink, sinkPending := true, ident := { dom := 5 }, accs := [acc .ldg 0 8] }
    let fire : Cell := parkedCell { pcause := .sink, sinkPending := true, ckpt := { pc := 2, g := [(1, cl 8)], pops := [(7, ⟨.cell 12 3 0, 4⟩)] } }
    gives (.taggedStructureError 5) { cells := [(9, mine), (12, { st := .idle, g := [(1, cl 2)] })] } (fun t => (t.cell 9).st = .free &&
      (t.cell 12).st = .idle && (t.cell 12).reg 1 = cl 2 && (t.row 511).domState 5 = 4) &&
    [{ mine with nonReplay := true }, { mine with replays := 2 }].all (fun c => c.st = .parked && c.sinkPending && c.pcause = .sink) &&
    !(cellState 9 { fire with copies := [1] }).enginesDone 9 &&
    gives (.sinkReplay 9) { cells := [(9, fire), (12, (outbound { st := .idle, ident := { unit := 3 } } 3).setOut 3
        { (outbound {} 3).outEp 3 with seq := 6 })] } (fun t => (t.cell 9).pc = 2 && (t.cell 9).reg 1 = cl 8 && (t.cell 9).replays = 1 &&
      (t.cell 9).rewinds.map (fun r => (r.port.toNat, r.punit.toNat, r.expected.toNat)) = [(7, 3, 4)]) = true := by decide +kernel

theorem witness_SharedUnitsAreResetAndRepaired :
    let x : RxPacket := ⟨[], 0, none, 9⟩
    (homeTile 0x40000 = 0 && gives (.sharedControlError (.tile 0)) (run { accs := [acc .ldg 0x40000 8] })
      (fun t => status t = [.nacked 0])) &&
    gives (.sharedControlError (.router 3)) {} (fun t => t.cells = []) &&
    gives (.sharedControlError .crossbar) (ports 0 { rxs := [(2, x)] }) (fun t => (t.linkPort 0).rxs = [] && (t.linkPort 0).ask = some 9) &&
    gives (.inServiceRepair (.retireCell 262143)) {} (fun t => t.carrier.svc.retired.has 262143) &&
    (({} : State).lineIdle true 511 && gives (.inServiceRepair (.remapRow 511 519)) {} (fun t => SMap.find t.carrier.svc.rowMap 511 = some 519)) &&
    !(run {}).lineIdle true 0 &&
    gives (.inServiceRepair (.spareChannel 7 3)) {} (fun t => t.carrier.svc.spared = [(7, 3)]) &&
    gives (.inServiceRepair (.spareLane 31 0)) (ports 31 { ctl := 0x1FF, peer := 5, peerMod := 5, good := 0x7F }) (fun t =>
      (t.linkPort 31).good = 0x7E && (t.linkPort 31).failed = 1 && (t.linkPort 31).up) = true := by decide +kernel

/-- A page on a channel: which channel its first byte lies on the spec does not say. -/
theorem witness_SharedUnitsAreResetAndRepaired_channel :
    State.onChannel {} ⟨0x10000, entryOf 0 0 hbmBase 5 true false, 0⟩ 0 (Config.hbmChannel hbmBase) = true := by
  have h : pAddr (entryOf 0 0 hbmBase 5 true false) % 2 ^ 50 = hbmBase := by decide +kernel
  have v : (pValid (entryOf 0 0 hbmBase 5 true false) && ({} : State).own (pAddr (entryOf 0 0 hbmBase 5 true false))) = true := by decide +kernel
  have n : pSize (entryOf 0 0 hbmBase 5 true false) / 64 = 1024 := by decide +kernel
  simp only [State.onChannel, h, v, n]
  simp only [Nat.le_refl, decide_true, Nat.sub_self, Bool.true_and, Nat.zero_div, List.any_eq_true]
  exact ⟨0, by simp [upto], by simp⟩

/-- R499: EAG 1 * 64 + 1 on the east side, host port 2, the arbiter; the HBM controllers have no attachment cell. -/
theorem test_attachmentCells : (attachCell 65 = some (512 * 8 + 511) && attachCell 314 = some (512 * 511 + 256) &&
    engineHops 511 316 = some 512 && attachCell 256 = none && hops 0 262143 = 1022) = true := by decide +kernel

/-- R212, R436: a side word keeps 16 bits of SEQ, below the queue's next one. -/
theorem test_spilledSequenceNumbers :
    (seqBelow 0x20003 (qw 1 5 0) = 0x10005 && seqBelow 0x20003 (qw 1 2 0) = 0x20002 &&
    (putBack [⟨qw 1 4 0, 0, 0, 0, 0, 0⟩, ⟨qw 1 6 0, 0, 0, 0, 0, 0⟩] ⟨qw 1 5 0, 0, 0, 0, 0, 0⟩).map (fun x => x.w.seq) = [4, 5, 6]) = true := by
  decide +kernel

/-! ### The resident services -/

/-- Cell 0 of domain dom has called function func of service svcn with DTAG 9, and the call has reached its service unit. -/
def svcHeader (svcn func dom : Nat) : Word := BitVec.ofNat 64 (svcn * 2 ^ 59 + func * 2 ^ 51 + 9 * 2 ^ 35 + dom * 4)
def svcState (svcn func dom arg : Nat) : State :=
  run { ident := { dom := BitVec.ofNat 12 dom }, calls := [⟨svcHeader svcn func dom, BitVec.ofNat 64 arg, 3, ⟨some 2, 0, 0, 0, 0, false, 0⟩, some 0, none⟩] }
def call0 : CallId := .cell 0 0
/-- `ServiceTurn` at that state, with a domain and an argument. -/
def svcTurn (s : State) (svcn func dom arg : Nat) : Bool :=
  match s.request call0 with
  | some x => x.id = call0 && s.callTurn x && field x.header 59 5 = svcn && field x.header 51 8 = func && x.dom.toNat = dom &&
      x.arg.toNat = arg && x.auth = x.dom
  | none => false
/-- The call has its reply. -/
def replied (t : State) (status v : Nat) : Bool := (t.cell 0).calls.map (fun q => q.reply) = [some (BitVec.ofNat 64 status, BitVec.ofNat 64 v)]
/-- It is the call's turn, and i answers it so. -/
def serves (i : Instr) (svcn func dom arg : Nat) (s : State) (status v : Nat) : Bool :=
  svcTurn s svcn func dom arg && gives i s (fun t => replied t status v)

theorem witness_CallsAreForwardedAndChecked :
    let q (n : Nat) (st : Option Nat) : Call := ⟨svcHeader 4 0 5, 1, 3, ⟨some 2, n, 0, 0, 0, false, 0⟩, st, none⟩
    let fwd (on : Bool) : State := { run { calls := [q 0 (some 3), q 1 none, q 2 none] } with
      carrier := { svc := { running := on, stamp := 4 } } }
    let bad (i : CallId → Instr) (svcn func arg : Nat) : Bool := serves (i call0) svcn func 5 arg (svcState svcn func 5 arg) 2 0
    gives (.gateForward (.cell 0 1)) (fwd true) (fun t => (t.cell 0).calls.map (fun x => x.stamp) = [some 3, some 4, none] &&
      t.carrier.svc.stamp = 5) &&
    gives (.gateForward (.cell 0 1)) (fwd false) (fun t => (t.cell 0).calls.map (fun x => x.stamp) = [some 3, none, none]) &&
    (match (run { calls := [q 0 (some 3), q 1 (some 4)] }).request (.cell 0 1) with
      | some x => !(run { calls := [q 0 (some 3), q 1 (some 4)] }).callTurn x | none => false) &&
    [(0, 3), (1, 3), (2, 8), (3, 3), (4, 2), (5, 0), (31, 255)].all (fun x => serves (.serviceBadFunc call0) x.1 x.2 5 0 (svcState x.1 x.2 5 0) 1 0) &&
    serves (.routes call0) 3 2 5 0 (svcState 3 2 5 0) 4 0 && serves (.fwmin call0) 2 6 5 0 (svcState 2 6 5 0) 4 0 &&
    serves (.attest call0) 2 7 5 0 (svcState 2 7 5 0) 4 0 &&
    bad .avail 0 2 1 && bad .topo 3 1 1 && bad .portstat 3 0 32 && bad .logFlush 4 1 1 && bad .entry 1 2 (2 ^ 57) && bad .wait 2 1 (2 ^ 32) =
    true := by decide +kernel

/-- The same with pages: domain 5 holds 64 KiB at 0x10000, in the vault of block 0 at 0x40000. -/
def pagePt : Page := ⟨0x10000, entryOf 0 0 0x40000 5 true false, 0⟩
def withPages (s : State) : State := { s with pages := [pagePt], mem := [⟨0x40008, 7⟩, ⟨0x50000, 9⟩] }

theorem witness_AllocatorAndPagerCalls :
    let argA : Nat := 65537 + 2 * 2 ^ 57 + 1 * 2 ^ 62
    let cs : List PageChoice := [⟨0x20000, 0x50000⟩, ⟨0x30000, 0x70000⟩]
    let s (svcn func arg : Nat) : State := withPages (svcState svcn func 5 arg)
    let held (i : Nat) : State := { s 0 1 0x10000 with carrier := { svc := { allocs := [⟨5, 0x10000, 0x10000⟩] } }, blocks := [(i, { tlb := [{ pagePt with tag := 5 }] })] }
    (s 0 0 argA).choiceOk 2 0 65536 cs && serves (.alloc call0 cs) 0 0 5 argA (s 0 0 argA) 0 0x20000 &&
    gives (.alloc call0 cs) (s 0 0 argA) (fun t => t.pages.length = 3 && Memory.byte t.mem 0x50000 = 0 && Memory.byte t.mem 0x40008 = 7) &&
    serves (.free call0) 0 1 5 0x10000 { s 0 1 0x10000 with carrier := { svc := { allocs := [⟨5, 0x10000, 0x10000⟩] } } } 0 0 &&
    gives (.free call0) (held 3) (fun t => t.changes.length = 1 && t.pages.length = 1) &&
    serves (.free call0) 0 1 5 0x20000 (s 0 1 0x20000) 2 0 &&
    serves (.prot call0) 1 0 5 0x10000 (s 1 0 0x10000) 0 0 &&
    gives (.prot call0) (s 1 0 0x10000) (fun t => t.pages.map (fun p => pWrite p.entry) = [false]) &&
    svcTurn (s 0 2 (3 * 2 ^ 57)) 0 2 5 (3 * 2 ^ 57) &&
    serves (.entry call0) 1 2 5 0x1FFFF (s 1 2 0x1FFFF) 0 pagePt.entry.toNat && serves (.entry call0) 1 2 5 0x20000 (s 1 2 0x20000) 2 0 =
    true := by decide +kernel

/-- A place has no room for more bytes than it has. -/
theorem witness_AllocatorAndPagerCalls_full :
    svcTurn (svcState 0 0 5 (2 ^ 30 + 2 ^ 57)) 0 0 5 (2 ^ 30 + 2 ^ 57) = true ∧ (svcState 0 0 5 (2 ^ 30 + 2 ^ 57)).freeBytes 1 0 < 2 ^ 30 := by
  refine ⟨by decide +kernel, ?_⟩
  have h : ∀ a b c : Nat, a - b - c ≤ a := by omega
  exact Nat.lt_of_le_of_lt (h _ _ _) (by decide : placeBytes 1 < 2 ^ 30)

/-- A page that a call may move, where the services leave 64 KiB of the vaults free. -/
theorem witness_AllocatorAndPagerCalls_moves (h : Config.serviceBytes 2 + 2 * 65536 ≤ 4096 * 0x1800000) :
    let s := withPages (svcState 1 1 5 (0x10000 + 2 * 2 ^ 57))
    (svcTurn s 1 1 5 (0x10000 + 2 * 2 ^ 57) && inPlace 2 0 0x90000 65536 && s.unused 0x90000 65536 && s.mem.wf &&
      s.holders ⟨call0, 0x10000, 65536, 5, .move 0x90000, [], []⟩ = [] && s.own (pAddr pagePt.entry)) = true ∧
      65536 ≤ s.freeBytes 2 0 := by
  refine ⟨by decide +kernel, ?_⟩
  have : (withPages (svcState 1 1 5 (0x10000 + 2 * 2 ^ 57))).freeBytes 2 0 = 4096 * 0x1800000 - Config.serviceBytes 2 - 65536 := by
    unfold State.freeBytes; congr 1
  omega

/-! ### Loads, cuts, restores -/

/-- One node of one unit, with an edge from its port 3 to its port 2 (64 bytes of ring, a window of 4, every tag). -/
def image1 : Image where
  wellFormed := true
  nodes := [{ name := "a", units := 1, shape := [], grid := [], handlers := [], code := [5], data := [] }]
  edges := [{ name := "e", fromNode := 0, fromPort := 3, dests := [(0, 2)], cap := 64, window := 4, prio := 0, tags := 255, circuit := false, lens := [] }]
  regions := []
  params := []
  uses := []
/-- It goes to cell 100, as graph 17. -/
def place1 (fits : Bool) : Placement := ⟨fits, [100], [], [], [], 5, 17, []⟩
/-- A load parameter block without entries for domain 5 at 0x10000, with a target; its bytes. -/
def block1 (target : Nat) : List Word := [2 ^ 56, 0, BitVec.ofNat 64 (5 * 2 ^ 52), 0, BitVec.ofNat 64 target, 0]
def loadState (func target : Nat) (gs : SMap Graph) : State :=
  { svcState 2 func 5 0x10000 with
    pages := [pagePt], mem := [⟨0x40007, 1⟩, ⟨0x40016, 0x50⟩] ++ (if target = 0 then [] else [⟨0x40020, BitVec.ofNat 8 target⟩])
    carrier := { svc := { graphs := gs, serial := 3 } } }
def plan1 (target : Nat) (fits : Bool) (s : State) : Plan :=
  ⟨Lpb.ofWords (block1 target), image1, place1 fits, 5, 17, s.carrier.svc.serial + 1, s.modNo.toNat⟩
/-- The loader may make its choices, and the configuration stream is taken. -/
def placeable (p : Plan) (s : State) (replace : Bool) : Bool :=
  (p.check s replace).isNone && p.cellsOk s && p.eagsOk s && p.regionsOk s 0 && okB (p.apply s) (fun t => (t.cell 100).st = .configured && p.treesOk t)

theorem witness_LoadsWaitsAndKills_load :
    let s := loadState 0 0 []
    ([6, 6].all (fun n => s.recordHeld call0 5 0x10000 n = []) && (match s.readBlock call0 5 0x10000 with
        | some b => b.head = block1 0 && b.entries = [] && b.whole | none => false) && s.domUsed 5 = false) &&
    placeable (plan1 0 true s) s false && (s.graph 17).isNone &&
    svcTurn s 2 0 5 0x10000 &&
    gives (.load call0 image1 (place1 true)) s (fun t => replied t 0 (17 * 2 ^ 32 + 4) && (t.cell 100).st = .configured && (t.cell 100).code 0 = 5 &&
      (t.cell 100).ident.load = BitVec.ofNat 64 (17 * 2 ^ 32 + 4) && ((t.cell 100).inEp 2).en) &&
    ((plan1 0 false s).check s false = some (0x103, none) &&
      serves (.load call0 image1 (place1 false)) 2 0 5 0x10000 s 0x103 0) = true := by decide +kernel

/-- A further load of graph 17 waits while the first runs, and is the graph's where the first is marked. -/
theorem witness_LoadsWaitsAndKills_again :
    let g (marked : Bool) : Graph := { dom := 5, serial := 3, units := [(0, 0, 101)], root := 101, marked, img := image1, block := block1 0 }
    let s (marked : Bool) : State := loadState 0 0 [(17, g marked)]
    (((plan1 0 true (s false)).inGraph (s false)).check (s false) false).isNone && (plan1 0 true (s false)).cellsOk (s false) &&
    svcTurn (s false) 2 0 5 0x10000 &&
    gives (.load call0 image1 (place1 true)) (s false) (fun t => replied t 0 (17 * 2 ^ 32 + 4) && (t.cell 100).st = .configured && t.graph 17 = some (g false) &&
      t.carrier.svc.waiting.map (fun x => (x.1, x.2.serial, x.2.units)) = [(17, 4, [(0, 0, 100)])] &&
      gives (.loadStart 4) t (fun u => (u.cell 100).st = .configured)) &&
    gives (.load call0 image1 (place1 true)) (s true) (fun t => (t.cell 100).st = .configured && t.carrier.svc.waiting = [] &&
      gives (.loadStart 4) t (fun u => (u.cell 100).st = .idle)) = true := by decide +kernel

theorem witness_LoadsWaitsAndKills :
    let g : Graph := { graph1 false with dom := 6, units := [(0, 0, 7)] }
    let s (func dom : Nat) (g : Graph) : State := { svcState 2 func dom 3 with carrier := { svc := { graphs := [(3, g)] } } }
    serves (.wait call0) 2 1 6 3 (s 1 6 { g with marked := true }) 0 6 &&
    gives (.wait call0) (s 1 6 g) (fun t => (t.cell 0).calls.map (fun q => q.reply) = [none]) &&
    (svcTurn (s 4 0 g) 2 4 0 3 && gives (.kill call0) (s 4 0 g) (fun t => replied t 0 0 && (t.row 511).domState 6 = 4)) &&
    [(1, Instr.wait call0), (4, .kill call0), (2, .cut call0 []), (3, .resume call0 (place1 true))].all (fun x =>
      serves x.2 2 x.1 6 4 (svcState 2 x.1 6 4) 2 0 && serves x.2 2 x.1 5 3 (s x.1 5 g) 4 0) = true := by decide +kernel

/-- The record of a cut of unit 0 in cell 100, and the graph of it, swapped out. -/
def rec1 : CutRec := ⟨9, 0, [⟨0, 0, 100, { (outbound (stored {} 2 []) 3) with heldSt := .asleep, g := [(1, cl 8)], pc := 7 }⟩], [], [], []⟩
def swapped1 : Graph := { dom := 5, serial := 3, units := [(0, 0, 100)], root := 100, img := image1, block := block1 0, swapped := true, saved := some rec1 }

/-- Places for the spill queue of row 0 and for five pages of a record. -/
def places : List (Nat × Nat) := (0, hbmBase) :: (List.range 5).map (fun j => (0x100000 + 0x10000 * j, hbmBase + 0x10000 * (j + 1)))

theorem witness_CutsAreTakenAndRestored :
    let g (cut : Option (BitVec 32)) : Graph := { dom := 5, serial := 3, units := [(0, 0, 100), (1, 0, 101)], root := 100, img := image1, block := [], cut }
    let s (cut : Option (BitVec 32)) (c : Cell) : State := { svcState 2 2 5 17 with
      cells := (svcState 2 2 5 17).cells ++ [(100, c), (101, c.setIn 7 { c.inEp 7 with qnp := 1 })]
      carrier := { svc := { graphs := [(17, g cut)], cutNo := 8 } } }
    gives (.cut call0 []) (s none { st := .running }) (fun t => (t.cell 100).qreq && (t.cell 100).qcut = 9 && !(t.cell 101).qreq &&
      (t.graph 17).any (fun g => g.cut = some 9)) &&
    (svcTurn (s none {}) 2 2 5 17 && ((s none {}).cell 100).cutSource) &&
    ((s (some 9) { st := .parked, pcause := .cut }).cutComplete (g (some 9)) &&
      (s (some 9) { st := .parked, pcause := .cut }).placesOk (g (some 9)) 9 places && serves (.cut call0 places) 2 2 5 17 (s (some 9) { st := .parked, pcause := .cut }) 0 9 &&
      gives (.cut call0 places) (s (some 9) { st := .parked, pcause := .cut, g := [(1, cl 4)] }) (fun t =>
        (t.cell 100).st = .free && (t.graph 17).any (fun g => g.swapped &&
          (g.saved.map (fun r => r.units.map (fun u => u.st.reg 1))) = some [cl 4, cl 4]))) &&
    !(s (some 9) { st := .running }).cutComplete (g (some 9)) = true := by decide +kernel

theorem witness_CutsAreTakenAndRestored_restores :
    let s : State := { svcState 2 3 5 17 with carrier := { svc := { graphs := [(17, swapped1)], serial := 3 } } }
    let p := swapped1.plan 17 (place1 true) 4 0
    let r := loadState 5 17 [(17, swapped1)]
    (p.cellsOk s && p.eagsOk s && relinkOk rec1 [100] && okB (p.apply s) (fun t => p.treesOk t)) &&
    svcTurn s 2 3 5 17 && gives (.resume call0 (place1 true)) s (fun t => replied t 0 4 && (t.cell 100).reg 1 = cl 8 && (t.cell 100).pc = 7 && (t.cell 100).st = .asleep) &&
    serves (.resume call0 (place1 true)) 2 3 5 17 { s with carrier := { svc := { graphs := [(17, { swapped1 with saved := none })] } } } 2 0 &&
    placeable (plan1 17 true r) r true && relinkOk rec1 [100] && ((plan1 17 true r).inherited image1 rec1).map (fun y => y.1) = [100] &&
    okB (({ swapped1 with torn := true, swapped := false }.plan 17 (place1 true) 4 0).apply s) (fun t => p.treesOk t) &&
    gives (.resume call0 (place1 true)) { s with carrier := { svc := { graphs := [(17, { swapped1 with torn := true, swapped := false })], serial := 3 } } }
      (fun t => replied t 0 4 && (t.cell 100).reg 1 = cl 8) &&
    ((plan1 17 true (loadState 5 17 [(17, { swapped1 with swapped := false, saved := none })])).check (loadState 5 17 [(17, { swapped1 with swapped := false, saved := none })]) true).isNone &&
    gives (.replace call0 [] image1 (place1 true)) (loadState 5 17 [(17, { swapped1 with swapped := false, saved := none })])
      (fun t => (t.graph 17).any (fun g => g.cut = some 1)) &&
    svcTurn r 2 5 5 0x10000 && gives (.replace call0 [] image1 (place1 true)) r (fun t => replied t 0 (17 * 2 ^ 32 + 4) && (t.cell 100).reg 1 = cl 8 && (t.cell 100).pc = 7) &&
    ((plan1 17 false r).check r true = some (0x103, none) &&
      serves (.replace call0 [] image1 (place1 false)) 2 5 5 0x10000 r 0x103 0) = true := by decide +kernel

/-! ### Network, log, firmware -/

/-- Words from 0x10000 in domain 0. -/
def recordAt (ws : List Word) (svcn func : Nat) : State :=
  let cells := ws.zipIdx.flatMap (fun x => (List.range 8).map (fun j => (⟨0x40000 + 8 * x.2 + j, x.1.extractLsb' (8 * j) 8⟩ : Host.Cell)))
  { svcState svcn func 0 0x10000 with pages := [⟨0x10000, entryOf 0 0 0x40000 0 true false, 0⟩], mem := cells.filter (fun x => x.2 ≠ 0) }

theorem witness_NetworkLogAndFirmwareCalls :
    let s (svcn func arg : Nat) (v : Services) (x : LinkPort) : State := { svcState svcn func 0 arg with carrier := { svc := v, ports := [(31, x)] } }
    let w : State := s 4 0 77 { logs := [(0, { count := 6, recs := [] })] } {}
    let fw (arg : Nat) : State := s 2 6 arg { minVersion := 5, version := 9 } {}
    let req : List Word := [2 ^ 56 + 1, 0, 0, 0, 0, 0x18000, 5]
    serves (.portstat call0) 3 0 0 31 (s 3 0 31 {} { up := true, good := 0x7F, peerMod := 1023 }) 0 (1023 * 512 + 256 + 0x7F) &&
    svcTurn (s 3 1 0 {} {}) 3 1 0 0 &&
    serves (.logWrite call0) 4 0 0 77 w 0 6 &&
    gives (.logWrite call0) w (fun t => (t.carrier.svc.log 0).recs.map (fun r => (r.value, r.cell, r.dtag)) = [(77, 0, 9)]) &&
    serves (.logFlush call0) 4 1 0 0 (s 4 1 0 {} {}) 0 0 &&
    gives (.logFlush call0) ((s 4 1 0 {} {}).setHost 0 { replies := [(14, 1, 0, 0)] }) (fun t => (t.cell 0).calls.map (fun q => q.reply) = [none]) &&
    [(5, 0), (9, 0), (4, 2), (10, 2)].all (fun x => serves (.fwmin call0) 2 6 0 x.1 (fw x.1) x.2 0) &&
    gives (.fwmin call0) (fw 9) (fun t => t.carrier.svc.minVersion = 9) &&
    ((recordAt req 2 7).readRecord call0 0 0x10000 6 = some (req.take 6) && requestOk (req.take 6) &&
      (recordAt req 2 7).readRecord call0 0 0x10000 7 = some req &&
      (recordAt req 2 7).recordHeld call0 0 0x10000 7 = [] && svcTurn (recordAt req 2 7) 2 7 0 0x10000) = true := by decide +kernel

/-- In a system of one module: an image with no links for plane 2, and one that would name module 1. -/
theorem witness_NetworkLogAndFirmwareCalls_routes (h : Config.systemModules = 1) :
    let w : Word := 2 ^ 56 + 4 * 2 ^ 40
    let s (w1 : Word) : State := recordAt [w, w1] 3 2
    routeHead Config.systemModules w = true ∧ (s 0).readRecord call0 0 0x10008 (Config.systemModules * 128) = some (List.replicate 128 0) ∧
      (svcTurn (s 0) 3 2 0 0x10000 && (s 0).readRecord call0 0 0x10000 1 = some [w] && (s 0).routesOk ⟨1, [2], List.replicate 128 0⟩ &&
        (s 0).drained 2 true && !(s 8).routesOk ⟨1, [2], 0x900 :: List.replicate 127 0⟩) = true := by
  rw [h]; decide +kernel

/-! ### Host ports -/

/-- Port 3 with queue q, its ring, and a buffer of n words more. -/
def hostState (q : Nat) (x : HostQueue) (r : HostRing) : State :=
  { hostq := [(48 + q, x)], carrier := { svc := { running := true }, hosts := [(3, { up := true, accepted := 4, rings := [(q, r)] })] } }

theorem witness_HostInboundQueues :
    let x : HostQueue := { bound := true, dst := 58, win := 2, seq := 7, buf := [(2, 5, 4)] }
    let full : HostQueue := { x with buf := List.replicate 256 (2, 5, 4) }
    let t (i : Instr) (q : Nat) (x : HostQueue) (p : HostQueue → Bool) : Bool := gives i (hostState q x {}) (fun t => p (t.hostQueue 3 q))
    t (.hostDoorbell 3 14 2 9) 14 full (fun y => y.badw && y.ovf && y.buf.length = 256) &&
    t (.hostDoorbell 3 14 2 9) 14 { x with bound := false } (fun y => y.badw && !y.ovf && y.buf.length = 1) &&
    t (.hostDoorbell 3 14 7 (BitVec.ofNat 64 (8 * 2 ^ 56))) 14 x (fun y => y.badw && y.buf.length = 1) &&
    t (.hostDoorbell 3 14 7 9) 14 x (fun y => y.badw && y.buf.length = 1) &&
    t (.hostBarWrite 3 (0x1000 + 0x80 * 14 + 8 * 6) 8 9) 14 x (fun y => !y.badw && y.buf = [(2, 5, 4), (6, 9, 4)]) &&
    t (.hostBarWrite 3 (0x1000 + 0x80 * 15) 8 9) 15 { buf := [] } (fun y => y.buf = [(0, 9, 4)]) &&
    t (.iqStatClear 3 15 (BitVec.ofNat 64 (2 ^ 18))) 15 { badw := true, ovf := true } (fun y => !y.badw && y.ovf) &&
    t (.hostBarWrite 3 (0x1040 + 0x80 * 14) 8 (BitVec.ofNat 64 (2 ^ 17))) 14 { badw := true, ovf := true } (fun y => y.badw && !y.ovf) &&
    t (.doorbellPush 3 14) 14 x (fun y => y.buf = [] && y.seq = 8 && y.ents.map (fun e => (e.w.v, e.w.tag, e.w.seq)) = [(5, 2, 7)]) &&
    t (.doorbellPush 3 14) 14 { x with win := 0 } (fun y => y.buf.length = 1) &&
    ({ hostState 14 x {} with regions := [(0, { host := true, reqs := [(3, 3, ⟨false, 0, 0⟩)] })] } : State).memPending 3 4 &&
    gives (.doorbellPush 3 15) (hostState 15 { buf := [(0, 5, 4)] } {}) (fun t => (t.host 3).half = some 5) &&
    gives (.doorbellPush 3 15) ((hostState 15 { buf := [(0, 6, 4)] } {}).setHost 3 { half := some 5 }) (fun t => (t.host 3).half = none &&
      (t.host 3).mail.map (fun m => (m.header, m.arg)) = [(5, 6)]) &&
    gives (.hostPortTrain 3 true) { carrier := { pwr := { step := 7 } } } (fun t => (t.host 3).up && (t.host 3).x8) &&
    gives (.hostPortTrain 3 true) { carrier := { pwr := { step := 6 } } } (fun t => !(t.host 3).up) = true := by decide +kernel

theorem witness_HostOutboundRings :
    let r : HostRing := { base := 0x10000, size := 4, head := 0xFFFFFFFF, tail := 14 }
    let c : Cell := outbound { st := .idle } 7
    let e : WinEnt := ⟨qw 21 9 1, 0, 0, 0, 0, 0⟩
    let s := (hostState 15 {} r).setHost 3 { (hostState 15 {} r).host 3 with replies := [(15, 7, 8, 0)] }
    let b (off : Nat) (v : Word) (p : HostRing → Bool) : Bool := gives (.hostBarWrite 3 (0x4000 + 0x40 * 15 + off) 8 v) s (fun t => p ((t.host 3).ring 15))
    gives (.hostRingWrite 3 15 .chain) s (fun t => (t.host 3).wrote = [(0x100E0, 7, 8)] && ((t.host 3).ring 15).tail = 15 && (t.host 3).replies = []) &&
    gives (.hostRingWrite 3 15 (.cell 9 7 0)) { s with cells := [(9, c.setOut 7 { c.outEp 7 with hostQ := some (3, 15), ents := [e] })] }
      (fun t => (t.host 3).wrote = [(0x100E0, 21, e.w.side)] && ((t.cell 9).outEp 7).ents = []) &&
    2 ^ 4 ≤ (({ r with tail := 15 } : HostRing).tail - r.head).toNat &&
    b 0 0x40 (fun r => r.base = 0x40) && b 8 20 (fun r => r.size = 20) && b 8 0 (fun r => r.size = 0) && b 8 3 (fun r => r.size = 4) &&
    b 16 (-1) (fun r => r.head = -1) && b 24 5 (fun r => r.tail = 14) = true := by decide +kernel

/-! ### Freeze, trace, power -/

theorem witness_FreezeAndReadOut :
    let s (d : Debug) (frozen : Bool) : State := { run { g := [(1, cl 6)] } with frozen, now := 64, carrier := { dbg := d } }
    gives .freezePin (s {} false) (fun t => t.dbg.stopAt = some 128 && t.dbg.fpin) &&
    gives (.mdlctlFreeze 511) (s {} false) (fun t => t.dbg.stopAt = some 128 && t.dbg.frow = 511) &&
    gives (.mdlctlFreeze 511) (s { stopAt := some 70, fpin := true } false) (fun t => t.dbg.stopAt = some 70 && t.dbg.fpin) &&
    gives .freezeStop (s { stopAt := some 64 } false) (fun t => t.frozen && t.dbg.fcnt = 1) &&
    gives .freezeStop (s { stopAt := some 65 } false) (fun t => !t.frozen) &&
    gives .mdlresume (s {} true) (fun t => !t.frozen) &&
    gives .mdlread (s {} false) (fun t => t.dbg.out = 0 && t.dbg.ir = 0x11) &&
    gives .mdlread (s { sel := 1, shifted := 0x1822 } true) (fun t => t.dbg.out = 6 && t.dbg.shifted = 0x1823) = true := by decide +kernel

theorem witness_FreezeAndReadOut_notices :
    gives (.frozenNotice 31) (ports 31 { up := true }) (fun t => (t.linkPort 31).peerFrozen) &&
    gives (.thawedNotice 31) (ports 31 { up := true, peerFrozen := true }) (fun t => !(t.linkPort 31).peerFrozen) = true := by decide +kernel

theorem witness_TraceRecords :
    let c : Cell := { dbg := { f := [(12, 5)] }, ident := { dom := 0xFFF }, pc := 2047 }
    let s (now : Nat) : State := { run c with now }
    let full : State := { s 10 with rows := [(0, { trace := List.replicate 1024 (0, 0) })] }
    gives (.pcSample 0) (s 10) (fun t => (t.row 0).trace.map (fun x => (field x.1 59 5, field x.1 29 12, field x.2 0 11)) = [(2, 0xFFF, 2047)]) &&
    gives (.pcSample 0) (s 11) (fun t => (t.row 0).trace = []) && ((s 10).cell 0 |>.clk 10).toNat = 10 &&
    gives (.pcSample 0) full (fun t => (t.row 0).traceLost = 1 && (t.row 0).trace.length = 1024) &&
    gives (.traceTime 511) { now := 2 ^ 28 + 7, stampAt := some 7 } (fun t => (t.row 511).trace.map (fun x => (field x.1 59 5, x.2.toNat)) = [(1, 2 ^ 28)]) &&
    gives (.traceTime 511) { now := 2 ^ 28 + 7, stampAt := some 8 } (fun t => (t.row 511).trace = []) = true := by decide +kernel

theorem witness_LeaveAndItsBudget :
    let s (held : List Leave) (n : Nat) : State := { blocks := [(4095, { held, reqs := [⟨.copy, n, 0⟩], copyq := [cmd] })] }
    let hot (n : Nat) : State := { carrier := { pwr := { hot := n } } }
    gives (.leaveGrant 4095) (s [⟨.burst 3, 50, 0⟩] 8) (fun t => (t.block 4095).held = [⟨.burst 3, 50, 0⟩, ⟨.copy, 8, 0⟩] &&
      (t.block 4095).reqs = [] && (t.block 4095).copyq.map (fun m => m.leave) = [2]) &&
    gives (.leaveGrant 4095) (s [⟨.burst 3, 50, 0⟩] 9) (fun t => (t.block 4095).held.length = 1) &&
    gives (.leaveGrant 4095) (s [] 90) (fun t => (t.block 4095).held.length = 1) &&
    gives (.pcapWrite 12000) {} (fun t => t.budget 7 = 6) && gives (.pcapWrite 26000) {} (fun t => t.budget 7 = 58) &&
    gives (.pcapWrite 11999) {} (fun t => t.pwr.pcap = 26000) && gives (.pcapWrite 26001) {} (fun t => t.pwr.pcap = 26000) &&
    gives (.thermalThrottleTick 1681) (hot 0) (fun t => t.budget 7 = 50) && gives (.thermalThrottleTick 1680) (hot 1) (fun t => t.budget 7 = 42) &&
    gives (.thermalThrottleTick 1680) (hot 0) (fun t => t.budget 7 = 58) && gives (.thermalThrottleTick 1600) (hot 1) (fun t => t.budget 7 = 42) &&
    gives (.thermalThrottleTick 1599) (hot 3) (fun t => t.budget 7 = 58) &&
    gives (.entdaa 9) {} (fun t => t.pwr.addr = some 9) && gives (.entdaa 9) { carrier := { pwr := { addr := some 8 } } } (fun t => t.pwr.addr = some 8) =
    true := by decide +kernel

/-- R496: the failure code of BOOTSTAT in [15:8], STEP in [3:0]; PCAP after reset; FWIN is only written. -/
theorem test_managementRead :
    let s : State := { modNo := 0x3FF, carrier := { pwr := { code := 4, step := 3 } } }
    (s.managementRead 0 = some 0x403 && s.managementRead 3 = some 26000 && s.managementRead 4 = none && s.provisionalId = 0x3FF) = true := by
  decide +kernel

theorem witness_PowerAndBringUp :
    let off : State := { modNo := 5, carrier := { pwr := { on := false } } }
    let s (n : Nat) : State := { carrier := { pwr := { step := BitVec.ofNat 4 n } } }
    gives .powerFailure { run {} with modNo := 5, carrier := { svc := { leaf := 7, running := true } } } (fun t => !t.pwr.on && t.cells = [] &&
      t.modNo = 5 && t.carrier.svc.leaf = 7) &&
    gives (.powerOn ⟨false, [], []⟩) off (fun t => t.pwr.on && t.pwr.step = 0 && t.pwr.code = 1) &&
    gives (.powerOn ⟨true, [], [0]⟩) off (fun t => t.pwr.step = 2 && t.pwr.code = 3) &&
    gives (.powerOn ⟨true, [], [3]⟩) off (fun t => t.pwr.step = 3 && t.pwr.code = 0 && t.carrier.svc.failedStacks = [3]) &&
    gives (.fwin [7]) (s 3) (fun t => t.pwr.staged = [7]) && gives (.fwin [7]) (s 4) (fun t => t.pwr.staged = []) &&
    gives (.fwgo ⟨[], [], true, []⟩) (s 3) (fun t => t.pwr.code = 4) = true := by decide +kernel

/-- The conditions of acceptance beside the key, the signature and the hash. -/
theorem accepted_of (s : State) (h : imageOk s.pwr.staged = true)
    (e : (decide (imageField s.pwr.staged 0 1 = 1) && decide (s.pwr.staged.length = 64 + 68 + imageField s.pwr.staged 16 8 + 2820) &&
      decide (s.carrier.svc.minVersion.toNat ≤ imageField s.pwr.staged 8 8)) = true) : s.imageAccepted = true := by
  simp only [State.imageAccepted, h, Bool.and_true]; exact e

/-- An image with an empty body, of version 6, is accepted where its key, signature and hash are right, which only the holder of the signing
key can bring about; the other facts of the clauses about an accepted image. -/
theorem witness_PowerAndBringUp_accepted (h : imageOk ([1, 0, 0, 0, 0, 0, 0, 0, 6] ++ List.replicate (64 + 68 + 2820 - 9) 0) = true) :
    let staged : List Byte := [1, 0, 0, 0, 0, 0, 0, 0, 6] ++ List.replicate (64 + 68 + 2820 - 9) 0
    let s : State := { carrier := { pwr := { step := 3, staged }, svc := { minVersion := 6 } } }
    s.imageAccepted = true ∧ s.pwr.step = 3 ∧ s.pwr.code = 0 ∧ (∃ k ∈ [512 * 7 + 510], 510 ≤ k % 512) ∧ (∀ k ∈ [512 * 7 + 509], k % 512 < 510) := by
  exact ⟨accepted_of _ h (by decide +kernel), by decide +kernel, by decide +kernel, by decide, by decide⟩

/-- SHAKE256 of the empty message, from FIPS 202's published test values (which R7 names). -/
theorem test_shake256 : shake256 [] = [0x46, 0xB9, 0xDD, 0x2B, 0x0B, 0xA8, 0x8D, 0x13, 0x23, 0x3B, 0x3F, 0xEB, 0x74, 0x3E, 0xEB, 0x24,
    0x3F, 0xCD, 0x52, 0xEA, 0x62, 0xB8, 0x1B, 0x82, 0xB5, 0x0C, 0x27, 0x64, 0x6E, 0xD5, 0x76, 0x2F] := by decide +kernel
/-! ### Decoding of words written out from the encoding tables -/

/-- The arithmetic, branch and return opcodes of format R (R57, R58), each in a word whose fields are written out from bit 63 down. -/
theorem test_decode_r : ([
    (0x00, .nop), (0x01, .add), (0x02, .sub), (0x03, .adds), (0x04, .mul), (0x05, .mulh), (0x06, .mulhn), (0x07, .div),
    (0x08, .divn), (0x09, .rem), (0x0A, .remn), (0x0B, .andR), (0x0C, .orR), (0x0D, .xorR), (0x0E, .shl), (0x0F, .shr),
    (0x10, .sra), (0x11, .rotl), (0x12, .clz), (0x13, .popc), (0x14, .min), (0x15, .max), (0x16, .minn), (0x17, .maxn),
    (0x18, .ceq), (0x19, .clt), (0x1A, .cltn), (0x1B, .sel), (0x26, .modw), (0x2D, .ret), (0x34, .done)] :
    List (BitVec 8 × (Hdr → FmtR → Instr))).all (fun x =>
      decodeWord (x.1 ++ 0x81#8 ++ 1#1 ++ 5#3 ++ 7#6 ++ 58#6 ++ 9#6 ++ 33#6 ++ 1#3 ++ 2#3 ++ 3#3 ++ 10#4 ++ 4#3 ++ 1#1 ++ 6#3) =
        x.2 ⟨0x81, true, 5⟩ ⟨7, 58, 9, 33, 1, 2, 3, 10, 4, true, 6⟩) = true := by decide +kernel

/-- The immediate, call and system-register opcodes of format I (R57, R58), each in a word whose fields are written out from bit 63 down. -/
theorem test_decode_i : ([
    (0x1C, .addi), (0x1D, .andi), (0x1E, .ori), (0x1F, .xori), (0x20, .shli), (0x21, .shri), (0x22, .srai), (0x23, .movi),
    (0x24, .movhi), (0x31, .svc), (0x32, .trap), (0x35, .brk), (0x36, .rdsys), (0x37, .wrsys)] :
    List (BitVec 8 × (Hdr → FmtI → Instr))).all (fun x =>
      decodeWord (x.1 ++ 0x81#8 ++ 1#1 ++ 5#3 ++ 7#6 ++ 58#6 ++ 1#3 ++ 0x1234567A#29) =
        x.2 ⟨0x81, true, 5⟩ ⟨7, 58, 1, 0x1234567A⟩) = true := by decide +kernel

/-- The local and global memory opcodes of format M (R57, R58), each in a word whose fields are written out from bit 63 down. -/
theorem test_decode_m : ([
    (0x25, .lea), (0x2F, .ldl), (0x30, .stl), (0x70, .ldg), (0x71, .stg), (0x72, .ldf), (0x73, .stf), (0x74, .clrf), (0x75, .ald),
    (0x7E, .fence)] :
    List (BitVec 8 × (Hdr → FmtM → Instr))).all (fun x =>
      decodeWord (x.1 ++ 0x81#8 ++ 1#1 ++ 5#3 ++ 7#6 ++ 58#6 ++ 9#6 ++ 1#3 ++ 2#3 ++ 2#2 ++ 1#1 ++ 3#3 ++ 0x2ABC#14) =
        x.2 ⟨0x81, true, 5⟩ ⟨7, 58, 9, 1, 2, 2, true, 3, 0x2ABC⟩) = true := by decide +kernel

/-- The branch opcodes of format B (R57, R58), each in a word whose fields are written out from bit 63 down. -/
theorem test_decode_b : ([
    (0x27, .br), (0x28, .bz), (0x29, .bnz), (0x2A, .blz), (0x2B, .bgez), (0x2C, .call), (0x2E, .loopn)] :
    List (BitVec 8 × (Hdr → FmtB → Instr))).all (fun x =>
      decodeWord (x.1 ++ 0x81#8 ++ 1#1 ++ 5#3 ++ 7#6 ++ 58#6 ++ 1#3 ++ 0x1234567A#29) =
        x.2 ⟨0x81, true, 5⟩ ⟨7, 58, 1, 0x1234567A⟩) = true := by decide +kernel

/-- The queue, copy, semaphore, atomic, event, predicate, matrix, exchange and supervisor opcodes of format X (R57, R58), each in a word whose fields are written out from bit 63 down. -/
theorem test_decode_x : ([
    (0x40, .pop), (0x41, .peek), (0x42, .push), (0x43, .pushl), (0x44, .popl), (0x45, .qlen), (0x46, .qroom), (0x47, .qbind),
    (0x49, .qstk), (0x4A, .qskip), (0x4B, .qdiv), (0x4C, .qseq), (0x4D, .qsleep), (0x4E, .qmark), (0x4F, .qflush), (0x51, .cstart),
    (0x52, .cstop), (0x53, .cread), (0x54, .rngrd), (0x55, .qwaitn), (0x60, .cpy), (0x61, .cpys), (0x62, .cpyg), (0x63, .cpyd),
    (0x66, .sinc), (0x67, .sset), (0x68, .srd), (0x69, .swait), (0x6A, .swaitd), (0x76, .aadd), (0x77, .afadd), (0x78, .amin),
    (0x79, .amax), (0x7A, .axchg), (0x7B, .acas), (0x7C, .aor), (0x7D, .aand), (0x80, .evarr), (0x82, .evsig), (0x83, .evlock),
    (0x84, .evunlk), (0x85, .evcmb), (0xC0, .pori2), (0xC1, .pori3), (0xC2, .pinci), (0xC3, .pinsp), (0xC4, .psegx),
    (0xC5, .pstat), (0xC8, .mgang), (0xC9, .mread), (0xCA, .mclr), (0xCC, .mstat), (0xCD, .mfill), (0xCF, .mswap), (0xD1, .msync),
    (0xD8, .xpost), (0xD9, .xgrant), (0xDA, .xsend), (0xDB, .xdone), (0xDC, .xstat), (0xE0, .qfwd), (0xE2, .reinj)] :
    List (BitVec 8 × (Hdr → FmtX → Instr))).all (fun x =>
      decodeWord (x.1 ++ 0x81#8 ++ 1#1 ++ 5#3 ++ 7#6 ++ 58#6 ++ 9#6 ++ 33#6 ++ 0xABC3A#20) =
        x.2 ⟨0x81, true, 5⟩ ⟨7, 58, 9, 33, 0xABC3A⟩) = true := by decide +kernel

/-- The vector opcodes of format V (R57, R58), each in a word whose fields are written out from bit 63 down. -/
theorem test_decode_v : ([
    (0x88, .vadd), (0x89, .vsub), (0x8A, .vmul), (0x8B, .vfma), (0x8C, .vfms), (0x8D, .vdiv), (0x8E, .vsqrt), (0x8F, .vrcp),
    (0x90, .vexp2), (0x91, .vsig), (0x92, .vmin), (0x93, .vmax), (0x94, .vabs), (0x95, .vneg), (0x96, .vcmp), (0x97, .vsel),
    (0x98, .vand), (0x99, .vor), (0x9A, .vxor), (0x9B, .vshl), (0x9C, .vshr), (0x9D, .vsra), (0x9E, .vcvt), (0x9F, .vsdc),
    (0xA0, .vsde), (0xA1, .vsdd), (0xA2, .vldl), (0xA3, .vstl), (0xA4, .vgath), (0xA5, .vscat), (0xA6, .vbcast), (0xA7, .vext),
    (0xA8, .vred), (0xA9, .vscan), (0xAA, .vperm), (0xAC, .vsetl), (0xAE, .vpopq), (0xAF, .vpushq)] :
    List (BitVec 8 × (Hdr → FmtV → Instr))).all (fun x =>
      decodeWord (x.1 ++ 0x81#8 ++ 1#1 ++ 5#3 ++ 7#6 ++ 58#6 ++ 9#6 ++ 33#6 ++ 4#3 ++ 1#1 ++ 17#5 ++ 10#4 ++ 3#3 ++ 1#1 ++ 7#3) =
        x.2 ⟨0x81, true, 5⟩ ⟨7, 58, 9, 33, 4, true, 17, 10, 3, true, 7⟩) = true := by decide +kernel
/-- The opcodes whose forms a field tells apart (R79), in words of that opcode with the field alone set. -/
theorem test_decode_forms :
    let r (fn : BitVec 3) : FmtR := ⟨0, 0, 0, 0, 0, 0, 0, 0, 0, false, fn⟩
    let v (fn : BitVec 3) : FmtV := ⟨0, 0, 0, 0, 0, false, 0, 0, 0, false, fn⟩
    let x (ef : BitVec 20) : FmtX := ⟨0, 0, 0, 0, ef⟩
    ([(0x33, 0, .rettRetry h0 (r 0)), (0x33, 1, .rettNext h0 (r 1)), (0x33, 2, .rettRedo h0 (r 2)), (0x33, 3, .rettEnd h0 (r 3)),
      (0x48, 0, .qtagOut h0 (x 0)), (0x48, 0x800, .qtagIn h0 (x 0x800)), (0x50, 0, .ccfgLim h0 (x 0)), (0x50, 0x4, .ccfgMode h0 (x 0x4)),
      (0x64, 0, .eagcfgW h0 (x 0)), (0x64, 0x40, .eagcfgR h0 (x 0x40)), (0x65, 0, .eaggoStart h0 (x 0)),
      (0x65, 2, .eaggoResume h0 (x 2)), (0x65, 4, .eaggoStop h0 (x 4)), (0x81, 0, .evwaitB h0 (x 0)), (0x81, 8, .evwaitE h0 (x 8)),
      (0xCB, 0, .mscl h0 (x 0)), (0xCB, 4, .msclRd h0 (x 4)), (0xCE, 0, .mcutOff h0 (x 0)), (0xCE, 0x10, .mcut h0 (x 0x10)),
      (0xD0, 0, .mleaveRsv h0 (x 0)), (0xD0, 0x10, .mleaveRel h0 (x 0x10)), (0xE1, 0, .parkCut h0 (x 0)), (0xE1, 1, .parkSelf h0 (x 1)),
      (0xE3, 0, .ptestDom h0 (x 0)), (0xE3, 1, .ptestCell h0 (x 1)), (0xE4, 0, .wdogSet h0 (x 0)), (0xE4, 1, .wdogOff h0 (x 1)),
      (0xAB, 0, .viota h0 (v 0)), (0xAB, 1, .viotaCnt h0 (v 1)), (0xAD, 4, .vmovp h0 (v 4)), (0xAD, 5, .vmovpRd h0 (v 5)),
      (0xAD, 6, .vmovpWr h0 (v 6)), (0x38, 0, .unassignedOpcode 0x3800000000000000), (0xFE, 3, .unassignedOpcode 0xFE00000000000003)] :
      List (BitVec 8 × BitVec 56 × Instr)).all (fun y => decodeWord (y.1 ++ y.2.1) = y.2.2) = true := by decide +kernel

/-- The encodings that the manual works out (after R87, after R340 and after R423). -/
theorem test_decode_worked :
    decodeWord 0x01019146EC008000 = .add ⟨1, true, 1⟩ ⟨5, 6, 59, 0, 0, 2, 0, 0, 0, false, 0⟩ ∧
    decodeWord 0x2F00A1C6000C0010 = .ldl ⟨0, true, 2⟩ ⟨7, 6, 0, 0, 0, 3, false, 0, 16⟩ ∧
    decodeWord 0x290000031FFFFFFB = .bnz h0 ⟨0, 3, 0, -5⟩ ∧
    decodeWord 0x8B000080A4260500 = .vfma h0 ⟨2, 0, 41, 2, 3, false, 0, 0xA, 0, false, 0⟩ ∧
    decodeWord 0xAC00082500000300 = .vsetl h0 ⟨32, 37, 0, 0, 0, false, 0, 6, 0, false, 0⟩ ∧
    decodeWord 0x8A000081B0000300 = .vmul h0 ⟨2, 1, 44, 0, 0, false, 0, 6, 0, false, 0⟩ ∧
    decodeWord 0xA40000EA08000300 = .vgath h0 ⟨3, 42, 2, 0, 0, false, 0, 6, 0, false, 0⟩ ∧
    decodeWord 0x9600004314000300 = .vcmp h0 ⟨1, 3, 5, 0, 0, false, 0, 6, 0, false, 0⟩ ∧
    decodeWord 0xA80009C400060301 = .vred h0 ⟨39, 4, 0, 0, 3, false, 0, 6, 0, false, 1⟩ ∧
    decodeWord 0xDA00010C2C000000 = .xsend h0 ⟨4, 12, 11, 0, 0⟩ ∧ decodeWord 0xD800001691700000 = .xpost h0 ⟨0, 22, 36, 23, 0⟩ ∧
    decodeWord 0xD900079D00000000 = .xgrant h0 ⟨30, 29, 0, 0, 0⟩ ∧ decodeWord 0xDB00A7C000000000 = .xdone ⟨0, true, 2⟩ ⟨31, 0, 0, 0, 0⟩ := by
  decide +kernel

/-- Commands of the configuration stream (R43, R44) and codes of the TAP (R494). -/
theorem test_decode_commands :
    let m : Master := tableMaster
    decodeCommand m false (0x0#4 ++ 1023#10 ++ 63#6 ++ 0xFFF#12) 1 2 = .write m 1023 63 0xFFF ∧
    decodeCommand m true (0x0#4 ++ 0#10 ++ 0#6 ++ 7#12) 1 2 = .mark m 0 7 ∧ decodeCommand m true (0x0#4 ++ 0#10 ++ 1#6 ++ 0#12) 1 2 = .clrerr m 0 0 ∧
    decodeCommand m false (0x1#4 ++ 3#3 ++ 0x3FFFF#18 ++ 0#7) 1 2 = .base m 3 0x3FFFF ∧
    decodeCommand m false (0x2#4 ++ 5#10 ++ 9#6 ++ 0#12) 0xDEADBEEF 2 = .wide m 5 9 0xDEADBEEF ∧
    decodeCommand m false (0x3#4 ++ 5#10 ++ 0#7 ++ 0x7FF#11) 1 2 = .istore m 5 0x7FF 0x200000001 ∧
    decodeCommand m false (0x4#4 ++ 5#10 ++ 0#4 ++ 0x3FFF#14) 1 2 = .lstore m 5 0x3FFF 0x200000001 ∧
    decodeCommand m false (0xF#4 ++ 5#10 ++ 0#18) 1 2 = .start m 5 ∧
    ([0x10000001, 0x20000001, 0x30000800, 0x40004000, 0xF0000001, 0x50000000, 0xE0000000] : List (BitVec 32)).all (fun w =>
      decodeCommand m false w 1 2 = .cfgReservedCommand m w) = true ∧
    ([0x00, 0x01, 0x02, 0x10, 0x11, 0x12, 0x13, 0xFF] : List (BitVec 8)).map decodeTap = [some .extest, some .idcode, some .samplePreload,
      some (.mdlsel 0), some .mdlread, some (.mdllanes false), some .mdlresume, some .bypass] ∧
    decodeTap 0x14 = none ∧ decodeTableWord 16 0 = none ∧
    (match decodeBytes [7, 0, 0, 0, 0, 0, 0] with | .error .tooShort => true | .ok _ => false) = true := by decide +kernel

/-! ### Ill-formed terms that WellFormed refuses, one for each check; the legal neighbour stands beside it -/

theorem test_wf_scalar :
    let r : FmtR := ⟨1, 2, 3, 0, 0, 0, 0, 0, 0, false, 0⟩
    let z : FmtR := ⟨0, 0, 0, 0, 0, 0, 0, 0, 0, false, 0⟩
    let i : FmtI := ⟨1, 2, 0, 5⟩
    let m : FmtM := ⟨1, 2, 3, 0, 0, 3, false, 0, 0⟩
    ([.add h0 r, .add h0 { r with a := 58, sa := 2 }, .adds h0 { r with fn := 3 }, .nop h0 z, .done h0 z, .movi h0 { i with a := 0 },
      .shli h0 { i with imm := 63 }, .loopn h0 ⟨0, 55, 0, 0⟩, .call h0 ⟨55, 0, 0, 0⟩, .svc h2 { i with imm := 0x04000000 }, .stf h0 m,
      .rdsys h0 { i with a := 0, imm := 41 }, .fence h0 ⟨0, 0, 0, 0, 0, 0, false, 4, 0⟩] : List Instr).all Instr.wf &&
    ([.add ⟨0, false, 1⟩ r, .add h0 { r with sa := 1 }, .add h0 { r with c := 1 }, .add h0 { r with sc := 1 }, .add h0 { r with ty := 1 },
      .add h0 { r with rm := 1 }, .add h0 { r with sat := true }, .add h0 { r with fn := 1 }, .adds h0 { r with fn := 4 }, .clz h0 r,
      .nop h0 { z with d := 1 }, .nop h0 { z with fn := 1 }, .done h2 z, .movi h0 i, .shli h0 { i with imm := 64 }, .loopn h0 ⟨0, 56, 0, 0⟩,
      .loopn h0 ⟨1, 5, 0, 0⟩, .call h0 ⟨0, 0, 0, 0⟩, .call h0 ⟨56, 0, 0, 0⟩, .br h0 ⟨1, 0, 0, 0⟩, .svc h0 i, .svc h2 { i with imm := 0x05000000 },
      .trap h0 i, .rdsys h0 { i with a := 0, imm := 18 }, .rdsys h0 { i with a := 0, imm := 42 }, .rdsys h0 { i with a := 0, imm := 64 },
      .lea h0 { m with sx := true }, .ldl h0 { m with scope := 1 }, .ldl h0 { m with sb := 1 }, .stl h0 { m with sx := true }, .stf h0 { m with sz := 2 },
      .clrf h0 m, .fence h0 ⟨0, 0, 0, 0, 0, 0, false, 5, 0⟩, .fence h0 m, .rettEnd h0 z, .ret h0 r, .unassignedOpcode 0] : List Instr).all
        (fun i => !i.wf) = true := by decide +kernel

theorem test_wf_units :
    let a : FmtX := xf 1 2 3 0 8
    let p : FmtX := xf 1 2 3 7 0
    let v : FmtV := vf 1 2 3 0 10
    ([.pop h0 (xf 3 0 2 0 7), .qmark h0 (xf 0 0 0 0 0x7F8), .qsleep h0 (xf 1 0 0 0 8), .ccfgMode h0 (xf 0 0 0 0 4), .eagcfgR h0 (xf 1 0 0 0 (64 + 34)),
      .aadd h0 a, .afadd h0 (xf 1 2 3 0 (8 + 6 * 32)), .amin h0 (xf 1 2 3 0 24), .acas h0 (xf 1 2 3 4 8), .evcmb h0 (xf 1 2 0 0 20), .pori2 h0 p,
      .vadd h0 v, .vadd h0 { v with p := 3, pz := true }, .vsel h0 { v with c := 7 }, .vred h0 (vf 32 1 0 0 10 2), .mgang h0 (xf 0 1 2 3 (24 * 8)),
      .mclr h0 (xf 0 0 0 0 255), .mleaveRsv h0 (xf 0 0 0 0 8), .xgrant h0 (xf 1 2 0 0 0x1F0), .parkSelf h0 (xf 0 0 0 0 1)] : List Instr).all Instr.wf &&
    ([.pop h0 (xf 3 0 2 0 8), .pop h0 (xf 3 0 56 0 7), .pop h0 (xf 3 1 2 0 7), .qmark h0 (xf 0 0 0 0 1), .qsleep h0 (xf 1 0 0 0 0), .ccfgMode h0 (xf 0 0 0 0 8),
      .eagcfgR h0 (xf 1 0 0 0 (64 + 36)), .eagcfgW h0 (xf 0 1 0 0 34), .eaggoStart h0 (xf 0 0 0 0 6), .aadd h0 (xf 1 2 3 0 0), .aadd h0 (xf 1 2 3 0 9),
      .aadd h0 (xf 1 2 3 0 24), .aadd h0 (xf 1 2 3 1 8), .afadd h0 (xf 1 2 3 0 (8 + 7 * 32)), .aadd h0 (xf 1 2 3 0 (8 + 32)),
      .evcmb h0 (xf 1 2 0 0 24), .evarr h0 (xf 0 0 0 0 4), .pori2 h0 (xf 16 2 3 7 0), .pori2 h0 (xf 1 2 3 8 0), .pori2 h0 (xf 1 2 3 7 1),
      .pori2 h0 (xf 1 2 3 7 16), .pori2 h0 (xf 1 2 3 7 (1024 + 7 * 16)), .pori2 h0 (xf 1 2 3 7 2048), .vadd h0 { v with d := 16 }, .vadd h0 { v with z := 1 },
      .vadd h0 { v with pz := true }, .vadd h0 { v with rm := 7 }, .vadd h0 { v with ty := 7, rm := 1 }, .vadd h0 { v with ty := 12 }, .vadd h0 { v with fn := 1 },
      .vdiv h0 { v with ty := 6, sat := true }, .vcmp h0 (vf 1 2 3 0 6 6), .vsel h0 { v with c := 8 }, .vred h0 (vf 32 1 0 0 10 3), .vred h0 (vf 1 1 0 0 10),
      .vcvt h0 (vf 1 2 0 14 10), .vsdc h0 (vf 1 32 33 0 10), .viotaCnt h0 (vf 1 0 0 0 6), .vsetl h0 (vf 32 0 0 0 6), .mgang h0 (xf 0 1 2 3 0),
      .mgang h0 (xf 0 1 2 3 (25 * 8)), .mclr h0 (xf 0 0 0 0 0), .mleaveRsv h0 (xf 0 0 0 0 9), .xgrant h0 (xf 1 2 0 0 0x10), .parkSelf h2 (xf 0 0 0 0 1),
      .qfwd h0 (xf 0 0 0 0 0), .taskWake 262144, .copyStart 4096, .eagElementCommit 256, .eventApply 32768, .stageCBurstStart 65536, .traceTime 512,
      .start ⟨512, 0⟩ 1, .start ⟨511, 513⟩ 1] : List Instr).all (fun i => !i.wf) = true := by decide +kernel

/-! ### The machine as a whole -/

theorem witness_AStepRunsTheDecodedInstruction :
    let add : Word := 0x01#8 ++ 0#12 ++ 3#6 ++ 1#6 ++ 2#6 ++ 0#26
    let c (pc : Nat) : Cell := { st := .running, pc, g := [(1, cl 4), (2, cl 5)], istore := [(2047, add)], ha := [(16, 0x10100)], sys := { entry := 0 } }
    let s (pc : Nat) (sched : List Turn) : State := { cells := [(9, c pc)], cur := 9, sched }
    let stepTo (s : State) (p : State → Bool) : Bool := match step s with | .next t => p t | _ => false
    stepTo (s 2047 []) (fun t => (t.cell 9).reg 3 = cl 9 && (t.cell 9).pc = 2048) &&
    stepTo { s 2047 [.cell 9] with cur := 4 } (fun t => (t.cell 9).reg 3 = cl 9 && t.cur = 9) &&
    stepTo (s 2048 []) (fun t => (t.cell 9).pc = 0x100 && field (t.cell 9).sys.trap 0 8 = 4) &&
    stepTo { s 0 [] with cur := 5 } (fun t => t.now = 1) &&
    stepTo (s 0 [.op (.taskDispatch 9), .clk 3]) (fun t => t.sched = [.clk 3] && t.now = 0) &&
    (match step (s 0 [.op (.nop h0 ⟨0, 0, 0, 0, 0, 0, 0, 0, 0, false, 0⟩)]) with | .refused .notAnEvent => true | _ => false) &&
    stepTo (s 0 [.clk 7]) (fun t => t.now = 7) &&
    stepTo { (s 2048 []).setCell 9 { c 2048 with readyAt := 40 } with now := 12 } (fun t => (t.cell 9).pc = 0x100 && t.now = 40) &&
    -- ADDI x1, x0, 9 in the SRAM of row manager 511, as its core's turn
    stepTo { sched := [.agent (.hart 511)], rows := [(511, { hart := { pc := 0x1000000, sram := [(0, 0x93), (2, 0x90)] } })] }
      (fun t => (t.row 511).hart.reg 1 = 9 && (t.row 511).hart.pc = 0x1000004 && t.sched = []) = true := by decide +kernel

/-- A word placed where the next step fetches is the instruction that step runs, as the first after reset. -/
theorem test_withFetchWord :
    let movi : Nat := 0x23 * 2 ^ 56 + 3 * 2 ^ 38 + 77
    (match step (State.reset.withFetchWord 64 movi) with | .next t => t.me.reg 3 = cl 77 && t.me.pc = 1 | _ => false) &&
    (match step (State.reset.withFetchWord 32 (0x1 * 2 ^ 28)) with | .next _ => true | _ => false) = true := by decide +kernel

theorem witness_EncodingsAreReadBack :
    let i : Instr := .vred ⟨255, true, 7⟩ (vf 63 15 0 0 7 5)
    (i.wf && (match encode i with | some w => decodeWord w = i | none => false)) = true ∧
    ([.start ⟨511, 512⟩ 1023, .istore ⟨511, 512⟩ 1023 2047 (-1), .mark ⟨0, 0⟩ 5 6] : List Instr).all (fun i => match encodeCommand i with
      | some (sp, w, w1, w2) => (decodeCommand ⟨0, 0⟩ sp w w1 w2 |> encodeCommand) = some (sp, w, w1, w2) | none => false) = true := by decide +kernel

theorem witness_TheIssueOfEveryInstruction :
    let i : Instr := .add ⟨0x80, true, 7⟩ ⟨3, 1, 2, 0, 0, 0, 0, 0, 0, false, 0⟩
    let h : Hdr := ⟨0x80, true, 7⟩
    let r : FaultRec := ⟨0, 6, 0x70, 3, 99, 7, 0x80, false, true⟩
    let park : Instr := .parkSelf h0 (xf 0 0 0 0 1)
    let s (c : Cell) : State := run { handled with slots := c.slots, faults := c.faults, ident := c.ident }
    ((encode i).map Hdr.ofWord = some h && h.wm &&& (s { slots := [(7, .pending)] }).me.pendingMask ≠ 0 &&
      gives i (s { slots := [(7, .pending)] }) (fun t => (t.cell 0).st = .asleep && (t.cell 0).wait = some (.token, .slots 0x80))) &&
    ((s { slots := [(7, .faulted)], faults := [r] }).me.faultFor (namedSlots h) (Instr.op i) = some r &&
      gives i (s { slots := [(7, .faulted)], faults := [r] }) (fun t => (t.cell 0).pc = 0x100 && (t.cell 0).sys.tpc = 6 &&
        (t.cell 0).sys.tval = 99 && (t.cell 0).slot 7 = .idle && (t.cell 0).faults = [])) &&
    gives (.add h0 ⟨3, 1, 2, 0, 1, 0, 0, 0, 0, false, 0⟩) (s {}) (fun t => (t.cell 0).pc = 0x100 && field (t.cell 0).sys.trap 0 8 = 1) &&
    (park.wf && gives park (s { ident := { dom := 5 } }) (fun t => (t.cell 0).pc = 0x100 && field (t.cell 0).sys.trap 0 8 = 2)) &&
    [0, 1, 2, 3, 4, 8].all (fun n => ((s {}).me.debugField n).getLsbD 11 = false) = true := by decide +kernel

theorem witness_EveryStepKeepsTheMemoryCanonical :
    let s : State := { mem := [⟨0x40000, 3⟩, ⟨0x40007, 1⟩], sched := [.op (.rmWindowWrite 0 (2 ^ 50 + 0x40000) 0)] }
    (s.mem.wf && match step s with | .next t => t.mem = [] && t.mem.wf | _ => false) = true := by decide +kernel

/-! ### Worked examples of the manual -/

/-- The encodings of the queue, memory and matrix chapters (before R243, after R289 and R393). -/
theorem test_decode_worked_more :
    decodeWord 0x4000910014000002 = .pop ⟨0, true, 1⟩ (xf 4 0 5 0 2) ∧ decodeWord 0x4400A18700000079 = .popl ⟨0, true, 2⟩ (xf 6 7 0 0 0x79) ∧
    decodeWord 0x4301000900000183 = .pushl ⟨1, false, 0⟩ (xf 0 9 0 0 0x183) ∧ decodeWord 0x760001C11000000C = .aadd h0 (xf 7 1 4 0 0xC) ∧
    decodeWord 0x7A0080010000000C = .axchg ⟨0, true, 0⟩ (xf 0 1 0 0 0xC) ∧ decodeWord 0x7A0100021400000C = .axchg ⟨1, false, 0⟩ (xf 0 2 5 0 0xC) ∧
    decodeWord 0x75000242000C0000 = .ald h0 ⟨9, 2, 0, 0, 0, 3, false, 0, 0⟩ ∧ decodeWord 0x7E0000000000C000 = .fence h0 ⟨0, 0, 0, 0, 0, 0, false, 3, 0⟩ ∧
    decodeWord 0xC800000B30D000C0 = .mgang h0 (xf 0 11 12 13 0xC0) ∧ decodeWord 0xC800A00B30D00041 = .mgang ⟨0, true, 2⟩ (xf 0 11 12 13 0x41) ∧
    decodeWord 0xCB00000E00000000 = .mscl h0 (xf 0 14 0 0 0) ∧ decodeWord 0xCA00000000000003 = .mclr h0 (xf 0 0 0 0 3) ∧
    decodeWord 0xC90000C000000001 = .mread h0 (xf 3 0 0 0 1) ∧ decodeWord 0xCD00000100000001 = .mfill h0 (xf 0 1 0 0 1) := by decide +kernel

/-- Origins and extents of units 17 and 23 of a node of 24 units (after R16). -/
theorem test_origin_extent : originExtent [1000, 5] [6, 4] 17 = [(835, 165), (4, 1)] ∧ originExtent [1000, 5] [6, 4] 23 = [(835, 165), (5, 0)] := by
  decide

/-- The two stochastic conversions after R107. -/
theorem test_stochastic_rounding :
    (roundTo .bf16 5 false 0x80200003 (Fmt.f32.decode 0x3F80C000)).1 = 0x3F81 ∧ (roundTo .bf16 5 false 0xC0300002 (Fmt.f32.decode 0x3F802000)).1 = 0x3F80 ∧
      lfsrStep 1 = 0x80200003 ∧ lfsrStep 0x80200003 = 0xC0300002 := by decide +kernel

/-- The block of 3.0, −0.8125, 0.1 and 1.5 with 8 planes (after R118). -/
theorem test_signed_digit_block :
    let xs := [0x40400000, 0xBF500000, 0x3DCCCCCD, 0x3FC00000].map Fmt.f32.decode ++ List.replicate 28 (Machine.Num.zero false)
    let b := toSds xs 8 0 false (List.replicate 32 0)
    b.hdr = 0x881 ∧ b.planes = [0xAAAAAAAAAAAAAA01, 0xAAAAAAAAAAAAAA41, 0xAAAAAAAAAAAAAA4E, 0xAAAAAAAAAAAAAA8E, 0xAAAAAAAAAAAAAA82,
      0xAAAAAAAAAAAAAA9E, 0xAAAAAAAAAAAAAA9A, 0xAAAAAAAAAAAAAAAA] ∧ b.fl = Flags.nx := by decide +kernel

/-- VRCP of 3.0 and 0.5, and VEXP2 of 0.5, −1.0 and 3.0 (R320, R321). -/
theorem test_approximations :
    (vrcp 0x40400000).v = 0x3EAAB000 ∧ (vrcp 0x3F000000).v = 0x40000000 ∧ (vexp2 0 false 0 0 0x3F000000).v = 0x3FB504F3 ∧
      (vexp2 0 false 0 0 0xBF800000).v = 0x3F000000 ∧ (vexp2 0 false 0 0 0x40400000).v = 0x41000000 := by decide +kernel

/-- The phases of the router round (after R423): every pair has one slot, but those to participant 6; the receiver of each sender, 8 for
none. -/
theorem test_exchange_phases :
    let post : Post := ⟨[1288, 1288, 1288, 1288, 1288, 1288, 0, 1288], 0, 65536⟩
    (planRound 0 1416 ((List.range 8).map (fun p => (p, post))) 8).phases.map (fun ph =>
        (List.range 8).map (fun n => ((ph.find? (fun x => x.1 = n)).map (fun x => x.2)).getD 8)) =
      [[0, 1, 2, 3, 4, 5, 7, 8],
      [1, 0, 3, 2, 5, 4, 8, 7],
      [2, 3, 0, 1, 7, 8, 4, 5],
      [3, 2, 1, 0, 8, 7, 5, 4],
      [4, 5, 7, 8, 0, 1, 2, 3],
      [5, 4, 8, 7, 1, 0, 3, 2],
      [7, 8, 4, 5, 2, 3, 0, 1],
      [8, 7, 5, 4, 3, 2, 1, 0]] := by decide +kernel

end Sys2Proof.Tests
end

section
/-! SUPPORT. What an outcome and a computation that may fail say of the memory, and what folding does to it. -/

namespace Sys2Proof.Machine

open Sys2Proof

/-! ### What an operation's result says of the memory -/

/-- P holds of the memory of the next state, if there is one. -/
def OnNext (P : Memory → Prop) : Host.Outcome State Fault Refusal → Prop
  | .next t => P t.mem
  | _ => True

@[simp] theorem onNext_next {P : Memory → Prop} {t : State} : OnNext P (.next t) ↔ P t.mem := Iff.rfl
@[simp] theorem onNext_ite {P : Memory → Prop} {c : Prop} [Decidable c] {x y : Host.Outcome State Fault Refusal} :
    OnNext P (if c then x else y) ↔ (c → OnNext P x) ∧ (¬c → OnNext P y) := by
  by_cases h : c <;> simp [h]

/-- An Except computation that fails with an error of E, or gives a value of Q. -/
def After {ε α : Type} (E : ε → Prop) (Q : α → Prop) : Except ε α → Prop
  | .ok a => Q a
  | .error e => E e

section
variable {ε α β : Type} {E : ε → Prop} {Q : α → Prop}

@[simp] theorem after_ok {a : α} : After E Q (.ok a) ↔ Q a := Iff.rfl
@[simp] theorem after_pure {a : α} : After E Q (pure a) ↔ Q a := Iff.rfl
@[simp] theorem after_error {e : ε} : After E Q (.error e) ↔ E e := Iff.rfl
@[simp] theorem after_bind {x : Except ε β} {f : β → Except ε α} :
    After E Q (x >>= f) ↔ After E (fun b => After E Q (f b)) x := by cases x <;> rfl
@[simp] theorem after_map {x : Except ε β} {f : β → α} : After E Q (f <$> x) ↔ After E (fun b => Q (f b)) x := by
  cases x <;> rfl
@[simp] theorem after_exceptMap {x : Except ε β} {f : β → α} : After E Q (x.map f) ↔ After E (fun b => Q (f b)) x := by
  cases x <;> rfl
theorem After.mono {Q' : α → Prop} {x : Except ε α} (h : After E Q x) (hQ : ∀ a, Q a → Q' a) : After E Q' x := by
  cases x with
  | ok a => exact hQ a h
  | error e => exact h
theorem After.bind {R : β → Prop} {x : Except ε β} {f : β → Except ε α} (h : After E R x)
    (hf : ∀ b, R b → After E Q (f b)) : After E Q (x >>= f) := after_bind.mpr (h.mono hf)
@[simp] theorem after_ite {c : Prop} [Decidable c] {x y : Except ε α} :
    After E Q (if c then x else y) ↔ (c → After E Q x) ∧ (¬c → After E Q y) := by
  by_cases h : c <;> simp [h]
end

/-- Folding steps that leave the memory leaves it. -/
theorem foldl_mem {α : Type} (f : State → α → State) (h : ∀ s x, (f s x).mem = s.mem) (xs : List α) :
    ∀ s : State, (xs.foldl f s).mem = s.mem := by
  induction xs with
  | nil => exact fun _ => rfl
  | cons x xs ih => exact fun s => (ih (f s x)).trans (h s x)

/-- What an optional state or its default has of the memory. -/
theorem getD_mem {o : Option State} {m : Memory} {u : State} (h : ∀ t, o = some t → t.mem = m) (hu : u.mem = m) :
    (o.getD u).mem = m := by
  cases o with
  | none => exact hu
  | some t => exact h t rfl

end Sys2Proof.Machine
end

section
/-! SUPPORT. The operations that leave the module's memory, in the order of the model: the frame that the rules of the
instructions and of the writers read by simp. -/

namespace Sys2Proof.Machine

open Sys2Proof

/-! ### Operations of Machine/Ops -/

@[simp] theorem State.modCell_mem (s : State) (k : Nat) (f : Cell → Cell) : (s.modCell k f).mem = s.mem := rfl

@[simp] theorem State.softError_mem (s : State) (k kind : Nat) (majority : Bool) :
    (s.softError k kind majority).mem = s.mem := by
  unfold State.softError
  split <;> simp

@[simp] theorem State.traceLeave_mem (s : State) (b : Nat) (release : Bool) (l : Leave) :
    (s.traceLeave b release l).mem = s.mem := by
  unfold State.traceLeave
  split <;> simp

@[simp] theorem State.askLeave_mem (s : State) (b : Nat) (l : Leave) : (s.askLeave b l).mem = s.mem := rfl

@[simp] theorem State.giveLeave_mem (s : State) (b : Nat) (by_ : LeaveBy) : (s.giveLeave b by_).mem = s.mem := by
  simp only [State.giveLeave]
  (repeat' split) <;> simp

@[simp] theorem State.treatStray_mem (s : State) (k i : Nat) : (s.treatStray k i).mem = s.mem := by
  simp only [State.treatStray]
  (repeat' split) <;> simp

@[simp] theorem State.treatPort_mem (k i n : Nat) : ∀ s : State, (s.treatPort k i n).mem = s.mem := by
  induction n with
  | zero => exact fun _ => rfl
  | succ n ih => exact fun s => (ih _).trans (s.treatStray_mem k i)

@[simp] theorem State.treatStrays_mem (s : State) (k : Nat) : (s.treatStrays k).mem = s.mem :=
  foldl_mem _ (fun _ _ => by simp) _ _

@[simp] theorem State.boundary_mem (s : State) (k : Nat) : (s.boundary k).mem = s.mem := by
  simp only [State.boundary]
  (repeat' split) <;> simp

@[simp] theorem State.endTask_mem (s : State) (k : Nat) (c : Cell) : (s.endTask k c).mem = s.mem := by
  unfold State.endTask
  dsimp only
  split <;> simp

/-! ### Operations of Machine/Packets -/

@[simp] theorem State.setLinkPort_mem (s : State) (p : Nat) (x : LinkPort) : (s.setLinkPort p x).mem = s.mem := rfl
@[simp] theorem State.setPlane_mem (s : State) (q : Nat) (x : Plane) : (s.setPlane q x).mem = s.mem := rfl

@[simp] theorem State.setOutStream_mem (s : State) (m : Nat) (vc : BitVec 2) (x : OutStream) :
    (s.setOutStream m vc x).mem = s.mem := rfl

@[simp] theorem State.setInStream_mem (s : State) (m : Nat) (vc : BitVec 2) (x : InStream) :
    (s.setInStream m vc x).mem = s.mem := rfl

@[simp] theorem State.sendFlit_mem (s : State) (p : Nat) (ctl : Word) (rest : List Word) :
    (s.sendFlit p ctl rest).mem = s.mem := rfl

@[simp] theorem State.packetFlit_mem (s : State) (p : Nat) (vc : BitVec 2) (ft : Nat) (head : List Word) :
    (s.packetFlit p vc ft head).mem = s.mem := rfl

@[simp] theorem State.sendFlits_mem (s : State) (p : Nat) (vc : BitVec 2) (n : Nat) (head : Word) :
    (s.sendFlits p vc n head).mem = s.mem := by
  unfold State.sendFlits
  split
  · rfl
  · exact (State.packetFlit_mem ..).trans (foldl_mem _ (fun s _ => s.packetFlit_mem ..) _ _)

@[simp] theorem State.inject_mem (s : State) (m : Nat) (vc : BitVec 2) (q : Nat) (op : PacketOp) :
    (s.inject m vc q op).mem = s.mem := by
  simp [State.inject]

@[simp] theorem State.drain_mem (m : Nat) (vc : BitVec 2) (n : Nat) : ∀ s : State, (s.drain m vc n).mem = s.mem := by
  induction n with
  | zero => exact fun _ => rfl
  | succ n ih =>
    intro s
    unfold State.drain
    dsimp only
    split
    · split
      · rfl
      · simp [ih]
    · rfl

@[simp] theorem State.sendPacket_mem (s : State) (m : Nat) (vc : BitVec 2) (op : PacketOp) :
    (s.sendPacket m vc op).mem = s.mem := by
  simp [State.sendPacket]

@[simp] theorem State.drainAll_mem (s : State) : s.drainAll.mem = s.mem := foldl_mem _ (fun _ _ => by simp) _ _

/-! ### Operations of Machine/Issue -/

@[simp] theorem State.watchTrace_mem (s : State) (k : Nat) (c : Cell) (w : Watched) : (s.watchTrace k c w).mem = s.mem := by
  unfold State.watchTrace
  (repeat' split) <;> simp

@[simp] theorem State.sleep_mem (s : State) (k : Nat) (c : Cell) (why : Stall) (on : WaitCond) :
    (s.sleep k c why on).mem = s.mem := rfl

/-! ### Operations of Machine/Local -/

@[simp] theorem localTrace_mem (f : FmtM) (store : Bool) (s : State) (c : Cell) : (localTrace f store s c).mem = s.mem := by
  unfold localTrace
  split <;> simp

/-! ### Operations of Machine/System -/

/-- An asynchronous result that is written leaves the memory. -/
theorem State.asyncWrite_mem {s t : State} {k : Nat} {d : BitVec 6} {v : Val} {w : Tok} (h : s.asyncWrite k d v w = some t) :
    t.mem = s.mem := by
  unfold State.asyncWrite at h
  dsimp only at h
  split at h
  · cases h; rfl
  · split at h <;> cases h <;> simp

@[simp] theorem State.asyncWrite_getD_mem (s u : State) (k : Nat) (d : BitVec 6) (v : Val) (w : Tok) (hu : u.mem = s.mem) :
    ((s.asyncWrite k d v w).getD u).mem = s.mem := getD_mem (fun _ => State.asyncWrite_mem) hu

@[simp] theorem State.asyncFail_mem (s : State) (k : Nat) (d : BitVec 6) (t : Tok) (cause : BitVec 8) (tval : Word) :
    (s.asyncFail k d t cause tval).mem = s.mem := by
  simp [State.asyncFail]

@[simp] theorem State.fetchBound_mem (s : State) (k : Nat) : (s.fetchBound k).mem = s.mem := by simp [State.fetchBound]

/-! ### Operations of Machine/QueueEvents -/

@[simp] theorem State.modWindow_mem (s : State) (src : Src) (g : List WinEnt → List WinEnt) :
    (s.modWindow src g).mem = s.mem := by
  unfold State.modWindow
  split <;> rfl

@[simp] theorem State.markArrived_mem (s : State) (src : Src) (ws : List QWord) : (s.markArrived src ws).mem = s.mem := by
  unfold State.markArrived
  split <;> simp

@[simp] theorem State.checkFlush_mem (s : State) (y0 : Src) : (s.checkFlush y0).mem = s.mem := by
  unfold State.checkFlush
  split <;> rfl

@[simp] theorem State.markStored_mem (s : State) (src : Src) (ws : List QWord) : (s.markStored src ws).mem = s.mem := by
  simp [State.markStored]

@[simp] theorem State.ackWords_mem (s : State) (k : Nat) (src : Src) (ws : List QWord) (nack : Bool) :
    (s.ackWords k src ws nack).mem = s.mem := by
  unfold State.ackWords
  split <;> simp

/-- A message that is accepted leaves the memory. -/
theorem State.accept_mem {s t : State} {k i : Nat} {m : Msg} (h : s.accept k i m = some t) : t.mem = s.mem := by
  unfold State.accept at h
  dsimp only at h
  (repeat' split at h) <;> cases h <;> simp

@[simp] theorem State.accept_getD_mem (s u : State) (k i : Nat) (m : Msg) (hu : u.mem = s.mem) :
    ((s.accept k i m).getD u).mem = s.mem := getD_mem (fun _ => State.accept_mem) hu

@[simp] theorem State.arrive_mem (s : State) (k i : Nat) (m : Msg) : (s.arrive k i m).mem = s.mem := by
  unfold State.arrive
  dsimp only
  split
  · rename_i t h
    split at h
    · exact State.accept_mem h
    · cases h
  · rfl

@[simp] theorem State.disabled_mem (s : State) (k i : Nat) (src : Src) (ws : List QWord) :
    (s.disabled k i src ws).mem = s.mem := by
  simp [State.disabled]

@[simp] theorem State.overflow_mem (s : State) (row d : Nat) : (s.overflow row d).mem = s.mem := rfl

@[simp] theorem State.absorb_mem (s : State) (src : Src) (k i : Nat) (w : QWord) : (s.absorb src k i w).mem = s.mem := by
  unfold State.absorb
  dsimp only
  split <;> simp

@[simp] theorem State.applyAck_mem (s : State) (a : Ack) : (s.applyAck a).mem = s.mem := by
  unfold State.applyAck
  (repeat' split) <;> simp

@[simp] theorem State.circuitAck_mem (s : State) (p c : Nat) (nack : Bool) : (s.circuitAck p c nack).mem = s.mem := by
  unfold State.circuitAck
  dsimp only
  split <;> simp

@[simp] theorem State.takeAck_mem (s : State) (cell : Nat) (nack : Bool) : (s.takeAck cell nack).mem = s.mem := by
  simp only [State.takeAck]
  (repeat' split) <;> simp

/-! ### Operations of Machine/Translate -/

@[simp] theorem State.queueMiss_mem (s : State) (b : Nat) (who : MissBy) (dom : BitVec 12) (va : Nat) (write : Bool) :
    (s.queueMiss b who dom va write).mem = s.mem := by
  unfold State.queueMiss
  dsimp only
  split <;> rfl

@[simp] theorem State.askPager_mem (s : State) (b : Nat) (dom : BitVec 12) (va : Nat) (write : Bool) :
    (s.askPager b dom va write).mem = s.mem := by
  simp [State.askPager]

@[simp] theorem State.dropRefused_mem (s : State) (b : Nat) (dom : BitVec 12) (va : Nat) :
    (s.dropRefused b dom va).mem = s.mem := rfl

@[simp] theorem State.setRegion_mem (s : State) (r : Nat) (x : Region) : (s.setRegion r x).mem = s.mem := rfl

@[simp] theorem State.tileWatch_mem (s : State) (a n : Nat) (rd wr : Bool) (src : Nat) (dom : BitVec 12) :
    (s.tileWatch a n rd wr src dom).mem = s.mem := by
  simp only [State.tileWatch]
  (repeat' split) <;> simp

/-- A read that joins a table leaves the memory. -/
theorem State.defer_mem {s t : State} {a n : Nat} {d : Deferred} (h : s.defer a d n = some t) : t.mem = s.mem := by
  unfold State.defer at h
  dsimp only at h
  (repeat' split at h) <;> cases h <;> rfl

@[simp] theorem State.setAccess_mem (s : State) (cell seq : Nat) (st : AccStatus) : (s.setAccess cell seq st).mem = s.mem := rfl

@[simp] theorem State.farReply_mem (s : State) (m : Nat) (who : Asker) (cause : BitVec 8) (v : Val) (flags : BitVec 5) :
    (s.farReply m who cause v flags).mem = s.mem := by
  simp [State.farReply]

@[simp] theorem State.setXgroup_mem (s : State) (g : Nat) (x : XGroup) : (s.setXgroup g x).mem = s.mem := rfl

@[simp] theorem State.modCopy_mem (s : State) (b cell seq : Nat) (f : CopyCmd → CopyCmd) :
    (s.modCopy b cell seq f).mem = s.mem := rfl

@[simp] theorem State.setWord_mem (s : State) (who : Asker) (st : WordSt) : (s.setWord who st).mem = s.mem := by
  unfold State.setWord
  (repeat' split) <;> rfl

@[simp] theorem State.dropWord_mem (s : State) (k g w : Nat) : (s.dropWord k g w).mem = s.mem := rfl

@[simp] theorem State.serveDeferred_mem (s : State) (a : Nat) : (s.serveDeferred a).mem = s.mem := by
  refine (foldl_mem _ (fun s x => ?_) _ _).trans rfl
  (repeat' split) <;> simp

@[simp] theorem State.forceOut_mem (s : State) (b pa : Nat) : (s.forceOut b pa).mem = s.mem := rfl

@[simp] theorem State.fetch_mem (s : State) (b : Nat) (dom : BitVec 12) (va n : Nat) (who : Asker) (w : Option WordSt) :
    (s.fetch b dom va n who w).1.mem = s.mem := by
  unfold State.fetch
  dsimp only
  (repeat' split) <;> simp
  exact State.defer_mem ‹_›

@[simp] theorem State.engineReply_mem (s : State) (who : Asker) (cause : BitVec 8) (v : Val) :
    (s.engineReply who cause v).mem = s.mem := by
  unfold State.engineReply
  split <;> simp

/-! ### Operations of Machine/Global -/

@[simp] theorem State.globalTrace_mem (s : State) (c : Cell) (w : Option Watched) : (s.globalTrace c w).mem = s.mem := by
  unfold State.globalTrace
  split <;> simp

/-! ### Operations of Machine/Sem -/

@[simp] theorem semTrace_mem (s : State) (c : Cell) (f : FmtX) (t : Nat) : (semTrace s c f t).mem = s.mem := by
  unfold semTrace
  split <;> simp

/-! ### Operations of Machine/Copy -/

@[simp] theorem State.copyTrace_mem (s : State) (k : Nat) (slot : BitVec 3) (sem total : Nat) :
    (s.copyTrace k slot sem total).mem = s.mem := by
  simp [State.copyTrace]

@[simp] theorem State.copyEndTrace_mem (s : State) (k code bytes : Nat) : (s.copyEndTrace k code bytes).mem = s.mem := by
  simp [State.copyEndTrace]

@[simp] theorem State.checkUpTo_mem (b cell seq w n : Nat) : ∀ s : State, (s.checkUpTo b cell seq w n).mem = s.mem := by
  induction n with
  | zero => exact fun _ => rfl
  | succ n ih =>
    intro s
    unfold State.checkUpTo
    (repeat' split) <;> simp [ih]

@[simp] theorem State.readCopyWord_mem (s : State) (b w : Nat) (m : CopyCmd) : (s.readCopyWord b w m).mem = s.mem := by
  unfold State.readCopyWord
  dsimp only
  (repeat' split) <;> simp

@[simp] theorem State.copySem_mem (s : State) (m : CopyCmd) (n : Nat) : (s.copySem m n).mem = s.mem := by
  unfold State.copySem
  split <;> rfl

@[simp] theorem State.endCopy_mem (s : State) (b : Nat) (m : CopyCmd) : (s.endCopy b m).mem = s.mem := by
  unfold State.endCopy
  (repeat' split) <;> simp

/-! ### Operations of Machine/Eag -/

@[simp] theorem State.eagEnd_mem (s : State) (e : Nat) (r : EagRun) (done : Bool) (fault : Option (BitVec 8 × Word)) :
    (s.eagEnd e r done fault).mem = s.mem := by
  unfold State.eagEnd
  split <;> simp

@[simp] theorem State.fetchElement_mem (s : State) (e n : Nat) : (s.fetchElement e n).mem = s.mem := by
  refine foldl_mem _ (fun s x => ?_) _ _
  dsimp only
  (repeat' split) <;> simp

@[simp] theorem eagBlockWrite_mem (g : Eag) (n : Nat) (vs : List Val) (s : State) (j : Nat) :
    (eagBlockWrite g n vs s j).mem = s.mem := rfl

@[simp] theorem State.eagCommit_mem (s : State) (e : Nat) (r : EagRun) : (s.eagCommit e r).mem = s.mem := by
  simp only [State.eagCommit]
  (repeat' split) <;> simp

@[simp] theorem State.eagTake_mem (s : State) (e : Nat) (r : EagRun) (vs : List Val) : (s.eagTake e r vs).mem = s.mem := by
  unfold State.eagTake
  dsimp only
  split
  · split
    · rfl
    · exact (State.eagCommit_mem ..).trans (foldl_mem _ (eagBlockWrite_mem _ _ _) _ _)
  · split <;> simp

@[simp] theorem State.eagFetch_mem (s : State) (e ahead : Nat) : (s.eagFetch e ahead).mem = s.mem := by
  unfold State.eagFetch
  dsimp only
  split <;> simp

/-! ### Operations of Machine/EventUnit -/

@[simp] theorem State.evFire_mem (s : State) (st n : Nat) : (s.evFire st n).mem = s.mem := by
  unfold State.evFire
  dsimp only
  split
  · refine (foldl_mem _ (fun _ _ => ?_) _ _).trans ?_
    · rfl
    · simp
  · simp

@[simp] theorem State.evRelease_mem (s : State) (st : Nat) (v : BitVec 32) (p : Bool) (w : EvWaiter) :
    (s.evRelease st v p w).mem = s.mem := by
  unfold State.evRelease
  dsimp only
  split
  · rfl
  · exact State.asyncWrite_getD_mem _ _ _ _ _ _ rfl

@[simp] theorem State.evComplete_mem (s : State) (st n : Nat) (r : BitVec 32 × Bool) : (s.evComplete st n r).mem = s.mem := by
  have released (s : State) (ws : List EvWaiter) : (ws.foldl (fun s w => s.evRelease st r.1 r.2 w) s).mem = s.mem :=
    foldl_mem _ (fun s w => s.evRelease_mem st r.1 r.2 w) _ _
  unfold State.evComplete
  dsimp only
  split
  · refine (foldl_mem _ (fun _ _ => ?_) _ _).trans ?_
    · rfl
    · simp [released]
  · simp [released]

@[simp] theorem State.evBar_mem (s : State) (st n : Nat) : (s.evBar st n).mem = s.mem := by
  simp only [State.evBar]
  (repeat' split) <;> simp

@[simp] theorem State.evAnd_mem (s : State) (st n : Nat) : (s.evAnd st n).mem = s.mem := by
  unfold State.evAnd
  dsimp only
  split <;> simp

@[simp] theorem State.evGrant_mem (s : State) (st m : Nat) : (s.evGrant st m).mem = s.mem := by
  unfold State.evGrant
  dsimp only
  split
  · refine (foldl_mem _ (fun _ _ => ?_) _ _).trans rfl
    rfl
  · rfl

@[simp] theorem State.evSettle_mem (s : State) (st : Nat) : (s.evSettle st).mem = s.mem :=
  calc (s.evSettle st).mem
    _ = _ := foldl_mem _ (fun s n => s.evGrant_mem st n) _ _
    _ = _ := foldl_mem _ (fun s n => s.evAnd_mem st n) _ _
    _ = s.mem := foldl_mem _ (fun s n => s.evBar_mem st n) _ _

@[simp] theorem State.evChange_mem (s : State) (st : Nat) (x : EvItem) : (s.evChange st x).mem = s.mem := by
  simp only [State.evChange]
  (repeat' split) <;> simp

@[simp] theorem State.evDue_mem (s : State) (st : Nat) : (s.evDue st).mem = s.mem := by
  refine foldl_mem _ (fun s x => ?_) _ _
  dsimp only
  split
  · rename_i s' h
    exact State.asyncWrite_mem (t := s') h
  · rfl

/-! ### Operations of Machine/VecRun -/

@[simp] theorem State.setDeficit_mem (s : State) (q l x d : Nat) : (s.setDeficit q l x d).mem = s.mem := rfl

@[simp] theorem State.arbitrate_mem (s : State) (q x : Nat) : (s.arbitrate q x).1.mem = s.mem := by
  unfold State.arbitrate
  dsimp only
  (repeat' split) <;> simp

@[simp] theorem State.takeSlot_mem (s : State) (q x : Nat) (rf : Option Refire) : (s.takeSlot q x rf).mem = s.mem := by
  unfold State.takeSlot
  dsimp only
  (repeat' split) <;> simp

@[simp] theorem State.vecFault_mem (s : State) (k : Nat) (x : VFail) : (s.vecFault k x).mem = s.mem := by
  unfold State.vecFault
  dsimp only
  split <;> rfl

@[simp] theorem State.refires_mem (s : State) (k kind : Nat) (rf : List Refire) : (s.refires k kind rf).mem = s.mem :=
  foldl_mem _ (fun _ _ => by simp) _ _

@[simp] theorem State.vecRetire_mem (s : State) (k n : Nat) (e : VEntry) (c : Cell) (fl : Flags) :
    (s.vecRetire k n e c fl).mem = s.mem := rfl

/-! ### Operations of Machine/Matrix -/

@[simp] theorem State.setStripMat_mem (s : State) (st : Nat) (m : StripMat) : (s.setStripMat st m).mem = s.mem := rfl
@[simp] theorem State.traceJoin_mem (s : State) (j acc : Nat) : (s.traceJoin j acc).mem = s.mem := by simp [State.traceJoin]

/-! ### Operations of Machine/Array -/

@[simp] theorem State.fireGroup_mem (s : State) (st j : Nat) : (s.fireGroup st j).mem = s.mem := by
  refine foldl_mem _ (fun s i => ?_) _ _
  dsimp only
  split <;> rfl

@[simp] theorem State.gangFault_mem (s : State) (st j tval : Nat) : (s.gangFault st j tval).mem = s.mem := by
  refine foldl_mem _ (fun s i => ?_) _ _
  dsimp only
  split <;> simp

@[simp] theorem State.settleRel_mem (s : State) (st : Nat) : (s.settleRel st).mem = s.mem := by
  unfold State.settleRel
  dsimp only
  split
  · rfl
  · exact foldl_mem _ (fun _ _ => by simp) _ _

@[simp] theorem State.grantGroup_mem (s : State) (st j : Nat) : (s.grantGroup st j).mem = s.mem := by
  simp only [State.grantGroup]
  (repeat' split) <;> simp

@[simp] theorem State.gangWrite_mem (s : State) (st acc i : Nat) (outs : List GangOut) (bits : BitVec 8) :
    (s.gangWrite st acc i outs bits).mem = s.mem := rfl

@[simp] theorem State.accCheck_mem (s : State) (k n : Nat) (touched : Nat → Bool) : (s.accCheck k n touched).mem = s.mem :=
  foldl_mem _ (fun _ _ => by simp) _ _

@[simp] theorem State.accUpset_mem (s : State) (k n e : Nat) (data : BitVec 32) : (s.accUpset k n e data).mem = s.mem := by
  unfold State.accUpset
  split <;> rfl

@[simp] theorem State.gangResult_mem (s : State) (st : Nat) (g : Group) (rf : List Refire) :
    (s.gangResult st g rf).mem = s.mem := by
  unfold State.gangResult
  dsimp only
  split
  · rfl
  · split
    · rfl
    · exact foldl_mem _ (fun s _ => s.gangWrite_mem ..) _ _

/-! ### Operations of Machine/Pred -/

@[simp] theorem State.formBurst_mem (s : State) (k seq : Nat) : (s.formBurst k seq).mem = s.mem := by
  simp only [State.formBurst]
  (repeat' split) <;> simp

@[simp] theorem State.laneLeaves_mem (s : State) (k seq l : Nat) (st : Stage) (rf : List Refire) :
    (s.laneLeaves k seq l st rf).mem = s.mem := by
  unfold State.laneLeaves
  split <;> rfl

/-! ### Operations of Machine/Exchange -/

@[simp] theorem State.closeRound_mem (s : State) (gn : Nat) : (s.closeRound gn).mem = s.mem := rfl

/-- A post that an arbiter takes leaves the memory. -/
theorem State.takePost_mem {s : State} {gn part : Nat} {p : Post} {r : State × BitVec 16} (h : s.takePost gn part p = some r) :
    r.1.mem = s.mem := by
  unfold State.takePost at h
  dsimp only at h
  (repeat' split at h) <;> cases h <;> rfl

@[simp] theorem State.modRound_mem (s : State) (gn : Nat) (no : BitVec 16) (f : XRound → XRound) :
    (s.modRound gn no f).mem = s.mem := rfl

@[simp] theorem State.sendX_mem (s : State) (m : Nat) (x : XMsg) : (s.sendX m x).mem = s.mem := by simp [State.sendX]

@[simp] theorem State.xcause_mem (s : State) (gn k : Nat) (va : Nat) (cause : BitVec 8) :
    (s.xcause gn k va cause).mem = s.mem := rfl

@[simp] theorem State.carry_mem (s : State) (gn : Nat) (r : XRound) (sp : Nat × Nat) (x : XItem) :
    (s.carry gn r sp x).mem = s.mem := by
  unfold State.carry
  dsimp only
  split <;> simp

@[simp] theorem State.sendEnd_mem (s : State) (gn : Nat) (r : XRound) (sp : Nat × Nat) (x : XItem) :
    (s.sendEnd gn r sp x).mem = s.mem := by
  simp [State.sendEnd]

@[simp] theorem State.sendPiece_mem (s : State) (gn : Nat) (no : BitVec 16) (sp : Nat × Nat) (k : Nat) :
    (s.sendPiece gn no sp k).mem = s.mem := by
  unfold State.sendPiece
  dsimp only
  (repeat' split) <;> simp

@[simp] theorem State.addSem_mem (s : State) (gn : Nat) (no : BitVec 16) (p k : Nat) : (s.addSem gn no p k).mem = s.mem := by
  simp only [State.addSem]
  (repeat' split) <;> simp

@[simp] theorem State.pairEnded_mem (s : State) (gn : Nat) (no : BitVec 16) (sp : Nat × Nat) (short : Bool) :
    (s.pairEnded gn no sp short).mem = s.mem := rfl

@[simp] theorem State.leaveRound_mem (s : State) (gn : Nat) (no : BitVec 16) (p : Nat) : (s.leaveRound gn no p).mem = s.mem :=
  rfl

@[simp] theorem State.takeX_mem (s : State) (m : Nat) (x : XMsg) : (s.takeX m x).mem = s.mem := by
  unfold State.takeX
  dsimp only
  (repeat' split) <;> simp
  exact State.takePost_mem ‹_›

/-! ### Operations of Machine/Contain -/

@[simp] theorem State.setDom_mem (s : State) (d : BitVec 12) (st : Nat) : (s.setDom d st).mem = s.mem := by simp [State.setDom]
@[simp] theorem State.dropAsks_mem (s : State) (p : Asker → Bool) : (s.dropAsks p).mem = s.mem := rfl
@[simp] theorem State.dropService_mem (s : State) (p : CallId → Bool) : (s.dropService p).mem = s.mem := rfl

@[simp] theorem State.release_mem (s : State) (k : Nat) : (s.release k).mem = s.mem := by
  simp only [State.release]
  (repeat' split) <;> simp

@[simp] theorem State.releaseStrip_mem (s : State) (st : Nat) : (s.releaseStrip st).mem = s.mem :=
  (State.giveLeave_mem ..).trans (foldl_mem _ (fun _ _ => State.giveLeave_mem ..) _ _)

@[simp] theorem State.releaseCells_mem (s : State) (ks : List Nat) : (s.releaseCells ks).mem = s.mem := by
  refine (foldl_mem _ (fun s st => ?_) _ _).trans (foldl_mem _ State.release_mem _ _)
  split <;> simp

@[simp] theorem State.rewind_mem (s : State) (k i : Nat) (src : Src) (from_ stop : BitVec 32) :
    (s.rewind k i src from_ stop).mem = s.mem := by
  simp [State.rewind]

@[simp] theorem State.cancelDeferred_mem (s : State) (k : Nat) : (s.cancelDeferred k).mem = s.mem := rfl
@[simp] theorem State.dropDeferred_mem (s : State) (k : Nat) : (s.dropDeferred k).mem = s.mem := rfl

@[simp] theorem State.discardWords_mem (s : State) (d : BitVec 12) : (s.discardWords d).mem = s.mem :=
  foldl_mem _ (fun _ _ => by simp) _ _

@[simp] theorem State.cancelEngines_mem (s : State) (d : BitVec 12) : (s.cancelEngines d).mem = s.mem := by
  refine (foldl_mem _ (fun s x => ?_) _ _).trans
    ((foldl_mem _ (fun s x => ?_) _ _).trans ((foldl_mem _ (fun s x => ?_) _ _).trans rfl))
  · split <;> rfl
  · split <;> rfl
  · dsimp only
    split <;> simp

@[simp] theorem State.terminate_mem (s : State) (d : BitVec 12) : (s.terminate d).mem = s.mem := by simp [State.terminate]

@[simp] theorem State.saveCopies_mem (s : State) (k : Nat) : (s.saveCopies k).mem = s.mem := by
  simp only [State.saveCopies]
  (repeat' split) <;> simp

@[simp] theorem State.parkNow_mem (s : State) (k : Nat) (why : PCause) : (s.parkNow k why).mem = s.mem := by
  unfold State.parkNow
  split <;> simp

@[simp] theorem State.reissue_mem (s : State) (k : Nat) : (s.reissue k).mem = s.mem := by
  unfold State.reissue
  dsimp only
  split
  · refine (foldl_mem _ (fun s x => ?_) _ _).trans rfl
    split <;> simp
  · refine (State.setBlock_mem ..).trans ((foldl_mem _ (fun s x => ?_) _ _).trans rfl)
    split <;> simp

@[simp] theorem State.resumeCell_mem (s : State) (k : Nat) (rpl : Bool) : (s.resumeCell k rpl).mem = s.mem := by
  unfold State.resumeCell
  dsimp only
  split <;> simp

@[simp] theorem State.askPark_mem (s : State) (k : Nat) : (s.askPark k).mem = s.mem := by
  unfold State.askPark
  dsimp only
  split <;> simp

@[simp] theorem State.abort_mem (s : State) (k : Nat) : (s.abort k).mem = s.mem := by
  simp only [State.abort]
  (repeat' split) <;> simp

@[simp] theorem State.onSink_mem (s : State) (k : Nat) : (s.onSink k).mem = s.mem := by
  unfold State.onSink
  dsimp only
  split
  · simp
  · split
    · rfl
    · exact (foldl_mem _ (fun _ _ => by simp) _ _).trans (by simp)

@[simp] theorem State.reattachOne_mem (s : State) (k i n : Nat) : (s.reattachOne k i n).mem = s.mem := by
  unfold State.reattachOne
  dsimp only
  split <;> simp

/-- Reattaching consumers leaves the memory. -/
theorem State.writeOra_mem {s t : State} {cell port : Nat} {mask : BitVec 8} (h : s.writeOra cell port mask = some t) :
    t.mem = s.mem := by
  unfold State.writeOra at h
  dsimp only at h
  split at h <;> cases h
  exact foldl_mem _ (fun _ _ => by simp) _ _

@[simp] theorem State.refuseCellWrite_mem (s : State) (row k off : Nat) : (s.refuseCellWrite row k off).mem = s.mem := by
  simp [State.refuseCellWrite]

/-! ### Operations of Machine/Fetch -/

@[simp] theorem State.passClk_mem (s : State) (n : Nat) : (s.passClk n).mem = s.mem := by
  unfold State.passClk
  (repeat' split) <;> rfl

@[simp] theorem State.idleTurn_mem (s : State) : s.idleTurn.mem = s.mem := by simp [State.idleTurn]
@[simp] theorem State.takeTurn_mem (s : State) (rest : List Turn) : (s.takeTurn rest).mem = s.mem := rfl

/-! ### Operations of Machine/Hart -/

@[simp] theorem State.setHart_mem (s : State) (y : Nat) (h : Hart) : (s.setHart y h).mem = s.mem := rfl

@[simp] theorem State.setTimer_mem (s : State) (y o : Nat) (v : Word) : (s.setTimer y o v).mem = s.mem := by
  unfold State.setTimer
  split <;> rfl

/-- A write to a core's own memory and timers leaves the module's memory. -/
theorem State.setOwnWord_mem {s t : State} {y a : Nat} {v : Word} (h : s.setOwnWord y a v = some t) : t.mem = s.mem := by
  unfold State.setOwnWord at h
  dsimp only at h
  split at h
  · obtain rfl := Option.some.inj h
    rfl
  · split at h
    · obtain rfl := Option.some.inj h
      exact State.setTimer_mem ..
    · cases h

@[simp] theorem State.hartTrap_mem (s : State) (y cause : Nat) (tval : Word) : (s.hartTrap y cause tval).mem = s.mem := rfl

/-! ### Operations of Machine/Calls -/

@[simp] theorem State.setHost_mem (s : State) (p : Nat) (x : HostPort) : (s.setHost p x).mem = s.mem := rfl
@[simp] theorem State.modSvc_mem (s : State) (f : Services → Services) : (s.modSvc f).mem = s.mem := rfl

@[simp] theorem State.reply_mem (s : State) (x : Request) (status : Nat) (value : Word) :
    (s.reply x status value).mem = s.mem := by
  unfold State.reply
  dsimp only
  split <;> rfl

/-! ### Operations of Machine/Tiles -/

@[simp] theorem State.finish_mem (s : State) (k : Nat) (x : Access) (rd wr : Bool) (st : AccStatus) :
    (s.finish k x rd wr st).mem = s.mem := by
  simp [State.finish]

@[simp] theorem State.sendAway_mem (s : State) (k nacks : Nat) (x : Access) : (s.sendAway k nacks x).mem = s.mem := by
  simp [State.sendAway]

@[simp] theorem State.combine_mem (s : State) (k : Nat) (x : Access) : (s.combine k x).mem = s.mem := by
  simp only [State.combine]
  (repeat' split) <;> simp

@[simp] theorem State.dropEntry_mem (s : State) (b line : Nat) : (s.dropEntry b line).mem = s.mem := rfl

@[simp] theorem State.entryReply_mem (s : State) (b line : Nat) (cause : BitVec 8) :
    (s.entryReply b line cause).mem = s.mem := by
  unfold State.entryReply
  dsimp only
  split
  · rfl
  · split
    · rfl
    · exact foldl_mem _ (fun _ _ => by simp) _ _

@[simp] theorem State.rebuildLocal_mem (s : State) (k : Nat) (us : SMap Upset) (w : Nat) (u : Upset) :
    (s.rebuildLocal k us w u).mem = s.mem := by
  unfold State.rebuildLocal
  split <;> simp

@[simp] theorem State.spoil_mem (s : State) (w : Nat) (u : Upset) : (s.spoil w u).mem = s.mem := by
  simp only [State.spoil]
  (repeat' split) <;> simp

@[simp] theorem State.upsetLocal_mem (s : State) (k w : Nat) (u : Upset) : (s.upsetLocal k w u).mem = s.mem := by
  unfold State.upsetLocal
  split <;> rfl

@[simp] theorem State.fillBlock_mem (s : State) (b : Nat) (dom : BitVec 12) (p : Page) : (s.fillBlock b dom p).mem = s.mem :=
  rfl

@[simp] theorem State.retranslate_mem (s : State) (a b n : Nat) : (s.retranslate a b n).mem = s.mem := by
  refine (foldl_mem _ (fun s x => ?_) _ _).trans rfl
  split <;> simp

@[simp] theorem State.hostData_mem (s : State) (p addr : Nat) (d : BitVec 512) (poisoned : Bool) :
    (s.hostData p addr d poisoned).mem = s.mem := rfl

@[simp] theorem State.flushRegion_mem (s : State) (r : Nat) : (s.flushRegion r).mem = s.mem := rfl

/-! ### Operations of Machine/Phase -/

@[simp] theorem State.grantBorrow_mem (s : State) (root m : Nat) (v : Word) : (s.grantBorrow root m v).mem = s.mem := by
  unfold State.grantBorrow
  dsimp only
  split <;> simp

@[simp] theorem State.endPhase_mem (s : State) (root : Nat) : (s.endPhase root).mem = s.mem := rfl

@[simp] theorem State.phaseError_mem (s : State) (root : Nat) (v : Word) : (s.phaseError root v).mem = s.mem := by
  simp [State.phaseError]

@[simp] theorem State.strayCtl_mem (s : State) (root : Nat) (v : Word) : (s.strayCtl root v).mem = s.mem := by
  simp [State.strayCtl]

@[simp] theorem State.phaseWord_mem (s : State) (root m : Nat) (w : QWord) : (s.phaseWord root m w).mem = s.mem := by
  simp only [State.phaseWord]
  (repeat' split) <;> simp

/-! ### Operations of Machine/Links -/

@[simp] theorem State.linkRecord_mem (s : State) (p : Nat) (lanes : BitVec 8) : (s.linkRecord p lanes).mem = s.mem := by
  simp [State.linkRecord]

@[simp] theorem State.portDown_mem (s : State) (p : Nat) : (s.portDown p).mem = s.mem := by simp [State.portDown]

@[simp] theorem State.packetDone_mem (s : State) (m : Nat) (vc : BitVec 2) (eseq : BitVec 32) :
    (s.packetDone m vc eseq).mem = s.mem := by
  simp [State.packetDone]

@[simp] theorem State.takeReply_mem (s : State) (who : Asker) (cause : BitVec 8) (v : Val) (fl : BitVec 5) :
    (s.takeReply who cause v fl).mem = s.mem := by
  unfold State.takeReply
  (repeat' split) <;> simp

@[simp] theorem State.takeNack_mem (s : State) (who : Asker) (moved : Bool) : (s.takeNack who moved).mem = s.mem := by
  unfold State.takeNack
  (repeat' split) <;> simp

@[simp] theorem State.packetLost_mem (s : State) (op : PacketOp) : (s.packetLost op).mem = s.mem := by
  unfold State.packetLost
  split
  case h_7 => exact foldl_mem _ (fun _ _ => by simp) _ _
  all_goals simp

@[simp] theorem State.discardPacket_mem (s : State) (port : Nat) (vc : BitVec 2) (head : Word) :
    (s.discardPacket port vc head).mem = s.mem := by
  simp [State.discardPacket]

@[simp] theorem State.holdPacket_mem (s : State) (vc : BitVec 2) (head : Word) : (s.holdPacket vc head).mem = s.mem := by
  unfold State.holdPacket
  dsimp only
  split <;> rfl

@[simp] theorem State.forwardFlit_mem (s : State) (r : RxPacket) (vc : BitVec 2) (ft : Nat) (stomp : Bool) (rest : List Word) :
    (s.forwardFlit r vc ft stomp rest).mem = s.mem := by
  unfold State.forwardFlit
  split <;> rfl

@[simp] theorem State.setRx_mem (s : State) (port : Nat) (vc : BitVec 2) (r : Option RxPacket) :
    (s.setRx port vc r).mem = s.mem := rfl

@[simp] theorem State.askReplay_mem (s : State) (port : Nat) (fseq : BitVec 12) : (s.askReplay port fseq).mem = s.mem := rfl

@[simp] theorem State.tail_mem (s : State) (port : Nat) (vc : BitVec 2) (r : RxPacket) (ft : Nat) (stomp ok : Bool)
    (rest : List Word) : (s.tail port vc r ft stomp ok rest).mem = s.mem := by
  simp only [State.tail]
  (repeat' split) <;> simp

@[simp] theorem State.head_mem (s : State) (port : Nat) (vc : BitVec 2) (fseq : BitVec 12) (words : List Word) :
    (s.head port vc fseq words).1.mem = s.mem := by
  unfold State.head
  dsimp only
  (repeat' split) <;> simp

@[simp] theorem State.packetWaits_mem (s : State) (y0 : PacketOp) : (s.packetWaits y0).mem = s.mem := by
  simp only [State.packetWaits]
  (repeat' split) <;> simp

@[simp] theorem State.sendMarkers_mem (s : State) (p : Nat) : (s.sendMarkers p).mem = s.mem := by
  unfold State.sendMarkers
  split <;> rfl

@[simp] theorem State.switchPlane_mem (s : State) (q : Nat) (act : Bool) : (s.switchPlane q act).mem = s.mem := by
  unfold State.switchPlane
  dsimp only
  split
  · rfl
  · exact foldl_mem _ (fun _ _ => by simp) _ _

/-- An entry of a routing table leaves the memory. -/
theorem State.writeRoute_mem {s t : State} {q : Nat} {v : BitVec 12} (h : s.writeRoute q v = some t) : t.mem = s.mem := by
  unfold State.writeRoute at h
  dsimp only at h
  split at h <;> cases h
  rfl

@[simp] theorem State.writeRoute_getD_mem (s : State) (q : Nat) (v : BitVec 12) : ((s.writeRoute q v).getD s).mem = s.mem :=
  getD_mem (fun _ => State.writeRoute_mem) rfl

/-! ### Operations of Machine/Supervisor -/

@[simp] theorem State.rewindConsumer_mem (s : State) (k i n : Nat) (from_ : BitVec 32) :
    (s.rewindConsumer k i n from_).mem = s.mem := by
  unfold State.rewindConsumer
  dsimp only
  split <;> rfl

/-! ### Operations of Machine/ConfigStream -/

@[simp] theorem State.setIssuer_mem (s : State) (m : Master) (x : Issuer) : (s.setIssuer m x).mem = s.mem := rfl
@[simp] theorem State.report_mem (s : State) (m : Master) (w : Word) : (s.report m w).mem = s.mem := rfl

@[simp] theorem State.startCell_mem (s : State) (k : Nat) : (s.startCell k).mem = s.mem := by
  simp only [State.startCell]
  (repeat' split) <;> simp

/-! ### Operations of Machine/Pages -/

@[simp] theorem State.writeAcc_mem (s : State) (st i n : Nat) (f : VReg → VReg) (gone : Nat → Bool) :
    (s.writeAcc st i n f gone).mem = s.mem := rfl

@[simp] theorem State.setStripItem_mem (s : State) (st : Nat) (v : Word) (y0 : StripItem) :
    (s.setStripItem st v y0).mem = s.mem := by
  unfold State.setStripItem
  split <;> rfl

@[simp] theorem State.setQuadItem_mem (s : State) (q : Nat) (v : Word) (y0 : QuadItem) :
    (s.setQuadItem q v y0).mem = s.mem := by
  unfold State.setQuadItem
  split <;> rfl

/-! ### Operations of Machine/Window -/

@[simp] theorem State.writeCctl_mem (s : State) (k : Nat) (v : Word) : (s.writeCctl k v).mem = s.mem := by
  unfold State.writeCctl
  (repeat' split) <;> simp

@[simp] theorem State.requestFreeze_mem (s : State) (pin : Bool) (row : Nat) : (s.requestFreeze pin row).mem = s.mem := by
  unfold State.requestFreeze
  dsimp only
  split <;> rfl

@[simp] theorem State.beat_mem (s : State) (y : Nat) (v : Word) : (s.beat y v).mem = s.mem := rfl

@[simp] theorem State.discardWrite_mem (s : State) (row addr : Nat) : (s.discardWrite row addr).mem = s.mem := by
  simp [State.discardWrite]

@[simp] theorem State.nackTile_mem (s : State) (b : Nat) : (s.nackTile b).mem = s.mem := foldl_mem _ (fun _ _ => by simp) _ _

@[simp] theorem State.resetPort_mem (s : State) (p : Nat) : (s.resetPort p).mem = s.mem := by
  unfold State.resetPort
  dsimp only
  split <;> rfl

/-! ### Operations of Machine/HartExec -/

@[simp] theorem State.setCsr_mem (s : State) (y n : Nat) (v : Word) : (s.setCsr y n v).mem = s.mem := by
  unfold State.setCsr
  (repeat' split) <;> rfl

/-! ### Operations of Machine/Agents -/

@[simp] theorem State.arbiterFails_mem (s : State) (gn : Nat) : (s.arbiterFails gn).mem = s.mem := by
  simp only [State.arbiterFails]
  (repeat' split) <;> simp

/-! ### Operations of Machine/Debug -/

@[simp] theorem State.setDbg_mem (s : State) (d : Debug) : (s.setDbg d).mem = s.mem := rfl

@[simp] theorem State.sendNotices_mem (s : State) (frozen : Bool) : (s.sendNotices frozen).mem = s.mem := by
  refine foldl_mem _ (fun s p => ?_) _ _
  dsimp only
  split <;> rfl

@[simp] theorem State.tap_mem (s : State) (code : BitVec 8) : (s.tap code).mem = s.mem := rfl
@[simp] theorem State.scanPins_mem (s : State) (code : BitVec 8) : (s.scanPins code).mem = s.mem := rfl

/-! ### Operations of Machine/Loader -/

@[simp] theorem Plan.bindHost_mem (p : Plan) (s : State) (x : EdgeDesc × Nat) : (Plan.bindHost p s x).mem = s.mem := by
  unfold Plan.bindHost
  split <;> rfl

@[simp] theorem State.runRows_mem (s : State) (d : BitVec 12) (ks : List Nat) : (s.runRows d ks).mem = s.mem :=
  foldl_mem _ (fun _ _ => by simp) _ _

@[simp] theorem Plan.running_mem (p : Plan) (s : State) : (Plan.running p s).mem = s.mem := by simp [Plan.running]

@[simp] theorem Plan.weight_mem (p : Plan) (s : State) : (p.weight s).mem = s.mem := by
  unfold Plan.weight
  dsimp only
  split
  · rfl
  · refine (foldl_mem _ (fun _ _ => ?_) _ _).trans rfl
    rfl

/-! ### Operations of Machine/Graphs -/

@[simp] theorem State.setGraph_mem (s : State) (n : Nat) (g : Graph) : (s.setGraph n g).mem = s.mem := rfl

@[simp] theorem State.queueLoad_mem (s : State) (n : Nat) (g next : Graph) : (s.queueLoad n g next).mem = s.mem := by
  unfold State.queueLoad
  split <;> rfl

@[simp] theorem State.retireGroup_mem (s : State) (g : Graph) (n : Nat) : (s.retireGroup g n).mem = s.mem := by
  unfold State.retireGroup
  dsimp only
  split <;> simp

@[simp] theorem State.unbindHosts_mem (s : State) (ks : List Nat) : (s.unbindHosts ks).mem = s.mem := rfl

@[simp] theorem State.giveBack_mem (s : State) (n : Nat) (g : Graph) : (s.giveBack n g).mem = s.mem := by
  refine ((State.releaseCells_mem ..).trans (State.freeCircuits_mem ..)).trans ((State.unbindHosts_mem ..).trans ?_)
  exact (foldl_mem _ (fun s e => s.setEag_mem e _) _ _).trans (foldl_mem _ (fun s j => s.retireGroup_mem g j) _ _)

@[simp] theorem State.nextLoad_mem (s : State) (n : Nat) (g : Graph) : (s.nextLoad n g).mem = s.mem := by
  unfold State.nextLoad
  split <;> rfl

@[simp] theorem State.withdraw_mem (s : State) (g : Graph) : (s.withdraw g).mem = s.mem :=
  (foldl_mem _ (fun s k => s.modCell_mem k _) _ _).trans (foldl_mem _ (fun s n => s.setXgroup_mem n _) _ _)

@[simp] theorem State.beginCut_mem (s : State) (n : Nat) (g : Graph) : (s.beginCut n g).mem = s.mem :=
  (State.withdraw_mem _ g).trans
    ((foldl_mem _ (fun s e => s.setEag_mem e _) _ _).trans (foldl_mem _ (fun s k => s.modCell_mem k _) _ _))

@[simp] theorem State.eagMarker_mem (s : State) (e : Nat) : (s.eagMarker e).mem = s.mem := by
  simp only [State.eagMarker]
  (repeat' split) <;> simp

@[simp] theorem State.cleanPage_mem (s : State) (p : Page) : (s.cleanPage p).mem = s.mem := rfl

@[simp] theorem State.swapRows_mem (s : State) (d : BitVec 12) (spills : List (Nat × Nat)) :
    (s.swapRows d spills).mem = s.mem := by
  refine foldl_mem _ (fun s r => ?_) _ _
  dsimp only
  split <;> rfl

@[simp] theorem Plan.unspill_mem (p : Plan) (old : Graph) (s : State) (m : List Spilled) :
    (Plan.unspill p old s m).mem = s.mem := by
  unfold Plan.unspill
  (repeat' split) <;> simp

@[simp] theorem Plan.unspillAll_mem (p : Plan) (old : Graph) (s : State) : (p.unspillAll old s).mem = s.mem := by
  refine (foldl_mem _ (fun s w => p.unspill_mem old s w) _ _).trans
    ((State.runRows_mem ..).trans (foldl_mem _ (fun s r => ?_) _ _))
  split <;> rfl

@[simp] theorem Plan.restoreRoot_mem (p : Plan) (s : State) (g : Graph) (r : CutRec) :
    (Plan.restoreRoot p s g r).mem = s.mem := by
  unfold Plan.restoreRoot
  split <;> rfl

/-! ### Operations of Machine/HostPort -/

@[simp] theorem State.setHostQueue_mem (s : State) (p q : Nat) (x : HostQueue) : (s.setHostQueue p q x).mem = s.mem := rfl

@[simp] theorem State.doorbell_mem (s : State) (p q : Nat) (tag : BitVec 3) (v : Word) :
    (s.doorbell p q tag v).mem = s.mem := by
  simp only [State.doorbell]
  (repeat' split) <;> simp

@[simp] theorem State.clearStat_mem (s : State) (p q : Nat) (v : Word) : (s.clearStat p q v).mem = s.mem := rfl

@[simp] theorem State.mailWord_mem (s : State) (p : Nat) (v : Word) : (s.mailWord p v).mem = s.mem := by
  unfold State.mailWord
  dsimp only
  split <;> rfl

@[simp] theorem State.ringPut_mem (s : State) (p q : Nat) (v side : Word) : (s.ringPut p q v side).mem = s.mem := rfl
@[simp] theorem State.trainHost_mem (s : State) (p : Nat) (x8 : Bool) : (s.trainHost p x8).mem = s.mem := rfl

/-! ### Operations of Machine/Power -/

@[simp] theorem State.setPwr_mem (s : State) (p : Power) : (s.setPwr p).mem = s.mem := rfl

@[simp] theorem State.leaveTo_mem (s : State) (b : Nat) (y0 : LeaveBy) : (s.leaveTo b y0).mem = s.mem := by
  unfold State.leaveTo
  (repeat' split) <;> simp

@[simp] theorem State.bootFails_mem (s : State) (code : BitVec 8) : (s.bootFails code).mem = s.mem := rfl
@[simp] theorem State.bootStep_mem (s : State) (n : Nat) : (s.bootStep n).mem = s.mem := rfl

/-! ### Operations of Machine/Services -/

@[simp] theorem State.installRoutes_mem (s : State) (r : RouteImage) (q : Nat) : (s.installRoutes r q).mem = s.mem := by
  simp [State.installRoutes]

@[simp] theorem State.deliverRecord_mem (s : State) (d : BitVec 12) : (s.deliverRecord d).mem = s.mem := by
  unfold State.deliverRecord
  dsimp only
  split <;> rfl

end Sys2Proof.Machine
end

section
/-! SUPPORT. The rule of an instruction of a cell: what its body makes of the memory is what the instruction makes of it. -/

namespace Sys2Proof.Machine

open Sys2Proof

/-! ### What the body of a cell's instruction says of the memory -/

/-- P holds of the memory of the state that a stop carries, if it carries one. -/
def Stop.OnMem (P : Memory → Prop) : Stop → Prop
  | .waitIn s _ _ _ => P s.mem
  | .other s => P s.mem
  | _ => True

section
variable {P : Memory → Prop}

@[simp] theorem Stop.onMem_wait {w : Stall} {o : WaitCond} : (Stop.wait w o).OnMem P ↔ True := Iff.rfl
@[simp] theorem Stop.onMem_waitIn {s : State} {c : Cell} {w : Stall} {o : WaitCond} :
    (Stop.waitIn s c w o).OnMem P ↔ P s.mem := Iff.rfl
@[simp] theorem Stop.onMem_cause {n : BitVec 8} {v : Word} : (Stop.cause n v).OnMem P ↔ True := Iff.rfl
@[simp] theorem Stop.onMem_illop : Stop.illop.OnMem P ↔ True := Iff.rfl
@[simp] theorem Stop.onMem_priv : Stop.priv.OnMem P ↔ True := Iff.rfl
@[simp] theorem Stop.onMem_sink {n : Nat} : (Stop.sink n).OnMem P ↔ True := Iff.rfl
@[simp] theorem Stop.onMem_other {s : State} : (Stop.other s).OnMem P ↔ P s.mem := Iff.rfl
@[simp] theorem onMem_poisonAt {n : Nat} : (poisonAt n).OnMem P ↔ True := Iff.rfl
@[simp] theorem onMem_unprivileged {r : Res} : (unprivileged r).OnMem P ↔ True := by
  unfold unprivileged
  split <;> exact Iff.rfl
end

/-- A computation whose stops carry no state. -/
def Quiet {α : Type} (x : Except Stop α) : Prop := After (Stop.OnMem fun _ => False) (fun _ => True) x

/-- Of a quiet computation only the value counts. -/
theorem Quiet.after {α : Type} {P : Memory → Prop} {Q : α → Prop} {x : Except Stop α} (hx : Quiet x)
    (hQ : ∀ a, x = .ok a → Q a) : After (Stop.OnMem P) Q x := by
  match x with
  | .ok a => exact hQ a rfl
  | .error (.waitIn ..) | .error (.other _) => exact hx.elim
  | .error (.wait ..) | .error (.cause ..) | .error .illop | .error .priv | .error (.sink _) => trivial

@[simp] theorem quiet_ok {α : Type} {a : α} : Quiet (.ok a : Except Stop α) := trivial
@[simp] theorem quiet_pure {α : Type} {a : α} : Quiet (pure a : Except Stop α) := trivial
@[simp] theorem quiet_error {α : Type} {e : Stop} : Quiet (.error e : Except Stop α) ↔ e.OnMem fun _ => False := Iff.rfl
@[simp] theorem quiet_ite {α : Type} {c : Prop} [Decidable c] {x y : Except Stop α} :
    Quiet (if c then x else y) ↔ (c → Quiet x) ∧ (¬c → Quiet y) := after_ite
@[simp] theorem quiet_after {α : Type} {P : Memory → Prop} {Q : α → Prop} {x : Except Stop α} (hx : Quiet x) :
    After (Stop.OnMem P) Q x ↔ ∀ a, x = .ok a → Q a :=
  ⟨fun h a ha => by rw [ha] at h; exact h, hx.after⟩
/-- After a quiet step comes the rest. -/
theorem Quiet.then {α β : Type} {P : Memory → Prop} {Q : β → Prop} {x : Except Stop α} {f : α → Except Stop β}
    (hx : Quiet x) (hf : ∀ a, After (Stop.OnMem P) Q (f a)) : After (Stop.OnMem P) Q (x >>= f) :=
  after_bind.mpr (hx.after fun a _ => hf a)
theorem Quiet.bind {α β : Type} {x : Except Stop α} {f : α → Except Stop β} (hx : Quiet x) (hf : ∀ a, Quiet (f a)) :
    Quiet (x >>= f) := after_bind.mpr (hx.after fun a _ => hf a)

@[simp] theorem Quiet.map {α β : Type} {x : Except Stop α} {f : α → β} (hx : Quiet x) : Quiet (f <$> x) :=
  after_map.mpr (hx.after fun _ _ => trivial)

/-- The state of a stopped instruction. -/
theorem stopped_onMem {P : Memory → Prop} {i : Instr} {k : Nat} {s : State} {c : Cell} {e : Stop} (hs : P s.mem)
    (he : e.OnMem P) : P (stopped i k s c e).mem := by
  cases e with
  | wait | cause | illop | priv | sink => simpa [stopped] using hs
  | waitIn | other => simpa [stopped] using he

@[simp] theorem commit_mem (k : Nat) (h : Hdr) (start : Nat) (f : Fin) : (commit k h start f).mem = f.s.mem := rfl

/-- The rule of an instruction of a cell: of the memory counts what its body makes of it. -/
theorem issue_onNext {P : Memory → Prop} {i : Instr} {h : Hdr} {s : State} {body : State → Cell → Res}
    {watch : State → Cell → Option Watched} (hs : P s.mem)
    (hb : ∀ t c, P t.mem → After (Stop.OnMem P) (fun f => P f.s.mem) (body t c)) :
    OnNext P (issue i h s body watch) := by
  unfold issue
  dsimp only
  generalize (if h.ee then h.wm ||| oneBit 8 h.es.toNat else h.wm) = named
  have hb' := hb { s with now := max s.now (s.cell s.cur).readyAt } (s.cell s.cur) hs
  refine onNext_ite.mpr ⟨fun _ => hs, fun _ => ?_⟩
  split
  · simpa using hs
  refine onNext_ite.mpr ⟨fun _ => hs, fun _ => onNext_ite.mpr ⟨fun _ => ?_, fun _ => ?_⟩⟩
  · simpa using hs
  split
  · simpa using hs
  refine onNext_ite.mpr ⟨fun _ => hs, fun _ => onNext_ite.mpr ⟨fun _ => stopped_onMem hs trivial, fun _ =>
    onNext_ite.mpr ⟨fun _ => stopped_onMem hs (by simp), fun _ => onNext_ite.mpr ⟨fun _ => hs, fun _ =>
      onNext_ite.mpr ⟨fun _ => hs, fun _ => ?_⟩⟩⟩⟩⟩
  split
  · next f hf => rw [hf] at hb'; exact hb'
  · next e he => rw [he] at hb'; exact stopped_onMem hs hb'

/-! ### The steps of a body that stop without a state -/

section
variable {c : Cell} {s : State}
@[simp] theorem legal_quiet {b : Bool} : Quiet (legal b) := by cases b <;> trivial
@[simp] theorem clean_quiet {n : Nat} {v : Val} : Quiet (clean n v) := by simp [clean]
@[simp] theorem readG_quiet {n : Nat} : Quiet (readG c n) := by simp [readG]
@[simp] theorem regsReady_quiet {fs : List (BitVec 6)} : Quiet (regsReady c fs) := by unfold regsReady; split <;> simp
@[simp] theorem needDst_quiet {f : BitVec 6} : Quiet (needDst c f) := legal_quiet
@[simp] theorem readPort_quiet {i : Nat} {n : BitVec 3} : Quiet (readPort c i n) := by simp [readPort]
@[simp] theorem readSrc_quiet {f : BitVec 6} {n : BitVec 3} : Quiet (readSrc c f n) := by
  unfold readSrc
  split
  · exact readG_quiet.bind fun _ => quiet_pure
  · exact readPort_quiet
@[simp] theorem readAB_quiet {a b : BitVec 6} {sa sb : BitVec 3} : Quiet (readAB c a b sa sb) :=
  readSrc_quiet.bind fun _ => readSrc_quiet.bind fun _ => quiet_pure
@[simp] theorem checkCtl_quiet {t : BitVec 3} {v : Word} : Quiet (checkCtl c t v) := by simp [checkCtl]
@[simp] theorem push_quiet {i : Nat} {v : Val} {t : BitVec 3} {n : Nat} : Quiet (push c i v t n) := by
  unfold push
  split
  · exact checkCtl_quiet.bind fun _ => by simp
  · simp
@[simp] theorem writeDst_quiet {f : BitVec 6} {v : Val} : Quiet (writeDst c f v) := by simp [writeDst]
@[simp] theorem claimDst_quiet {f : BitVec 6} : Quiet (claimDst c f) := by simp [claimDst]
@[simp] theorem raise_quiet {cs : List (Bool × BitVec 8 × Word)} : Quiet (raise cs) := by
  unfold raise
  dsimp only
  split <;> simp
@[simp] theorem evWaitB_quiet {t : Strip} {n j : Nat} : Quiet (evWaitB t n j) := by simp [evWaitB]
@[simp] theorem evWaitE_quiet {t : Strip} {n j : Nat} : Quiet (evWaitE t n j) := by simp [evWaitE]
@[simp] theorem eventWord_quiet {t : Strip} {o j : Nat} : Quiet (eventWord t o j) := by
  unfold eventWord
  dsimp only
  split
  · split
    · exact evWaitB_quiet.bind fun _ => quiet_pure
    · simp
  · simp
@[simp] theorem target_quiet {t : Int} : Quiet (target t) := by simp [target]
@[simp] theorem absTarget_quiet {f : FmtB} : Quiet (absTarget c f) := by
  unfold absTarget
  split
  · exact target_quiet.bind fun _ => quiet_pure
  · exact readSrc_quiet.bind fun _ => clean_quiet.bind fun _ => target_quiet.bind fun _ => quiet_pure
@[simp] theorem wrsysRule_quiet {n : Nat} {v : Word} : Quiet (wrsysRule c n v) := by
  unfold wrsysRule
  dsimp only
  split
  case h_1 => exact legal_quiet.bind fun _ => legal_quiet.bind fun _ => trivial
  case h_2 => exact legal_quiet.bind fun _ => trivial
  case h_3 => exact legal_quiet.bind fun _ => legal_quiet
  case h_5 => exact legal_quiet.bind fun _ => legal_quiet
  case h_9 => exact legal_quiet.bind fun _ => by simp
  all_goals simp
@[simp] theorem needIn_quiet {i : Nat} : Quiet (needIn c i) := legal_quiet
@[simp] theorem needOut_quiet {i : Nat} : Quiet (needOut c i) := legal_quiet
@[simp] theorem needHead_quiet {i n : Nat} : Quiet (needHead c i n) := by simp [needHead]
@[simp] theorem needBar_quiet {n : Nat} : Quiet (needBar s n) := legal_quiet
@[simp] theorem needAgent_quiet {f : FmtX} : Quiet (needAgent s f) := legal_quiet
@[simp] theorem needEag_quiet {f : FmtX} : Quiet (needEag c f) := by unfold needEag; split <;> simp
@[simp] theorem checkWords_quiet {p : Nat} {t : BitVec 3} {n : Nat} {vs : List Val} : Quiet (checkWords c p t n vs) := by
  induction vs with
  | nil => simp [checkWords]
  | cons v vs ih => exact checkCtl_quiet.bind fun _ => by simp [ih]
@[simp] theorem accRoom_quiet : Quiet (accRoom c) := by simp [accRoom]
@[simp] theorem matRoom_quiet {n : Nat} : Quiet (matRoom c n) := by simp [matRoom]
@[simp] theorem vqRoom_quiet : Quiet (vqRoom c) := by simp [vqRoom]
@[simp] theorem semWait_quiet {f : FmtX} : Quiet (semWait c f) :=
  readG_quiet.bind fun _ => clean_quiet.bind fun _ => by simp
@[simp] theorem copyRegs_quiet {f : FmtX} {u : Bool} : Quiet (copyRegs c f u) :=
  readG_quiet.bind fun _ => readG_quiet.bind fun _ => readG_quiet.bind fun _ => by cases u <;> simp
@[simp] theorem VRole.read_quiet {r : VRole} {x : BitVec 6} : Quiet (r.read c x) := by
  cases r <;> simp [VRole.read]
@[simp] theorem VRole.check_quiet {r : VRole} {n : Nat} {v : Val} : Quiet (r.check n v) := by simp [VRole.check]
end

/-! ### The steps of a body that may stop with the state they began in -/

section
variable {P : Memory → Prop} {s : State}

@[simp] theorem translate_after {c : Cell} {va : Nat} {w : Bool} {Q : Page × Cell → Prop} (hs : P s.mem) :
    After (Stop.OnMem P) Q (translate s c va w) ↔ ∀ r, translate s c va w = .ok r → Q r := by
  unfold translate
  dsimp only
  split
  · simp
  · split <;> simp [hs]

@[simp] theorem checkAccess_after {c : Cell} {ea : Word} {n : Nat} {w : Bool} {u : KindUse} {p : Bool} {fld : Nat}
    {Q : Nat × Page × Cell → Prop} (hs : P s.mem) (hQ : ∀ r, Q r) :
    After (Stop.OnMem P) Q (checkAccess s c ea n w u p fld) ↔ True := by
  unfold checkAccess
  simp [hs, hQ]

@[simp] theorem forwardOn_after {c : Cell} {is : List Nat} {Q : Cell → Prop} (hs : P s.mem) (hQ : ∀ c, Q c) :
    After (Stop.OnMem P) Q (forwardOn s c is) ↔ True := by
  rw [iff_true]
  induction is generalizing c with
  | nil => exact hQ c
  | cons i is ih => simp [forwardOn, ih, hs]

@[simp] theorem parkWhenSettled_after {c : Cell} {w : PCause} {Q : Fin → Prop} (hs : P s.mem) :
    After (Stop.OnMem P) Q (parkWhenSettled s c w) ↔ True := by
  simp [parkWhenSettled, hs]

@[simp] theorem evArrive_after {c : Cell} {n : Nat} {w : Option Comb} {tok : Tok} {d : BitVec 6} {fn : Option (BitVec 3)}
    (hs : P s.mem) : After (Stop.OnMem P) (fun f => P f.s.mem) (evArrive s c n w tok d fn) ↔ True := by
  simp [evArrive, hs]

@[simp] theorem joinGroup_mem (s : State) (c : Cell) (t : Tok) (x : Join) : (joinGroup s c t x).s.mem = s.mem :=
  State.traceJoin_mem ..
end

end Sys2Proof.Machine
end

section
/-! SUPPORT. The rules of a service, of a configuration command and of the windows. -/

namespace Sys2Proof.Machine

open Sys2Proof

/-! ### Services and configuration commands -/

/-- P holds of the memory of the state that an answer leaves. -/
def Answer.OnMem (P : Memory → Prop) : Answer → Prop
  | .reply s _ _ => P s.mem
  | .later s => P s.mem

section
variable {P : Memory → Prop} {s : State}

@[simp] theorem Answer.onMem_reply {st : Nat} {v : Word} : (Answer.reply s st v).OnMem P ↔ P s.mem := Iff.rfl
@[simp] theorem Answer.onMem_later : (Answer.later s).OnMem P ↔ P s.mem := Iff.rfl
@[simp] theorem Answer.onMem_ite {c : Prop} [Decidable c] {x y : Answer} :
    (if c then x else y).OnMem P ↔ (c → x.OnMem P) ∧ (¬c → y.OnMem P) := by by_cases h : c <;> simp [h]

/-- The rule of a service: of the memory counts what its answer makes of it. -/
theorem serve_onNext {id : CallId} {n f : Nat} {z : Bool} {ok : Word → Bool} {body : State → Request → Answer}
    (hs : P s.mem) (hb : ∀ x, (body s x).OnMem P) : OnNext P (serve id n f z ok body s) := by
  unfold serve
  split
  · exact hs
  · next x _ =>
    have hx := hb x
    refine onNext_ite.mpr ⟨fun _ => hs, fun _ => onNext_ite.mpr ⟨fun _ => ?_, fun _ =>
      onNext_ite.mpr ⟨fun _ => ?_, fun _ => ?_⟩⟩⟩
    · simpa using hs
    · simpa using hs
    · split
      · next h => rw [h] at hx; simpa using hx
      · next h => rw [h] at hx; exact hx

theorem onGraph_onMem {x : Request} {n : Nat} {body : Graph → Answer} (hs : P s.mem) (hb : ∀ g, (body g).OnMem P) :
    (onGraph s x n body).OnMem P := by
  unfold onGraph
  split
  · exact hs
  · simp [hs, hb]

theorem State.withRecord_onMem {call : CallId} {dom : BitVec 12} {va n : Nat} {body : Option (List Word) → Answer}
    (hs : P s.mem) (hb : ∀ r, (body r).OnMem P) : (s.withRecord call dom va n body).OnMem P := by
  unfold State.withRecord
  split
  · exact hb _
  · rw [Answer.onMem_later, foldl_mem _ (fun s a => s.holdAt_mem a _)]
    exact hs

theorem State.withBlock_onMem {call : CallId} {dom : BitVec 12} {va : Nat} {body : Option Lpb → Answer} (hs : P s.mem)
    (hb : ∀ b, (body b).OnMem P) : (s.withBlock call dom va body).OnMem P :=
  State.withRecord_onMem hs fun _ => State.withRecord_onMem hs fun _ => hb _

/-- The error of a configuration command says nothing of the memory. -/
theorem after_value {ε α : Type} {Q : α → Prop} {x : Except ε α} (hQ : ∀ a, Q a) : After (fun _ => True) Q x := by
  cases x with
  | ok a => exact hQ a
  | error _ => trivial
@[simp] theorem after_value_iff {ε α : Type} {Q : α → Prop} {x : Except ε α} (hQ : ∀ a, Q a) :
    After (fun _ => True) Q x ↔ True := iff_true_intro (after_value hQ)

theorem After.foldlM {ε α β : Type} {E : ε → Prop} {Q : β → Prop} {f : β → α → Except ε β}
    (h : ∀ b x, Q b → After E Q (f b x)) (xs : List α) {b : β} (hb : Q b) : After E Q (xs.foldlM f b) := by
  induction xs generalizing b with
  | nil => exact hb
  | cons x xs ih =>
    rw [List.foldlM_cons, after_bind]
    have := h b x hb
    cases hx : f b x with
    | ok b' => rw [hx] at this; exact ih this
    | error e => rw [hx] at this; exact this

theorem foldlM_after {α ε : Type} {E : ε → Prop} {f : State → α → Except ε State}
    (h : ∀ (t : State) x, P t.mem → After E (fun u : State => P u.mem) (f t x)) (xs : List α) (hs : P s.mem) :
    After E (fun t : State => P t.mem) (xs.foldlM f s) := After.foldlM (Q := fun t : State => P t.mem) h xs hs

/-- The rule of a configuration command: of the memory counts what its act makes of it. -/
theorem runCommand_onNext {m : Master} {n : Nat} {act : State → Issuer → Cfg} (hs : P s.mem)
    (ha : ∀ t x, P t.mem → After (fun _ => True) (fun u => P u.mem) (act t x)) : OnNext P (runCommand m n act s) := by
  unfold runCommand
  dsimp only
  refine onNext_ite.mpr ⟨fun _ => hs, fun _ => ?_⟩
  have ha' := ha (s.setIssuer m { s.issuer m with words := (s.issuer m).words + n }) (s.issuer m) (by simpa using hs)
  split
  · next h => rw [h] at ha'; exact ha'
  · simpa using hs
end

section
variable {P : Memory → Prop} {s : State}

theorem cfgEvents_after {k f : Nat} {v : BitVec 32} (hs : P s.mem) :
    After (fun _ => True) (fun t => P t.mem) (cfgEvents s k f v) := by
  simp [cfgEvents, hs]

theorem cfgCell_after {k f : Nat} {v : BitVec 32} (hs : P s.mem) :
    After (fun _ => True) (fun t => P t.mem) (cfgCell s k f v) := by
  unfold cfgCell
  dsimp only
  split
  · simp [hs]
  · refine after_bind.mpr (after_value fun _ => ?_)
    split <;> simp [hs, cfgEvents_after]

theorem cfgBlock_after {b f : Nat} {v : BitVec 32} (hs : P s.mem) :
    After (fun _ => True) (fun t => P t.mem) (cfgBlock s b f v) := by
  simp [cfgBlock, hs]

theorem cfgEag_after {e f : Nat} {v : BitVec 32} (hs : P s.mem) :
    After (fun _ => True) (fun t => P t.mem) (cfgEag s e f v) := by
  simp [cfgEag, hs]

theorem cfgPort_after {p f : Nat} {v : BitVec 32} (hs : P s.mem) :
    After (fun _ => True) (fun t => P t.mem) (cfgPort s p f v) := by
  refine after_ite.mpr ⟨fun _ => by simp [hs], fun _ => after_ite.mpr ⟨fun _ => by simp [hs], fun _ =>
    after_ite.mpr ⟨fun _ => by simp [hs], fun _ => after_ite.mpr ⟨fun _ => ?_, fun _ => by simp [hs]⟩⟩⟩⟩
  refine after_bind.mpr (after_value fun _ => ?_)
  split
  · next h => rw [after_pure, State.writeRoute_mem h]; exact hs
  · trivial

theorem cfgArbiter_after {f : Nat} {v : BitVec 32} (hs : P s.mem) :
    After (fun _ => True) (fun t => P t.mem) (cfgArbiter s f v) := by
  simp [cfgArbiter, hs]

theorem cfgEdge_after {e f : Nat} {v : BitVec 32} (hs : P s.mem) :
    After (fun _ => True) (fun t => P t.mem) (cfgEdge s e f v) := by
  simp [cfgEdge, hs, cfgEag_after, cfgPort_after, cfgArbiter_after]

theorem writeField_after {m : Master} {off f : Nat} {v : BitVec 32} {wide : Bool} {x : Issuer} (hs : P s.mem) :
    After (fun _ => True) (fun t => P t.mem) (writeField m off f v wide s x) := by
  unfold writeField
  refine after_bind.mpr (after_value fun _ => ?_)
  dsimp only
  split
  · exact cfgCell_after hs
  · exact cfgBlock_after hs
  · exact cfgEdge_after hs
  · simp [hs]

/-! The graph that a load or a restore configures -/

theorem Plan.addField_after {p : Plan} {x : Nat × Nat × BitVec 32} (hs : P s.mem) :
    After (fun _ => True) (fun t => P t.mem) (p.addField s x) := by
  unfold Plan.addField
  split
  · refine after_bind.mpr (after_value fun _ => after_bind.mpr ?_)
    exact (cfgPort_after hs).mono fun t ht => ht
  · simp [hs, cfgEvents_after]

theorem Plan.group_after {p : Plan} {e : List Word} (hs : P s.mem) :
    After (fun _ => True) (fun t => P t.mem) (p.group s e) := by
  unfold Plan.group
  dsimp only
  refine (cfgArbiter_after hs).bind fun s hs => (cfgArbiter_after hs).bind fun s hs => (cfgArbiter_after hs).bind fun s hs => ?_
  refine (foldlM_after (fun s u hs => ?_) _ hs).bind fun s hs => cfgArbiter_after hs
  exact (cfgArbiter_after hs).bind fun s hs => cfgArbiter_after hs

theorem Plan.barrier_after {p : Plan} {e : List Word} (hs : P s.mem) :
    After (fun _ => True) (fun t => P t.mem) (p.barrier s e) :=
  foldlM_after (fun _ _ ht => cfgEvents_after ht) _ hs

theorem Plan.apply_after {p : Plan} (hs : P s.mem) : After (fun _ => True) (fun t => P t.mem) (p.apply s) := by
  unfold Plan.apply
  refine (foldlM_after (fun s x hs => ?_) _ hs).bind fun s hs => ?_
  · exact after_bind.mpr (after_value fun _ => hs)
  dsimp only
  have hg := hs
  rw [← foldl_mem (fun s x => s.setEag x.2 (p.generator x)) (fun s x => s.setEag_mem ..)
    (p.eagEntries.filter (fun x => p.here (entryIndex x.1) (field (entryHead x.1) 14 17)))] at hg
  refine (foldlM_after (fun _ _ ht => Plan.addField_after ht) _ hg).bind fun s hs => ?_
  refine (foldlM_after (fun _ _ ht => Plan.barrier_after ht) _ hs).bind fun s hs => ?_
  refine (foldlM_after (fun _ _ ht => Plan.group_after ht) _ hs).bind fun s hs => ?_
  refine after_bind.mpr (after_value fun _ => ?_)
  rw [after_pure, Plan.running_mem, foldl_mem _ (fun s e => Plan.bindHost_mem ..)]
  exact hs

/-! The pages and windows of the window -/

/-- P holds of the memory of the state that a write to a window leaves. -/
def WinRes.OnMem (P : Memory → Prop) : WinRes → Prop
  | .ok s => P s.mem
  | _ => True

@[simp] theorem WinRes.onMem_ok : (WinRes.ok s).OnMem P ↔ P s.mem := Iff.rfl
@[simp] theorem WinRes.onMem_discard : WinRes.discard.OnMem P ↔ True := Iff.rfl
@[simp] theorem WinRes.onMem_fault : WinRes.fault.OnMem P ↔ True := Iff.rfl
@[simp] theorem WinRes.onMem_wait : WinRes.wait.OnMem P ↔ True := Iff.rfl
@[simp] theorem WinRes.onMem_ite {c : Prop} [Decidable c] {x y : WinRes} :
    (if c then x else y).OnMem P ↔ (c → x.OnMem P) ∧ (¬c → y.OnMem P) := by by_cases h : c <;> simp [h]

theorem State.writeCellPage_onMem {k off : Nat} {v : Word} (hs : P s.mem) : (s.writeCellPage k off v).OnMem P := by
  unfold State.writeCellPage
  dsimp only
  refine WinRes.onMem_ite.mpr ⟨fun _ => by simpa using hs, fun _ => WinRes.onMem_ite.mpr ⟨fun _ => hs, fun _ => ?_⟩⟩
  refine WinRes.onMem_ite.mpr ⟨fun _ => ?_, fun _ => ?_⟩
  · split
    · next h => rw [WinRes.onMem_ok, State.writeOra_mem h]; exact hs
    · trivial
  · split
    · trivial
    split
    · trivial
    split
    · split
      · trivial
      · split <;> exact hs
    · split
      · split
        · trivial
        · exact hs
      · exact hs

theorem State.writeRowPages_onMem {y off : Nat} {v : Word} (hs : P s.mem) : (s.writeRowPages y off v).OnMem P := by
  simp [State.writeRowPages, hs, State.writeCellPage_onMem]

theorem State.writeEngineWindow_onMem {row off : Nat} {v : Word} (hs : P s.mem) : (s.writeEngineWindow row off v).OnMem P := by
  unfold State.writeEngineWindow
  dsimp only
  split
  · rw [WinRes.onMem_ok]
    split
    · simpa using hs
    · exact hs
  split
  · split
    · simpa using hs
    · trivial
  split
  · split
    · have hc := cfgEdge_after (e := (off - 0x1000000) / 0x10000) (f := (off - 0x1000000) % 0x10000 / 8)
        (v := v.extractLsb' 0 32) hs
      split
      · next h => rw [h] at hc; exact hc
      · trivial
    · trivial
  · trivial

/-- P holds of the memory of the state that a read of the window leaves. -/
def WinRead.OnMem (P : Memory → Prop) : WinRead → Prop
  | .ok _ s => P s.mem
  | _ => True

theorem State.popFault_mem (s : State) (y : Nat) : (s.popFault y).2.mem = s.mem := by
  unfold State.popFault
  dsimp only
  split <;> rfl

theorem State.readMtstat_mem (s : State) (b : Nat) : (s.readMtstat b).2.mem = s.mem := rfl

/-- What both branches give, a conditional gives. -/
theorem of_ite_some {α : Type} {c q : Prop} [Decidable c] {x y : Option α} {a : α}
    (hx : x = some a → q) (hy : y = some a → q) (h : (if c then x else y) = some a) : q := by
  split at h
  · exact hx h
  · exact hy h

theorem State.readRowPages_mem {t : State} {y off : Nat} {v : Word} (h : s.readRowPages y off = some (v, t)) :
    t.mem = s.mem := by
  have same {w : Word} (h : some (w, s) = some (v, t)) : t.mem = s.mem := by
    rw [(Prod.mk.inj (Option.some.inj h)).2]
  have got {r : Word × State} (hr : r.2.mem = s.mem) (h : some r = some (v, t)) : t.mem = s.mem := by
    rw [Option.some.inj h] at hr
    exact hr
  have none' (h : none = some (v, t)) : t.mem = s.mem := nomatch h
  unfold State.readRowPages at h
  refine of_ite_some same (of_ite_some same (of_ite_some same (of_ite_some ?_ (of_ite_some same
    (of_ite_some (got (s.popFault_mem y)) (of_ite_some same fun h => ?_)))))) h
  · exact of_ite_some none' (of_ite_some (got (s.readMtstat_mem _)) same)
  · exact none' h

@[simp] theorem WinRead.onMem_ok {v : Word} : (WinRead.ok v s).OnMem P ↔ P s.mem := Iff.rfl
@[simp] theorem WinRead.onMem_fault : WinRead.fault.OnMem P ↔ True := Iff.rfl
@[simp] theorem WinRead.onMem_wait : WinRead.wait.OnMem P ↔ True := Iff.rfl
@[simp] theorem WinRead.onMem_ite {c : Prop} [Decidable c] {x y : WinRead} :
    (if c then x else y).OnMem P ↔ (c → x.OnMem P) ∧ (¬c → y.OnMem P) := by by_cases h : c <;> simp [h]

theorem State.readWindow_onMem {row a : Nat} (hs : P s.mem) : (s.readWindow row a).OnMem P := by
  refine WinRead.onMem_ite.mpr ⟨fun _ => ?_, fun _ => WinRead.onMem_ite.mpr ⟨fun _ => ?_, fun _ =>
    WinRead.onMem_ite.mpr ⟨fun _ => hs, fun _ => ?_⟩⟩⟩
  · simp only [WinRead.onMem_ite, WinRead.onMem_fault, WinRead.onMem_wait, WinRead.onMem_ok, hs, implies_true, and_self]
  · split
    · refine WinRead.onMem_ite.mpr ⟨fun _ => True.intro, fun _ => ?_⟩
      split
      · next h => rw [WinRead.onMem_ok, State.readRowPages_mem h]; exact hs
      · exact True.intro
    · exact hs
  · split
    · exact hs
    · exact True.intro

theorem State.hartLoad_onMem {y a n : Nat} (hs : P s.mem) : (s.hartLoad y a n).OnMem P := by
  unfold State.hartLoad
  have hw := s.readWindow_onMem (row := y) (a := a / 8 * 8) hs
  split
  · next h => rw [h] at hw; exact hw
  · exact hw

theorem hartRead_after {y n : Nat} {a : Word} (hs : P s.mem) :
    After (fun _ => True) (fun r => P r.2.mem) (hartRead s y a n) := by
  unfold hartRead
  have hl := s.hartLoad_onMem (y := y) (a := uns a) (n := n) hs
  dsimp only
  split
  · trivial
  split
  · trivial
  split
  · next h => rw [h] at hl; exact hl
  · trivial
  · trivial

@[simp] theorem rvIllegal_after {α : Type} {w : BitVec 32} {Q : α → Prop} :
    After (fun _ => True) Q (rvIllegal w) ↔ True := Iff.rfl

theorem hartSystem_after {y : Nat} {w : BitVec 32} {next : Word} (hs : P s.mem) :
    After (fun _ => True) (fun t => P t.mem) (hartSystem s y w next) := by
  simp [hartSystem, hs]

theorem hartCsr_after {y : Nat} {w : BitVec 32} (hs : P s.mem) :
    After (fun _ => True) (fun t => P t.mem) (hartCsr s y w) := by
  unfold hartCsr
  dsimp only
  split
  · simp
  · simp [hs, apply_ite State.mem]

theorem hartLoadOp_after {y : Nat} {w : BitVec 32} {fp : Bool} (hs : P s.mem) :
    After (fun _ => True) (fun t => P t.mem) (hartLoadOp s y w fp) := by
  have value {n : Nat} {a : Word} {g : Word × State → State} (hg : ∀ r, (g r).mem = r.2.mem) :
      After (fun _ => True) (fun t => P t.mem) (hartRead s y a n >>= fun r => pure (g r)) :=
    (hartRead_after hs).bind fun r hr => by rw [after_pure, hg]; exact hr
  unfold hartLoadOp
  dsimp only
  split
  · split
    · simp
    · exact value fun _ => rfl
  · split
    · simp
    · exact value fun _ => rfl

end

end Sys2Proof.Machine
end

section
/-! SUPPORT. The instructions of a cell: none changes the module's memory. Each is the rule of an issue with its body, whose steps
stop without a state or with the one they began in, and whose end holds the memory it began with: simp reads that off the body by the
lemmas above. -/

namespace Sys2Proof.Machine

open Sys2Proof

section
variable {P : Memory → Prop} {i : Instr} {h : Hdr} {s : State}

/-! ### Operations of Machine/Scalar -/

theorem aluR_onNext {f : FmtR} {op : Word → Word → Word} (hs : P s.mem) : OnNext P (aluR i h f op s) :=
  issue_onNext hs fun _ _ ht => by simp [ht]

theorem aluR1_onNext {f : FmtR} {op : Word → Word} (hs : P s.mem) : OnNext P (aluR1 i h f op s) :=
  issue_onNext hs fun _ _ ht => by simp [ht]

theorem aluI_onNext {f : FmtI} {op : Word → Word} (hs : P s.mem) : OnNext P (aluI i h f op s) :=
  issue_onNext hs fun _ _ ht => by simp [ht]

theorem execNop_onNext {f : FmtR} (hs : P s.mem) : OnNext P (execNop h f s) :=
  issue_onNext hs fun _ _ ht => by simp [ht]

theorem execSel_onNext {f : FmtR} (hs : P s.mem) : OnNext P (execSel h f s) :=
  issue_onNext hs fun _ _ ht => by simp [ht]

theorem execModw_onNext {f : FmtR} (hs : P s.mem) : OnNext P (execModw h f s) :=
  issue_onNext hs fun _ _ ht => by simp [ht]

theorem execMovi_onNext {f : FmtI} (hs : P s.mem) : OnNext P (execMovi h f s) :=
  issue_onNext hs fun _ _ ht => by simp [ht]

theorem execLea_onNext {f : FmtM} (hs : P s.mem) : OnNext P (execLea h f s) :=
  issue_onNext hs fun _ _ ht => by simp [ht]

/-! ### Operations of Machine/Local -/

theorem execLdl_onNext {f : FmtM} (hs : P s.mem) : OnNext P (execLdl h f s) :=
  issue_onNext hs fun _ _ ht => by
    refine regsReady_quiet.then fun _ => readAB_quiet.then fun _ => needDst_quiet.then fun _ => raise_quiet.then fun _ => ?_
    dsimp only
    split <;> simp [ht]

theorem execStl_onNext {f : FmtM} (hs : P s.mem) : OnNext P (execStl h f s) :=
  issue_onNext hs fun _ _ ht => by simp [ht]

theorem execRdsys_onNext {f : FmtI} (hs : P s.mem) : OnNext P (execRdsys h f s) :=
  issue_onNext hs fun _ _ ht => by simp [ht]

theorem execWrsys_onNext {f : FmtI} (hs : P s.mem) : OnNext P (execWrsys h f s) :=
  issue_onNext hs fun _ _ ht => by
    refine readSrc_quiet.then fun r => ?_
    dsimp only
    have rule := wrsysRule_quiet (c := r.2) (n := f.imm.toNat) (v := r.1.v)
    split
    · next e he =>
      rw [he] at rule
      exact Quiet.after (x := (.error e : Res)) rule fun _ ha => nomatch ha
    · simp [ht]

/-! ### Operations of Machine/Branch -/

theorem condBranch_onNext {f : FmtB} {test : Word → Bool} (hs : P s.mem) : OnNext P (condBranch i h f test s) :=
  issue_onNext hs fun _ _ ht => by simp [ht]

theorem execBr_onNext {f : FmtB} (hs : P s.mem) : OnNext P (execBr h f s) :=
  issue_onNext hs fun _ _ ht => by simp [ht]

theorem execCall_onNext {f : FmtB} (hs : P s.mem) : OnNext P (execCall h f s) :=
  issue_onNext hs fun _ _ ht => by simp [ht]

theorem execLoopn_onNext {f : FmtB} (hs : P s.mem) : OnNext P (execLoopn h f s) :=
  issue_onNext hs fun _ _ ht => by simp [ht]

theorem execRet_onNext {f : FmtR} (hs : P s.mem) : OnNext P (execRet h f s) :=
  issue_onNext hs fun _ _ ht => by simp [ht]

/-! ### Operations of Machine/System -/

theorem execSvc_onNext {f : FmtI} (hs : P s.mem) : OnNext P (execSvc h f s) :=
  issue_onNext hs fun _ _ ht => by simp [ht]

theorem execTrap_onNext {f : FmtI} (hs : P s.mem) : OnNext P (execTrap h f s) :=
  issue_onNext hs fun _ _ ht => by simp [ht]

theorem execBrk_onNext {f : FmtI} (hs : P s.mem) : OnNext P (execBrk h f s) :=
  issue_onNext hs fun _ _ ht => by simp [ht]

theorem rett_onNext {target : Cell → Nat} (hs : P s.mem) : OnNext P (rett i h target s) :=
  issue_onNext hs fun _ _ ht => by simp [ht]

theorem execRettRetry_onNext {f : FmtR} (hs : P s.mem) : OnNext P (execRettRetry h f s) :=
  issue_onNext hs fun _ _ ht => by simp [ht]

theorem execRettEnd_onNext {f : FmtR} (hs : P s.mem) : OnNext P (execRettEnd h f s) :=
  issue_onNext hs fun _ _ ht => by simp [ht]

theorem execDone_onNext {f : FmtR} (hs : P s.mem) : OnNext P (execDone h f s) :=
  issue_onNext hs fun _ _ ht => by simp [ht]

theorem execUnassignedOpcode_onNext {w : Word} (hs : P s.mem) : OnNext P (execUnassignedOpcode w s) :=
  issue_onNext hs fun _ _ _ => by simp

/-! ### Operations of Machine/QueueEngine -/

theorem popPeek_onNext {f : FmtX} {n : Nat} {pops : Bool} (hs : P s.mem) : OnNext P (popPeek i h f n pops s) :=
  issue_onNext hs fun _ _ ht => by simp [ht]

theorem execPush_onNext {f : FmtX} (hs : P s.mem) : OnNext P (execPush h f s) :=
  issue_onNext hs fun _ _ ht => by simp [ht]

theorem execPushl_onNext {f : FmtX} (hs : P s.mem) : OnNext P (execPushl h f s) :=
  issue_onNext hs fun _ _ ht => by simp [ht]

theorem execPopl_onNext {f : FmtX} (hs : P s.mem) : OnNext P (execPopl h f s) :=
  issue_onNext hs fun _ _ ht => by simp [ht]

theorem portValue_onNext {f : FmtX} {val : Cell → Nat → BitVec 2 → Except Stop Nat} (hs : P s.mem)
    (hv : ∀ c p b, Quiet (val c p b)) : OnNext P (portValue i h f val s) :=
  issue_onNext hs fun _ _ ht => by simp [ht, hv]

theorem execQbind_onNext {f : FmtX} (hs : P s.mem) : OnNext P (execQbind h f s) :=
  issue_onNext hs fun _ _ ht => by simp [ht]

theorem execQtagOut_onNext {f : FmtX} (hs : P s.mem) : OnNext P (execQtagOut h f s) :=
  issue_onNext hs fun _ _ ht => by simp [ht]

theorem execQtagIn_onNext {f : FmtX} (hs : P s.mem) : OnNext P (execQtagIn h f s) :=
  issue_onNext hs fun _ _ ht => by simp [ht]

theorem execQstk_onNext {f : FmtX} (hs : P s.mem) : OnNext P (execQstk h f s) :=
  issue_onNext hs fun _ _ ht => by simp [ht]

theorem execQskip_onNext {f : FmtX} (hs : P s.mem) : OnNext P (execQskip h f s) :=
  issue_onNext hs fun _ _ ht => by simp [ht]

theorem execQwaitn_onNext {f : FmtX} (hs : P s.mem) : OnNext P (execQwaitn h f s) :=
  issue_onNext hs fun _ _ ht => by simp [ht]

theorem execQdiv_onNext {f : FmtX} (hs : P s.mem) : OnNext P (execQdiv h f s) :=
  issue_onNext hs fun _ _ ht => by simp [ht]

theorem execQsleep_onNext {f : FmtX} (hs : P s.mem) : OnNext P (execQsleep h f s) :=
  issue_onNext hs fun _ _ ht => by simp [ht]

theorem execQmark_onNext {f : FmtX} (hs : P s.mem) : OnNext P (execQmark h f s) :=
  issue_onNext hs fun _ _ ht => by simp [ht]

theorem execQflush_onNext {f : FmtX} (hs : P s.mem) : OnNext P (execQflush h f s) :=
  issue_onNext hs fun _ _ ht => by simp [ht]

theorem execCcfgLim_onNext {f : FmtX} (hs : P s.mem) : OnNext P (execCcfgLim h f s) :=
  issue_onNext hs fun _ _ ht => by simp [ht]

theorem execCcfgMode_onNext {f : FmtX} (hs : P s.mem) : OnNext P (execCcfgMode h f s) :=
  issue_onNext hs fun _ _ ht => by simp [ht]

theorem execCstart_onNext {f : FmtX} (hs : P s.mem) : OnNext P (execCstart h f s) :=
  issue_onNext hs fun _ _ ht => by simp [ht]

theorem execCstop_onNext {f : FmtX} (hs : P s.mem) : OnNext P (execCstop h f s) :=
  issue_onNext hs fun _ _ ht => by simp [ht]

theorem execCread_onNext {f : FmtX} (hs : P s.mem) : OnNext P (execCread h f s) :=
  issue_onNext hs fun _ _ ht => by simp [ht]

theorem execRngrd_onNext {f : FmtX} (hs : P s.mem) : OnNext P (execRngrd h f s) :=
  issue_onNext hs fun _ _ ht => by simp [ht]

/-! ### Operations of Machine/Global -/

theorem gload_onNext {f : FmtM} {kind : AccKind} {u : KindUse} (hs : P s.mem) : OnNext P (gload i h f kind u s) :=
  issue_onNext hs fun _ _ ht => by simp [ht]

theorem gstore_onNext {f : FmtM} {kind : AccKind} {u : KindUse} (hs : P s.mem) : OnNext P (gstore i h f kind u s) :=
  issue_onNext hs fun _ _ ht => by simp [ht]

theorem execClrf_onNext {f : FmtM} (hs : P s.mem) : OnNext P (execClrf h f s) :=
  issue_onNext hs fun _ _ ht => by simp [ht]

theorem atomic_onNext {f : FmtX} {kind : AccKind} (hs : P s.mem) : OnNext P (atomic i h f kind s) :=
  issue_onNext hs fun _ _ ht => by simp [ht]

theorem execFence_onNext {f : FmtM} (hs : P s.mem) : OnNext P (execFence h f s) :=
  issue_onNext hs fun t c ht => by
    have (x : Block) : P (if f.scope.toNat < 3 then t else t.setBlock (blockOf t.cur) x).mem := by split <;> exact ht
    simp [this]

/-! ### Operations of Machine/Sem -/

theorem execSinc_onNext {f : FmtX} (hs : P s.mem) : OnNext P (execSinc h f s) :=
  issue_onNext hs fun _ _ ht => by simp [ht]

theorem execSset_onNext {f : FmtX} (hs : P s.mem) : OnNext P (execSset h f s) :=
  issue_onNext hs fun _ _ ht => by simp [ht]

theorem execSrd_onNext {f : FmtX} (hs : P s.mem) : OnNext P (execSrd h f s) :=
  issue_onNext hs fun _ _ ht => by simp [ht]

theorem execSwait_onNext {f : FmtX} (hs : P s.mem) : OnNext P (execSwait h f s) :=
  issue_onNext hs fun _ _ ht => by simp [ht]

theorem execSwaitd_onNext {f : FmtX} (hs : P s.mem) : OnNext P (execSwaitd h f s) :=
  issue_onNext hs fun _ _ ht => by simp [ht]

/-! ### Operations of Machine/Copy -/

theorem copyIssue_onNext {f : FmtX} {form : Nat} {shape useC : Bool} (hs : P s.mem) :
    OnNext P (copyIssue i h f form shape useC s) :=
  issue_onNext hs fun _ _ ht => by simp [ht]

/-! ### Operations of Machine/Eag -/

theorem execEagcfgW_onNext {f : FmtX} (hs : P s.mem) : OnNext P (execEagcfgW h f s) :=
  issue_onNext hs fun _ _ ht => by simp [ht]

theorem execEagcfgR_onNext {f : FmtX} (hs : P s.mem) : OnNext P (execEagcfgR h f s) :=
  issue_onNext hs fun _ _ ht => by simp [ht]

theorem eagGo_onNext {f : FmtX} {resume : Bool} (hs : P s.mem) : OnNext P (eagGo i h f resume s) :=
  issue_onNext hs fun _ _ ht => by
    refine needEag_quiet.then fun e => legal_quiet.then fun _ => ?_
    dsimp only
    generalize (if resume = true then State.eag _ e else ((State.eag _ e).setReg 16 0).setReg 17 0) = g
    split <;> simp [ht]

theorem execEaggoStop_onNext {f : FmtX} (hs : P s.mem) : OnNext P (execEaggoStop h f s) :=
  issue_onNext hs fun _ _ ht => by
    split
    · exact ht
    · dsimp only
      split <;> exact ht

/-! ### Operations of Machine/EventUnit -/

theorem execEvarr_onNext {f : FmtX} (hs : P s.mem) : OnNext P (execEvarr h f s) :=
  issue_onNext hs fun _ _ ht => by simp [ht]

theorem execEvcmb_onNext {f : FmtX} (hs : P s.mem) : OnNext P (execEvcmb h f s) :=
  issue_onNext hs fun _ _ ht => by simp [ht]

theorem execEvwaitB_onNext {f : FmtX} (hs : P s.mem) : OnNext P (execEvwaitB h f s) :=
  issue_onNext hs fun _ _ ht => by simp [ht]

theorem execEvwaitE_onNext {f : FmtX} (hs : P s.mem) : OnNext P (execEvwaitE h f s) :=
  issue_onNext hs fun _ _ ht => by simp [ht]

theorem execEvsig_onNext {f : FmtX} (hs : P s.mem) : OnNext P (execEvsig h f s) :=
  issue_onNext hs fun _ _ ht => by simp [ht]

theorem execEvlock_onNext {f : FmtX} (hs : P s.mem) : OnNext P (execEvlock h f s) :=
  issue_onNext hs fun _ _ ht => by simp [ht]

theorem execEvunlk_onNext {f : FmtX} (hs : P s.mem) : OnNext P (execEvunlk h f s) :=
  issue_onNext hs fun _ _ ht => by simp [ht]

/-! ### Operations of Machine/Vec -/

theorem vecIssue_onNext {f : FmtV} {sh : VShape} (hs : P s.mem) : OnNext P (vecIssue i h f sh s) :=
  issue_onNext hs fun _ _ ht => by simp [ht]

theorem execVsetl_onNext {f : FmtV} (hs : P s.mem) : OnNext P (execVsetl h f s) :=
  issue_onNext hs fun _ _ ht => by simp [ht]

/-! ### Operations of Machine/Matrix -/

theorem execMgang_onNext {f : FmtX} (hs : P s.mem) : OnNext P (execMgang h f s) :=
  issue_onNext hs fun _ _ ht => by simp [ht]

theorem execMleaveRsv_onNext {f : FmtX} (hs : P s.mem) : OnNext P (execMleaveRsv h f s) :=
  issue_onNext hs fun _ _ ht => by simp [ht]

theorem execMleaveRel_onNext {f : FmtX} (hs : P s.mem) : OnNext P (execMleaveRel h f s) :=
  issue_onNext hs fun _ _ ht => by simp [ht]

theorem transfer_onNext {accs : List Nat} {v : Nat} {clr : Bool} (hs : P s.mem) : OnNext P (transfer i h accs v clr s) :=
  issue_onNext hs fun _ _ ht => by simp [ht]

theorem execMscl_onNext {f : FmtX} (hs : P s.mem) : OnNext P (execMscl h f s) :=
  issue_onNext hs fun _ _ ht => by simp [ht]

theorem execMsclRd_onNext {f : FmtX} (hs : P s.mem) : OnNext P (execMsclRd h f s) :=
  issue_onNext hs fun _ _ ht => by simp [ht]

theorem execMstat_onNext {f : FmtX} (hs : P s.mem) : OnNext P (execMstat h f s) :=
  issue_onNext hs fun _ _ ht => by simp [ht]

theorem execMcut_onNext {f : FmtX} (hs : P s.mem) : OnNext P (execMcut h f s) :=
  issue_onNext hs fun _ _ ht => by simp [ht]

theorem execMcutOff_onNext {f : FmtX} (hs : P s.mem) : OnNext P (execMcutOff h f s) :=
  issue_onNext hs fun _ _ ht => by simp [ht]

theorem execMsync_onNext {f : FmtX} (hs : P s.mem) : OnNext P (execMsync h f s) :=
  issue_onNext hs fun _ _ ht => by simp [ht]

/-! ### Operations of Machine/Pred -/

theorem predIssue_onNext {f : FmtX} (hs : P s.mem) : OnNext P (predIssue i h f s) :=
  issue_onNext hs fun _ _ ht => by simp [ht]

theorem execPstat_onNext {f : FmtX} (hs : P s.mem) : OnNext P (execPstat h f s) :=
  issue_onNext hs fun _ _ ht => by simp [ht]

/-! ### Operations of Machine/Exchange -/

theorem execXsend_onNext {f : FmtX} (hs : P s.mem) : OnNext P (execXsend h f s) :=
  issue_onNext hs fun _ _ ht => by simp [ht]

theorem execXpost_onNext {f : FmtX} (hs : P s.mem) : OnNext P (execXpost h f s) :=
  issue_onNext hs fun _ _ ht => by simp [ht]

theorem execXgrant_onNext {f : FmtX} (hs : P s.mem) : OnNext P (execXgrant h f s) :=
  issue_onNext hs fun _ _ ht => by simp [ht]

theorem execXdone_onNext {f : FmtX} (hs : P s.mem) : OnNext P (execXdone h f s) :=
  issue_onNext hs fun _ _ ht => by simp [ht]

theorem execXstat_onNext {f : FmtX} (hs : P s.mem) : OnNext P (execXstat h f s) :=
  issue_onNext hs fun _ _ ht => by simp [ht]

/-! ### Operations of Machine/Supervisor -/

theorem execQfwd_onNext {f : FmtX} (hs : P s.mem) : OnNext P (execQfwd h f s) :=
  issue_onNext hs fun _ _ ht => by simp [ht]

theorem execParkCut_onNext {f : FmtX} (hs : P s.mem) : OnNext P (execParkCut h f s) :=
  issue_onNext hs fun _ _ ht => by simp [ht]

theorem execParkSelf_onNext {f : FmtX} (hs : P s.mem) : OnNext P (execParkSelf h f s) :=
  issue_onNext hs fun _ _ ht => by simp [ht]

theorem execReinj_onNext {f : FmtX} (hs : P s.mem) : OnNext P (execReinj h f s) :=
  issue_onNext hs fun _ _ ht => by simp [ht]

theorem ptest_onNext {f : FmtX} {sel limit : Nat} (hs : P s.mem) : OnNext P (ptest i h f sel limit s) :=
  issue_onNext hs fun _ _ ht => by simp [ht]

theorem execWdogSet_onNext {f : FmtX} (hs : P s.mem) : OnNext P (execWdogSet h f s) :=
  issue_onNext hs fun _ _ ht => by simp [ht]

theorem execWdogOff_onNext {f : FmtX} (hs : P s.mem) : OnNext P (execWdogOff h f s) :=
  issue_onNext hs fun _ _ ht => by simp [ht]

end

end Sys2Proof.Machine
end

section
/-! SUPPORT. The other operations that leave the module's memory. -/

namespace Sys2Proof.Machine

open Sys2Proof

section
variable {P : Memory → Prop} {s : State}

/-! ### Operations of Machine/System -/

theorem execSvcReply_onNext {cell n : Nat} (hs : P s.mem) : OnNext P (execSvcReply cell n s) := by
  unfold execSvcReply
  dsimp only
  split
  · split
    · refine onNext_ite.mpr ⟨fun _ => ?_, fun _ => by simpa using hs⟩
      rw [onNext_next, State.asyncWrite_getD_mem _ s (hu := by simp)]
      exact hs
    · exact hs
  · exact hs

theorem execTaskDispatch_onNext {cell : Nat} (hs : P s.mem) :
    OnNext P (execTaskDispatch cell s) := by simp [execTaskDispatch, hs]

theorem execPriorityAging_onNext {cell : Nat} (hs : P s.mem) : OnNext P (execPriorityAging cell s) := by
  simp [execPriorityAging, hs]

theorem execWatchdogSleepLimit_onNext {cell : Nat} (hs : P s.mem) : OnNext P (execWatchdogSleepLimit cell s) := by
  simp [execWatchdogSleepLimit, hs]

theorem execIstoreFetchError_onNext {cell : Nat} (hs : P s.mem) : OnNext P (execIstoreFetchError cell s) := by
  simp [execIstoreFetchError, hs]

/-! ### Operations of Machine/QueueEvents -/

theorem execQueueMessageStoreDeferred_onNext {cell port : Nat} (hs : P s.mem) :
    OnNext P (execQueueMessageStoreDeferred cell port s) := by
  unfold execQueueMessageStoreDeferred
  dsimp only
  split
  · exact hs
  · rw [onNext_next, State.accept_getD_mem _ s (hu := by simp)]
    exact hs

theorem execWordAck_onNext {cell : Nat} (hs : P s.mem) : OnNext P (execWordAck cell s) := by simp [execWordAck, hs]
theorem execWordNack_onNext {cell : Nat} (hs : P s.mem) : OnNext P (execWordNack cell s) := by simp [execWordNack, hs]

theorem execSuspendedResend_onNext {src : Src} (hs : P s.mem) : OnNext P (execSuspendedResend src s) := by
  simp [execSuspendedResend, hs]

theorem execLaggardTimeout_onNext {cell port : Nat} (hs : P s.mem) : OnNext P (execLaggardTimeout cell port s) := by
  unfold execLaggardTimeout
  dsimp only
  (repeat' split) <;> simp [hs]

theorem execCounterChainEmit_onNext {cell : Nat} (hs : P s.mem) : OnNext P (execCounterChainEmit cell s) := by
  unfold execCounterChainEmit
  dsimp only
  refine onNext_ite.mpr ⟨fun _ => hs, fun _ => onNext_ite.mpr ⟨fun _ => hs, fun _ => ?_⟩⟩
  split
  · exact hs
  · next t h =>
    have ht : t.mem = s.mem := by
      split at h
      · obtain rfl := Option.some.inj h
        simp
      · split at h
        · exact (State.accept_mem h).trans (State.setCell_mem ..)
        · exact nomatch h
    rw [← ht] at hs
    exact onNext_ite.mpr ⟨fun _ => hs, fun _ => hs⟩

/-! ### Operations of Machine/Copy -/

theorem execCopyStart_onNext {block : Nat} (hs : P s.mem) : OnNext P (execCopyStart block s) := by
  simp only [execCopyStart]
  split <;> simp [hs]

/-! ### Operations of Machine/Eag -/

theorem execEagcfgReadReply_onNext {cell : Nat} (hs : P s.mem) : OnNext P (execEagcfgReadReply cell s) := by
  unfold execEagcfgReadReply
  dsimp only
  split
  · exact hs
  · rw [onNext_next, State.asyncWrite_getD_mem _ s (hu := by simp)]
    exact hs

theorem execEagElementCommit_onNext {e : Nat} (hs : P s.mem) : OnNext P (execEagElementCommit e s) := by
  unfold execEagElementCommit
  dsimp only
  (repeat' split) <;> simp [hs]

/-! ### Operations of Machine/EventUnit -/

theorem execEventApply_onNext {st : Nat} (hs : P s.mem) : OnNext P (execEventApply st s) := by
  unfold execEventApply
  dsimp only
  rw [onNext_next, State.evSettle_mem, foldl_mem _ (fun s x => s.evChange_mem st x), State.setStrip_mem, State.evDue_mem]
  exact hs

theorem execEventUpMessage_onNext {st : Nat} (hs : P s.mem) : OnNext P (execEventUpMessage st s) := by
  simp only [execEventUpMessage]
  split <;> simp [hs]

theorem execEventDownMessage_onNext {st : Nat} (hs : P s.mem) : OnNext P (execEventDownMessage st s) := by
  simp only [execEventDownMessage]
  split <;> simp [hs]

theorem execEventParentFire_onNext {st : Nat} (hs : P s.mem) : OnNext P (execEventParentFire st s) := by
  unfold execEventParentFire
  dsimp only
  (repeat' split) <;> simp [hs]

/-! ### Operations of Machine/VecRun -/

theorem execVectorPortStart_onNext {k : Nat} (hs : P s.mem) : OnNext P (execVectorPortStart k s) := by
  unfold execVectorPortStart
  dsimp only
  (repeat' split) <;> simp [hs]

theorem execVectorCompletion_onNext {k n : Nat} (hs : P s.mem) : OnNext P (execVectorCompletion k n s) := by
  unfold execVectorCompletion
  dsimp only
  (repeat' split) <;> simp [hs]

/-! ### Operations of Machine/Array -/

theorem execGroupFormation_onNext {st : Nat} (hs : P s.mem) : OnNext P (execGroupFormation st s) := by
  simp only [execGroupFormation]
  split <;> simp [hs]

theorem execGangLeaveRequest_onNext {st : Nat} (hs : P s.mem) : OnNext P (execGangLeaveRequest st s) := by
  unfold execGangLeaveRequest
  dsimp only
  (repeat' split) <;> simp [hs]

theorem execGangStart_onNext {st : Nat} (hs : P s.mem) : OnNext P (execGangStart st s) := by
  simp only [execGangStart]
  split <;> simp [hs]

theorem execGangCompletion_onNext {st k : Nat} {rf : List Refire} (hs : P s.mem) : OnNext P (execGangCompletion st k rf s) := by
  unfold execGangCompletion
  dsimp only
  split
  · exact hs
  · refine onNext_ite.mpr ⟨fun _ => hs, fun _ => onNext_ite.mpr ⟨fun _ => hs, fun _ => ?_⟩⟩
    rw [onNext_next, State.settleRel_mem, foldl_mem _ (fun s r => s.softError_mem ..), State.trace_mem, State.fireGroup_mem,
      State.setStripMat_mem, apply_ite State.mem, State.giveLeave_mem, ite_self, State.gangResult_mem,
      foldl_mem _ (fun s y => s.accCheck_mem ..)]
    exact hs

theorem execMatrixTransferComplete_onNext {cell k : Nat} (hs : P s.mem) : OnNext P (execMatrixTransferComplete cell k s) := by
  unfold execMatrixTransferComplete
  dsimp only
  (repeat' split) <;> simp [hs]

/-! ### Operations of Machine/Pred -/

theorem execPredicateReadPhase_onNext {k : Nat} (hs : P s.mem) : OnNext P (execPredicateReadPhase k s) := by
  unfold execPredicateReadPhase
  dsimp only
  (repeat' split) <;> simp [hs]

theorem execPredicateHandoff_onNext {k seq : Nat} (hs : P s.mem) : OnNext P (execPredicateHandoff k seq s) := by
  simp only [execPredicateHandoff]
  split <;> simp [hs]

theorem execStageBSettle_onNext {quad n : Nat} {rf : List Refire} (hs : P s.mem) : OnNext P (execStageBSettle quad n rf s) := by
  simp only [execStageBSettle]
  split <;> simp [hs]

theorem execStageCBurstStart_onNext {quad : Nat} (hs : P s.mem) : OnNext P (execStageCBurstStart quad s) := by
  unfold execStageCBurstStart
  dsimp only
  (repeat' split) <;> simp [hs]

theorem execStageCLaneSettle_onNext {quad : Nat} {rf : List Refire} (hs : P s.mem) :
    OnNext P (execStageCLaneSettle quad rf s) := by
  unfold execStageCLaneSettle
  dsimp only
  (repeat' split) <;> simp [hs]

theorem execPredicateCompletion_onNext {k n : Nat} (hs : P s.mem) : OnNext P (execPredicateCompletion k n s) := by
  simp only [execPredicateCompletion]
  split <;> simp [hs]

/-! ### Operations of Machine/Exchange -/

theorem execXaPostArrival_onNext {gn part : Nat} (hs : P s.mem) : OnNext P (execXaPostArrival gn part s) := by
  unfold execXaPostArrival
  split
  · exact hs
  · dsimp only
    split
    · exact hs
    · refine onNext_ite.mpr ⟨fun _ => hs, fun _ => ?_⟩
      split
      · exact hs
      · next h => rw [onNext_next, State.modCell_mem, State.takePost_mem h]; exact hs

theorem execXpostAck_onNext {gn part : Nat} (hs : P s.mem) : OnNext P (execXpostAck gn part s) := by
  unfold execXpostAck
  dsimp only
  (repeat' split) <;> simp [hs]

theorem execRoundDeadline_onNext {gn : Nat} (hs : P s.mem) : OnNext P (execRoundDeadline gn s) := by
  simp only [execRoundDeadline]
  split <;> simp [hs]

theorem execCalendarWrite_onNext {gn part : Nat} (hs : P s.mem) : OnNext P (execCalendarWrite gn part s) := by
  unfold execCalendarWrite
  dsimp only
  (repeat' split) <;> simp [hs]

theorem execXdoneComplete_onNext {gn part : Nat} (hs : P s.mem) : OnNext P (execXdoneComplete gn part s) := by
  unfold execXdoneComplete
  dsimp only
  (repeat' split) <;> simp [hs]

theorem execXaHeartbeat_onNext {gn : Nat} (hs : P s.mem) : OnNext P (execXaHeartbeat gn s) := by
  simp only [execXaHeartbeat]
  split <;> simp [hs]

theorem execXaStandbyTakeover_onNext {gn : Nat} (hs : P s.mem) : OnNext P (execXaStandbyTakeover gn s) := by
  unfold execXaStandbyTakeover
  dsimp only
  refine onNext_ite.mpr ⟨fun _ => ?_, fun _ => hs⟩
  rw [onNext_next, foldl_mem _ (fun s p => ?_)]
  · exact hs
  · split <;> rfl

/-! ### Operations of Machine/Contain -/

theorem execTaggedStructureError_onNext {dom : BitVec 12} (hs : P s.mem) : OnNext P (execTaggedStructureError dom s) := by
  simp [execTaggedStructureError, hs]

theorem execCutParkComplete_onNext {cell : Nat} (hs : P s.mem) : OnNext P (execCutParkComplete cell s) := by
  unfold execCutParkComplete
  split
  · rw [onNext_next]
    split <;> simpa using hs
  · exact hs

theorem execCctlPark_onNext {cell : Nat} (hs : P s.mem) : OnNext P (execCctlPark cell s) := by simp [execCctlPark, hs]

theorem execCctlResume_onNext {cell : Nat} {rpl : Bool} (hs : P s.mem) : OnNext P (execCctlResume cell rpl s) := by
  simp [execCctlResume, hs]

theorem execRmParkEffect_onNext {cell : Nat} (hs : P s.mem) :
    OnNext P (execRmParkEffect cell s) := by simp [execRmParkEffect, hs]

theorem execCctlAbort_onNext {cell : Nat} (hs : P s.mem) : OnNext P (execCctlAbort cell s) := by simp [execCctlAbort, hs]
theorem execSinkReplay_onNext {cell : Nat} (hs : P s.mem) : OnNext P (execSinkReplay cell s) := by simp [execSinkReplay, hs]

theorem execOraReattach_onNext {cell port : Nat} {mask : BitVec 8} (hs : P s.mem) :
    OnNext P (execOraReattach cell port mask s) := by
  unfold execOraReattach
  rw [onNext_next, getD_mem (fun _ => State.writeOra_mem) (State.refuseCellWrite_mem ..)]
  exact hs

/-! ### Operations of Machine/Calls -/

theorem execGateForward_onNext {call : CallId} (hs : P s.mem) : OnNext P (execGateForward call s) := by
  unfold execGateForward
  dsimp only
  (repeat' split) <;> simp [hs]

theorem execServiceBadFunc_onNext {call : CallId} (hs : P s.mem) : OnNext P (execServiceBadFunc call s) := by
  simp only [execServiceBadFunc]
  split <;> simp [hs]

/-! ### Operations of Machine/Tiles -/

theorem execAccessReply_onNext {cell k : Nat} (hs : P s.mem) : OnNext P (execAccessReply cell k s) := by
  unfold execAccessReply
  dsimp only
  split
  · exact hs
  · split
    · refine onNext_ite.mpr ⟨fun _ => ?_, fun _ => by simpa using hs⟩
      rw [onNext_next, State.asyncWrite_getD_mem _ s (hu := by simp)]
      exact hs
    · simp [hs]
    · exact hs

theorem execCombineFlushTimeout_onNext {block : Nat} (hs : P s.mem) : OnNext P (execCombineFlushTimeout block s) := by
  simp [execCombineFlushTimeout, hs]

theorem execBackgroundScrub_onNext {g : ParityGroup} {row : Nat} (hs : P s.mem) : OnNext P (execBackgroundScrub g row s) := by
  unfold execBackgroundScrub
  split
  · rw [onNext_next, foldl_mem _ (fun s x => s.spoil_mem ..)]
    exact hs
  · simp [hs]

theorem execTranslationMissRequest_onNext {cell : Nat} (hs : P s.mem) : OnNext P (execTranslationMissRequest cell s) := by
  simp only [execTranslationMissRequest]
  split <;> simp [hs]

theorem execTranslationFill_onNext {pager : Nat} (hs : P s.mem) : OnNext P (execTranslationFill pager s) := by
  unfold execTranslationFill
  dsimp only
  (repeat' split) <;> simp [hs]

theorem execTranslationInvalidate_onNext {cache : CacheId} {va len : Nat} {dom : BitVec 12} (hs : P s.mem) :
    OnNext P (execTranslationInvalidate cache va len dom s) := by
  unfold execTranslationInvalidate
  dsimp only
  (repeat' split) <;> simp [hs]

theorem execOwnerHoldExpiry_onNext {region : Nat} (hs : P s.mem) : OnNext P (execOwnerHoldExpiry region s) := by
  simp only [execOwnerHoldExpiry]
  split <;> simp [hs]

/-! ### Operations of Machine/Phase -/

theorem phaseTurn_onNext {takes : Nat → Bool} {cell : Nat} (hs : P s.mem) : OnNext P (phaseTurn takes cell s) := by
  simp only [phaseTurn]
  split <;> simp [hs]

theorem execBorrowGrantDeferred_onNext {root : Nat} (hs : P s.mem) : OnNext P (execBorrowGrantDeferred root s) := by
  simp only [execBorrowGrantDeferred]
  split <;> simp [hs]

/-! ### Operations of Machine/Links -/

theorem execLinkTrain_onNext {port peer : Nat} {lanes : BitVec 8} (hs : P s.mem) :
    OnNext P (execLinkTrain port peer lanes s) := by
  simp [execLinkTrain, hs]

theorem execLossOfLink_onNext {port : Nat} {lost : BitVec 8} (hs : P s.mem) : OnNext P (execLossOfLink port lost s) := by
  simp [execLossOfLink, hs]

theorem execLinkReplayRequest_onNext {port : Nat} {fseq : BitVec 12} (hs : P s.mem) :
    OnNext P (execLinkReplayRequest port fseq s) := by
  simp [execLinkReplayRequest, hs]

theorem execPacketAck_onNext {dstModule : Nat} {vc : BitVec 2} (hs : P s.mem) : OnNext P (execPacketAck dstModule vc s) := by
  simp only [execPacketAck]
  split <;> simp [hs]

theorem execFlitReceive_onNext {port : Nat} {flit : Flit} (hs : P s.mem) : OnNext P (execFlitReceive port flit s) := by
  unfold execFlitReceive
  dsimp only
  (repeat' split) <;> simp [hs]

theorem execRouteSwitch_onNext {plane : Nat} {act : Bool} (hs : P s.mem) : OnNext P (execRouteSwitch plane act s) := by
  simp [execRouteSwitch, hs]

theorem execRouteTableWrite_onNext {plane : Nat} {value : BitVec 12} (hs : P s.mem) :
    OnNext P (execRouteTableWrite plane value s) := by
  simp [execRouteTableWrite, hs]

/-! ### Operations of Machine/Supervisor -/

theorem execPtestReply_onNext {cell : Nat} (hs : P s.mem) : OnNext P (execPtestReply cell s) := by
  unfold execPtestReply
  dsimp only
  split
  · rw [onNext_next, State.asyncWrite_getD_mem _ s (hu := by simp)]
    exact hs
  · exact hs

theorem execRmWatchdogExpiry_onNext {cell : Nat} (hs : P s.mem) : OnNext P (execRmWatchdogExpiry cell s) := by
  simp only [execRmWatchdogExpiry]
  split <;> simp [hs]

/-! ### Operations of Machine/ConfigStream -/

theorem runWrite_onNext {m : Master} {off f : Nat} {v : BitVec 32} (hs : P s.mem) : OnNext P (runWrite m off f v s) := by
  unfold runWrite
  exact onNext_ite.mpr ⟨fun _ => hs, fun _ => onNext_ite.mpr ⟨fun _ => hs, fun _ =>
    runCommand_onNext hs fun _ _ ht => writeField_after ht⟩⟩

theorem execBase_onNext {m : Master} {sp : BitVec 3} {e : BitVec 18} (hs : P s.mem) : OnNext P (execBase m sp e s) := by
  unfold execBase
  exact onNext_ite.mpr ⟨fun _ => hs, fun _ => runCommand_onNext hs fun _ _ ht => by simp [ht]⟩

theorem execIstore_onNext {m : Master} {o : BitVec 10} {i : BitVec 11} {d : Word} (hs : P s.mem) :
    OnNext P (execIstore m o i d s) :=
  runCommand_onNext hs fun _ _ ht => by simp [ht]

theorem execLstore_onNext {m : Master} {o : BitVec 10} {w : BitVec 14} {d : Word} (hs : P s.mem) :
    OnNext P (execLstore m o w d s) := by
  unfold execLstore
  exact onNext_ite.mpr ⟨fun _ => hs, fun _ => runCommand_onNext hs fun _ _ ht => by simp [ht]⟩

theorem execStart_onNext {m : Master} {o : BitVec 10} (hs : P s.mem) : OnNext P (execStart m o s) :=
  runCommand_onNext hs fun _ _ ht => by simp [ht]

/-! ### Operations of Machine/Window -/

theorem execFaultQueuePop_onNext {row : Nat} (hs : P s.mem) : OnNext P (execFaultQueuePop row s) := by
  unfold execFaultQueuePop
  rw [onNext_next, State.popFault_mem]
  exact hs

theorem execMtstatReadClear_onNext {b : Nat} (hs : P s.mem) : OnNext P (execMtstatReadClear b s) := hs

theorem execHeartbeatTick_onNext {row : Nat} (hs : P s.mem) : OnNext P (execHeartbeatTick row s) := by
  simp [execHeartbeatTick, hs]

theorem execRowManagerTakeover_onNext {row next : Nat} (hs : P s.mem) : OnNext P (execRowManagerTakeover row next s) := by
  simp [execRowManagerTakeover, hs]

theorem execSharedControlError_onNext {u : SharedUnit} (hs : P s.mem) : OnNext P (execSharedControlError u s) := by
  cases u with
  | router _ | copyEngine _ => exact hs
  | tile b => simpa [execSharedControlError] using hs
  | crossbar =>
    rw [execSharedControlError, onNext_next, foldl_mem _ State.resetPort_mem]
    exact hs

theorem execInServiceRepair_onNext {action : Repair} (hs : P s.mem) : OnNext P (execInServiceRepair action s) := by
  simp only [execInServiceRepair]
  split <;> simp [hs]

/-! ### Operations of Machine/Alloc -/

theorem execEntry_onNext {id : CallId} (hs : P s.mem) : OnNext P (execEntry id s) :=
  serve_onNext hs fun _ => by split <;> exact hs

/-! ### Operations of Machine/Wake -/

theorem execTaskWake_onNext {cell : Nat} (hs : P s.mem) : OnNext P (execTaskWake cell s) := by
  unfold execTaskWake
  dsimp only
  (repeat' split) <;> simp [hs]

/-! ### Operations of Machine/Debug -/

theorem execFreezePin_onNext  (hs : P s.mem) : OnNext P (execFreezePin s) := by simp [execFreezePin, hs]
theorem execMdlctlFreeze_onNext {row : Nat} (hs : P s.mem) : OnNext P (execMdlctlFreeze row s) := by simp [execMdlctlFreeze, hs]

theorem execFreezeStop_onNext  (hs : P s.mem) : OnNext P (execFreezeStop s) := by
  simp only [execFreezeStop]
  split <;> simp [hs]

theorem execFrozenNotice_onNext {port : Nat} (hs : P s.mem) :
    OnNext P (execFrozenNotice port s) := by simp [execFrozenNotice, hs]

theorem execThawedNotice_onNext {port : Nat} (hs : P s.mem) :
    OnNext P (execThawedNotice port s) := by simp [execThawedNotice, hs]

theorem execExtest_onNext  (hs : P s.mem) : OnNext P (execExtest s) := by simp [execExtest, hs]
theorem execSamplePreload_onNext  (hs : P s.mem) : OnNext P (execSamplePreload s) := by simp [execSamplePreload, hs]
theorem execIdcode_onNext  (hs : P s.mem) : OnNext P (execIdcode s) := by simp [execIdcode, hs]
theorem execBypass_onNext  (hs : P s.mem) : OnNext P (execBypass s) := by simp [execBypass, hs]
theorem execMdlsel_onNext {data : Word} (hs : P s.mem) : OnNext P (execMdlsel data s) := by simp [execMdlsel, hs]
theorem execMdllanes_onNext {on : Bool} (hs : P s.mem) : OnNext P (execMdllanes on s) := by simp [execMdllanes, hs]
theorem execMdlread_onNext  (hs : P s.mem) : OnNext P (execMdlread s) := by simp [execMdlread, hs]

theorem execMdlresume_onNext  (hs : P s.mem) : OnNext P (execMdlresume s) := by
  simp only [execMdlresume]
  split <;> simp [hs]

theorem execPcSample_onNext {cell : Nat} (hs : P s.mem) : OnNext P (execPcSample cell s) := by simp [execPcSample, hs]
theorem execTraceTime_onNext {row : Nat} (hs : P s.mem) : OnNext P (execTraceTime row s) := by simp [execTraceTime, hs]

/-! ### Operations of Machine/Graphs -/

theorem execLoadStart_onNext {n : Nat} (hs : P s.mem) : OnNext P (execLoadStart n s) := by
  unfold execLoadStart
  split
  · rw [onNext_next, foldl_mem _ State.startCell_mem]
    exact hs
  · exact hs

theorem execLoadMark_onNext {serial : Nat} (hs : P s.mem) : OnNext P (execLoadMark serial s) := by
  simp only [execLoadMark]
  split <;> simp [hs]

theorem execWait_onNext {id : CallId} (hs : P s.mem) : OnNext P (execWait id s) :=
  serve_onNext hs fun _ => onGraph_onMem hs fun _ => by simp [hs]

theorem execKill_onNext {id : CallId} (hs : P s.mem) : OnNext P (execKill id s) :=
  serve_onNext hs fun _ => onGraph_onMem hs fun _ => by simpa using hs

/-! ### Operations of Machine/HostPort -/

theorem execHostDoorbell_onNext {port queue : Nat} {tag : BitVec 3} {data : Word} (hs : P s.mem) :
    OnNext P (execHostDoorbell port queue tag data s) := by
  simp [execHostDoorbell, hs]

theorem execIqStatClear_onNext {port queue : Nat} {data : Word} (hs : P s.mem) :
    OnNext P (execIqStatClear port queue data s) := by
  simp [execIqStatClear, hs]

theorem execDoorbellPush_onNext {port queue : Nat} (hs : P s.mem) : OnNext P (execDoorbellPush port queue s) := by
  simp only [execDoorbellPush]
  split <;> simp [hs]

theorem execHostRingWrite_onNext {port queue : Nat} {src : Src} (hs : P s.mem) :
    OnNext P (execHostRingWrite port queue src s) := by
  unfold execHostRingWrite
  dsimp only
  (repeat' split) <;> simp [hs]

theorem execHostBarWrite_onNext {port addr size : Nat} {data : Word} (hs : P s.mem) :
    OnNext P (execHostBarWrite port addr size data s) := by
  simp [execHostBarWrite, hs]

theorem execHostPortTrain_onNext {port : Nat} {x8 : Bool} (hs : P s.mem) : OnNext P (execHostPortTrain port x8 s) := by
  simp [execHostPortTrain, hs]

/-! ### Operations of Machine/Power -/

theorem execLeaveGrant_onNext {block : Nat} (hs : P s.mem) : OnNext P (execLeaveGrant block s) := by
  simp only [execLeaveGrant]
  split <;> simp [hs]

theorem execEntdaa_onNext {addr : BitVec 7} (hs : P s.mem) : OnNext P (execEntdaa addr s) := by simp [execEntdaa, hs]

theorem execPcapWrite_onNext {value : BitVec 32} (hs : P s.mem) :
    OnNext P (execPcapWrite value s) := by simp [execPcapWrite, hs]

theorem execFwin_onNext {data : List Byte} (hs : P s.mem) : OnNext P (execFwin data s) := by simp [execFwin, hs]

theorem execThermalThrottleTick_onNext {temp : BitVec 16} (hs : P s.mem) : OnNext P (execThermalThrottleTick temp s) := by
  simp [execThermalThrottleTick, hs]

/-! ### Operations of Machine/Services -/

theorem execRoutes_onNext {id : CallId} (hs : P s.mem) : OnNext P (execRoutes id s) :=
  serve_onNext hs fun _ => State.withRecord_onMem hs fun r => by
    split
    · refine Answer.onMem_ite.mpr ⟨fun _ => hs, fun _ => State.withRecord_onMem hs fun r => ?_⟩
      split
      · exact hs
      · dsimp only
        refine Answer.onMem_ite.mpr ⟨fun _ => hs, fun _ => ?_⟩
        split <;> simp [hs]
    · exact hs

theorem execLogWrite_onNext {id : CallId} (hs : P s.mem) : OnNext P (execLogWrite id s) :=
  serve_onNext hs fun _ => by simpa using hs

theorem execLogFlush_onNext {id : CallId} (hs : P s.mem) : OnNext P (execLogFlush id s) :=
  serve_onNext hs fun _ => by simp [hs]

theorem execFwmin_onNext {id : CallId} (hs : P s.mem) : OnNext P (execFwmin id s) :=
  serve_onNext hs fun _ => by simp [hs]

end

end Sys2Proof.Machine
end

section
/-! SUPPORT. The writers of memory keep its canonical form. -/

namespace Sys2Proof.Machine

open Sys2Proof

/-- Folding steps that keep the form keeps it. -/
theorem foldl_wf {α : Type} (f : State → α → State) (hf : ∀ s x, s.mem.wf = true → (f s x).mem.wf = true)
    (xs : List α) : ∀ s : State, s.mem.wf = true → (xs.foldl f s).mem.wf = true := by
  induction xs with
  | nil => exact fun _ h => h
  | cons x xs ih => exact fun s h => ih (f s x) (hf s x h)

/-- A step repeated keeps what it keeps once. -/
theorem again_wf {f : State → State} (hf : ∀ s, s.mem.wf = true → (f s).mem.wf = true) (n : Nat) :
    ∀ s : State, s.mem.wf = true → (again f n s).mem.wf = true := by
  induction n with
  | zero => exact fun _ h => h
  | succ n ih => exact fun s h => ih (f s) (hf s h)

section
variable {s : State}

/-! ### Queue messages: a word that finds a suspended domain is spilled to memory -/

theorem State.reach_wf {src : Src} {k i : Nat} {ws : List QWord} (h : s.mem.wf = true) :
    (s.reach src k i ws).mem.wf = true := by
  unfold State.reach
  split
  · exact h
  · dsimp only
    split
    · simpa using h
    split
    · split
      · simpa using h
      · rw [State.ackWords_mem, State.markArrived_mem]
        exact foldl_wf _ (fun s x hs => s.spill_wf _ _ _ _ _ x hs) _ s h
    split
    · simpa using h
    split
    · simpa using h
    split
    · simpa using h
    · split <;> simpa using h

theorem State.alongCircuit_wf {src : Src} {e : CircuitEnd} {ws : List QWord} (h : s.mem.wf = true) :
    (s.alongCircuit src e ws).mem.wf = true := by
  cases e with
  | port k i => exact State.reach_wf h
  | channel p c =>
    unfold State.alongCircuit
    dsimp only
    split <;> simpa using h
  | nowhere => exact h

theorem State.moveMessage_wf {src : Src} {bad : Bool} (h : s.mem.wf = true) : (s.moveMessage src bad).mem.wf = true := by
  unfold State.moveMessage
  dsimp only
  split
  · exact h
  split
  · exact State.alongCircuit_wf h
  · split
    · exact h
    · exact State.alongCircuit_wf h
  · split
    · exact h
    split
    · simpa using h
    split
    · exact h
    · exact State.reach_wf h

theorem State.circuitError_wf {src : Src} (h : s.mem.wf = true) : (s.circuitError src).mem.wf = true := by
  unfold State.circuitError
  split
  · exact State.moveMessage_wf h
  · exact h

theorem State.circuitWords_wf {p c : Nat} {ws : List QWord} (h : s.mem.wf = true) : (s.circuitWords p c ws).mem.wf = true := by
  unfold State.circuitWords
  split
  · dsimp only
    split
    · exact h
    · exact State.reach_wf h
  · dsimp only
    split
    · exact h
    · simpa using h
  · exact h

/-! ### Words that a tile or an engine writes -/

theorem State.fillWord_wf {a : Nat} {v : Word} {rpl : Bool} (h : s.mem.wf = true) : (s.fillWord a v rpl).1.mem.wf = true := by
  have hw := s.gwrite_wf a 8 v.toNat false h
  unfold State.fillWord
  dsimp only
  split
  · simpa using hw
  split
  · split
    · exact hw
    · exact h
  · split <;> exact h

theorem State.engineWrite_wf {a n : Nat} {v : Word} (h : s.mem.wf = true) : (s.engineWrite a n v).mem.wf = true :=
  s.gwrite_wf _ _ _ false h

theorem State.putWord_wf {b : Nat} {dom : BitVec 12} {va n : Nat} {v : Val} {who : Asker} {rpl : Bool} (h : s.mem.wf = true) :
    (s.putWord b dom va n v who rpl).1.mem.wf = true := by
  unfold State.putWord
  split
  · simpa using h
  · simpa using h
  · dsimp only
    split
    · exact h
    · simpa using h
    · split
      · simpa using h
      split
      · simpa using h
      split
      · simpa using State.fillWord_wf h
      · simpa using State.engineWrite_wf h

theorem State.engineHeld_wf {who : Asker} {a : Nat} (h : s.mem.wf = true) : (s.engineHeld who a).mem.wf = true := by
  unfold State.engineHeld
  dsimp only
  split
  · simpa using h
  · simpa using State.engineWrite_wf h
  · exact h

/-! ### Copies -/

theorem State.writeCopyWord_wf {b w : Nat} {m : CopyCmd} {v : Val} (h : s.mem.wf = true) :
    (s.writeCopyWord b w m v).mem.wf = true := by
  unfold State.writeCopyWord
  dsimp only
  split
  · split
    · exact h
    · simpa using h
  split
  · simpa using h
  · simpa using State.putWord_wf h

theorem State.moveWord_wf {b cell seq w : Nat} (h : s.mem.wf = true) : (s.moveWord b cell seq w).mem.wf = true := by
  unfold State.moveWord
  extract_lets find s1 ready s2 s3
  have h1 : s1.mem.wf = true := by
    unfold s1
    split <;> simpa using h
  have h2 : s2.mem.wf = true := by
    unfold s2
    split
    · split <;> simpa using h1
    · exact h1
  have h3 : s3.mem.wf = true := by
    unfold s3
    split
    · split
      · split
        · exact State.writeCopyWord_wf h2
        · exact h2
      · exact h2
    · exact h2
  split
  · split <;> simpa using h3
  · exact h3

theorem State.copyWord_wf {b n w : Nat} (h : s.mem.wf = true) : (s.copyWord b n w).mem.wf = true := by
  unfold State.copyWord
  split
  · split
    · exact State.moveWord_wf h
    · exact h
  · exact h

/-! ### The phases of an exchange -/

theorem State.takePiece_wf {gn : Nat} {no : BitVec 16} {sp : Nat × Nat} {k : Nat} (h : s.mem.wf = true) :
    (s.takePiece gn no sp k).mem.wf = true := by
  unfold State.takePiece
  split
  · exact h
  split
  · dsimp only
    split
    · simpa using h
    · simpa using h
    · exact h
    · split
      · simpa using h
      · simpa using h
      · split
        · simpa using h
        · split <;> simpa using State.putWord_wf h
  · exact h

theorem State.fillAsm_wf {gn : Nat} {no : BitVec 16} {k : Nat} {x : AsmWord} (h : s.mem.wf = true) :
    (s.fillAsm gn no k x).mem.wf = true := by
  unfold State.fillAsm
  extract_lets c w who gone settle
  have settled (t : State) (st : WordSt) (ht : t.mem.wf = true) : (settle t st).mem.wf = true := by
    unfold settle
    cases st with
    | done | failed | putting => simpa [gone] using ht
    | asked | got | nacked => exact ht
  split
  · exact settled _ _ h
  · exact settled _ _ (State.putWord_wf h)

theorem State.fillAll_wf {gn : Nat} {no : BitVec 16} {p k : Nat} {every : Bool} (h : s.mem.wf = true) :
    (s.fillAll gn no p k every).mem.wf = true := by
  unfold State.fillAll
  split
  · exact h
  · exact foldl_wf _ (fun _ _ hs => State.fillAsm_wf hs) _ _ h

theorem State.endFills_wf {gn : Nat} {no : BitVec 16} (h : s.mem.wf = true) : (s.endFills gn no).mem.wf = true := by
  refine foldl_wf _ (fun s p hs => ?_) _ _ h
  split
  · simpa using State.fillAll_wf hs
  · exact hs

/-! ### Accesses at the home tile -/

theorem State.atomicAt_wf {kind : AccKind} {a n : Nat} {sg : Bool} {mode : BitVec 3} {rnd : BitVec 32} {b c : Word}
    (h : s.mem.wf = true) : (s.atomicAt kind a n sg mode rnd b c).1.mem.wf = true := by
  unfold State.atomicAt
  dsimp only
  split
  · exact h
  · exact s.gwrite_wf _ _ _ _ h

theorem State.performAcc_wf {k n : Nat} {x : Access} (h : s.mem.wf = true) : (s.performAcc k x n).mem.wf = true := by
  unfold State.performAcc
  dsimp only
  split
  · simpa using h
  · split
    · simpa using h
    · split
      · next hd => simpa [State.defer_mem hd] using h
      · simpa using h
  · simpa using s.gwrite_wf _ _ _ false h
  · simpa using State.fillWord_wf h
  · simpa using h
  · split <;> simpa using State.atomicAt_wf h

theorem State.writeBytes_wf {a : Nat} {bs : SMap Byte} (h : s.mem.wf = true) : (s.writeBytes a bs).mem.wf = true := by
  refine foldl_wf _ (fun s n hs => ?_) _ _ h
  dsimp only
  split
  · exact s.gwrite_wf _ _ _ _ hs
  · refine foldl_wf _ (fun s j hs => ?_) _ _ hs
    split
    · exact s.gwrite_wf _ _ _ _ hs
    · exact hs

theorem State.performFar_wf {t : State} {m : Nat} {op : PacketOp} (h : s.mem.wf = true) (ht : s.performFar m op = some t) :
    t.mem.wf = true := by
  unfold State.performFar at ht
  dsimp only at ht
  split at ht
  · split at ht
    · obtain rfl := Option.some.inj ht
      rw [getD_mem (fun _ => State.defer_mem) (State.sendPacket_mem ..)]
      exact h
    · obtain rfl := Option.some.inj ht
      simpa using h
  · obtain rfl := Option.some.inj ht
    simpa using s.gwrite_wf _ _ _ false h
  · obtain rfl := Option.some.inj ht
    simpa using State.fillWord_wf h
  · obtain rfl := Option.some.inj ht
    simpa using h
  · obtain rfl := Option.some.inj ht
    simpa using State.writeBytes_wf h
  · split at ht
    · obtain rfl := Option.some.inj ht
      split <;> simpa using State.atomicAt_wf h
    · obtain rfl := Option.some.inj ht
      simpa using State.atomicAt_wf h
  · exact nomatch ht

theorem State.performEntry_wf {b : Nat} {e : CombEnt} (h : s.mem.wf = true) : (s.performEntry b e).mem.wf = true := by
  have hb : ((s.dropEntry b e.line).writeBytes (64 * e.line % 2 ^ 50) e.bytes).mem.wf = true :=
    State.writeBytes_wf (by simpa using h)
  unfold State.performEntry
  dsimp only
  split <;> simpa using hb

/-! ### Upsets and their repair -/

theorem State.rebuildVault_wf {us : SMap Upset} {w : Nat} {u : Upset} (h : s.mem.wf = true) :
    (s.rebuildVault us w u).mem.wf = true := by
  unfold State.rebuildVault
  split
  · exact Memory.wf_write _ _ _ _ h
  · simpa using h

theorem State.upsetAt_wf {a : Nat} {u : Upset} (h : s.mem.wf = true) : (s.upsetAt a u).mem.wf = true := by
  unfold State.upsetAt
  split
  · exact h
  · exact Memory.wf_write _ _ _ _ h

/-! ### Changes of pages -/

theorem State.finishChange_wf {x : Change} (h : s.mem.wf = true) : (s.finishChange x).mem.wf = true := by
  unfold State.finishChange
  extract_lets s1 hit s2
  have h2 : s2.mem.wf = true := by
    unfold s2
    split
    · exact h
    · exact h
    · split
      · extract_lets old n e s3 s4
        have h4 : s4.mem.wf = true := by
          unfold s4
          split <;> exact h
        simpa using State.movePage_wf _ _ _ _ h4
      · exact h
  split
  · simpa using h2
  · exact h2

theorem State.finishChanges_wf (h : s.mem.wf = true) : s.finishChanges.mem.wf = true :=
  foldl_wf _ (fun _ _ hs => State.finishChange_wf hs) _ _ h

theorem State.beginChange_wf {x : Change} (h : s.mem.wf = true) : (s.beginChange x).mem.wf = true :=
  State.finishChanges_wf h

/-! ### The host -/

theorem State.setLine_wf {a : Nat} {d : BitVec 512} (h : s.mem.wf = true) : (s.setLine a d).mem.wf = true :=
  foldl_wf _ (fun s _ hs => s.gwrite_wf _ _ _ _ hs) _ _ h

theorem State.performHost_wf {p a : Nat} {r : HostReq} (h : s.mem.wf = true) : (s.performHost p a r).mem.wf = true := by
  unfold State.performHost
  split
  · exact State.setLine_wf h
  · dsimp only
    split <;> simpa using h

theorem State.performHeld_wf {x : Nat × Deferred} (h : s.mem.wf = true) : (s.performHeld x).mem.wf = true := by
  unfold State.performHeld
  split
  · split
    · split
      · exact State.performAcc_wf h
      · exact h
    · exact h
  · split
    · exact State.performEntry_wf h
    · exact h
  · exact State.engineHeld_wf h
  · next m op _ =>
    cases ho : s.performFar m op with
    | none => exact h
    | some t => exact State.performFar_wf h ho
  · split <;> simpa using h
  · exact s.gwrite_wf _ _ _ _ h

end

section
variable {s : State}

/-! ### Packets of other modules -/

theorem some_wf {t u : State} (hu : u.mem.wf = true) (ht : some u = some t) : t.mem.wf = true :=
  Option.some.inj ht ▸ hu

theorem none_wf {t : State} (ht : none = some t) : t.mem.wf = true := nomatch ht

/-- An access that comes from another module: refused, put off, held for the host, or performed. -/
theorem farAccess_wf {t u : State} {m a b : Nat} {op : PacketOp} {d : Deferred} (h : s.mem.wf = true) (hu : u.mem.wf = true)
    (ht : (if populated a = false then some u else if s.vaultBusy a then none else if s.hostHeld a then some (s.holdAt b d)
      else s.performFar m op) = some t) : t.mem.wf = true :=
  of_ite_some (some_wf hu) (of_ite_some none_wf (of_ite_some (some_wf (by simpa using h)) (State.performFar_wf h))) ht

theorem State.deliver_wf {t : State} {m : Nat} {op : PacketOp} (h : s.mem.wf = true) (ht : s.deliver m op = some t) :
    t.mem.wf = true := by
  cases op with
  | reply => exact some_wf (by simpa using h) ht
  | nack => exact some_wf (by simpa using h) ht
  | retranslate => exact some_wf (by simpa using h) ht
  | retire => exact some_wf (by simpa using h) ht
  | discarded d vc e =>
    unfold State.deliver at ht
    dsimp only at ht
    split at ht
    · exact some_wf (by simpa using h) ht
    · exact some_wf h ht
  | ack => exact some_wf (by simpa using h) ht
  | words k i src ws =>
    cases src with
    | cell c p n =>
      match p, ht with
      | 8, ht =>
        match ws, ht with
        | [], ht | _ :: _ :: _, ht => exact some_wf h ht
        | [_], ht => exact of_ite_some none_wf (some_wf (by simpa using h)) ht
      | 0, ht | 1, ht | 2, ht | 3, ht | 4, ht | 5, ht | 6, ht | 7, ht | _ + 9, ht =>
        exact of_ite_some none_wf (some_wf (State.reach_wf h)) ht
    | eag | host | net | chain | sync | far | channel =>
      exact of_ite_some none_wf (some_wf (State.reach_wf h)) ht
  | exchange => exact some_wf (by simpa using h) ht
  | service => exact some_wf h ht
  | read | write | fill | clear | line | atomic => exact farAccess_wf h (by simpa using h) ht

/-! ### The windows of a row manager, and its core -/

theorem State.writePhysical_onMem {pa : Nat} {v : Word} (h : s.mem.wf = true) :
    (s.writePhysical pa v).OnMem (·.wf = true) := by
  simp [State.writePhysical, State.gwrite_wf, h]

theorem State.writeWindow_onMem {row a : Nat} {v : Word} (h : s.mem.wf = true) :
    (s.writeWindow row a v).OnMem (·.wf = true) := by
  unfold State.writeWindow
  refine WinRes.onMem_ite.mpr ⟨fun _ => ?_, fun _ => WinRes.onMem_ite.mpr ⟨fun _ => ?_, fun _ =>
    WinRes.onMem_ite.mpr ⟨fun _ => ?_, fun _ => ?_⟩⟩⟩
  · generalize a - 0x4000000000000 = pa
    exact State.writePhysical_onMem h
  · split
    · exact State.writeRowPages_onMem (P := (·.wf = true)) h
    · exact True.intro
  · generalize a - 0x70000000 = off
    exact State.writeEngineWindow_onMem (P := (·.wf = true)) h
  · split
    · next ho => rw [WinRes.onMem_ok, State.setOwnWord_mem ho]; exact h
    · exact True.intro

theorem State.hartStore_onMem {y a n : Nat} {v : Word} (h : s.mem.wf = true) :
    (s.hartStore y a n v).OnMem (·.wf = true) := by
  unfold State.hartStore
  dsimp only
  split
  · exact State.writeWindow_onMem h
  · split
    · exact State.writeWindow_onMem h
    · exact True.intro
    · exact True.intro

theorem hartWrite_after {y n : Nat} {a v : Word} (h : s.mem.wf = true) :
    After (fun _ => True) (fun t => t.mem.wf = true) (hartWrite s y a n v) := by
  have hs := s.hartStore_onMem (y := y) (a := uns a) (n := n) (v := v) h
  unfold hartWrite
  dsimp only
  split
  · trivial
  split
  · trivial
  split
  · next he => rw [he] at hs; exact hs
  · simpa using h
  · trivial
  · trivial

theorem hartStoreOp_after {y : Nat} {w : BitVec 32} {fp : Bool} (h : s.mem.wf = true) :
    After (fun _ => True) (fun t => t.mem.wf = true) (hartStoreOp s y w fp) := by
  simp [hartStoreOp, hartWrite_after, h]

theorem hartAtomic_after {y : Nat} {w : BitVec 32} (h : s.mem.wf = true) :
    After (fun _ => True) (fun t => t.mem.wf = true) (hartAtomic s y w) := by
  have load {n : Nat} {a : Word} : After (fun _ => True) (fun r => r.2.mem.wf = true) (hartRead s y a n) :=
    hartRead_after (P := (·.wf = true)) h
  unfold hartAtomic
  dsimp only
  generalize (if field w 12 3 = 2 then 4 else 8) = n
  refine after_ite.mpr ⟨fun _ => trivial, fun _ => after_ite.mpr ⟨fun _ => ?_, fun _ =>
    after_ite.mpr ⟨fun _ => trivial, fun _ => after_ite.mpr ⟨fun _ => ?_, fun _ => ?_⟩⟩⟩⟩
  · refine after_ite.mpr ⟨fun _ => trivial, fun _ => after_ite.mpr ⟨fun _ => trivial, fun _ => ?_⟩⟩
    exact load.bind fun r hr => hr
  · refine after_ite.mpr ⟨fun _ => ?_, fun _ => after_ite.mpr ⟨fun _ => trivial, fun _ => h⟩⟩
    exact (hartWrite_after h).bind fun t ht => ht
  · split
    · trivial
    · refine after_ite.mpr ⟨fun _ => trivial, fun _ => after_ite.mpr ⟨fun _ => trivial, fun _ => ?_⟩⟩
      exact load.bind fun r hr => (hartWrite_after hr).bind fun t ht => ht

theorem hartExec_after {y : Nat} {w : BitVec 32} {next : Word} (h : s.mem.wf = true) :
    After (fun _ => True) (fun t => t.mem.wf = true) (hartExec s y w next) := by
  have load {fp : Bool} : After (fun _ => True) (fun t => t.mem.wf = true) (hartLoadOp s y w fp) :=
    hartLoadOp_after (P := (·.wf = true)) h
  have csr : After (fun _ => True) (fun t => t.mem.wf = true) (hartCsr s y w) := hartCsr_after (P := (·.wf = true)) h
  have sys : After (fun _ => True) (fun t => t.mem.wf = true) (hartSystem s y w next) :=
    hartSystem_after (P := (·.wf = true)) h
  unfold hartExec
  dsimp only
  split
  · exact load.bind fun _ ht => ht
  · exact load.bind fun _ ht => ht
  · exact (hartStoreOp_after h).bind fun _ ht => ht
  · exact (hartStoreOp_after h).bind fun _ ht => ht
  · exact (hartAtomic_after h).bind fun _ ht => ht
  · simp [h]
  · exact h
  · simp [h]
  · split <;> simp [h]
  · refine after_ite.mpr ⟨fun _ => sys, fun _ => after_ite.mpr ⟨fun _ => trivial, fun _ => ?_⟩⟩
    exact csr.bind fun _ ht => ht
  · split <;> simp [h]
  · refine after_ite.mpr ⟨fun _ => ?_, fun _ => ?_⟩ <;> split <;> simp [h]

theorem hartRun_after {y : Nat} (h : s.mem.wf = true) : After (fun _ => True) (fun t => t.mem.wf = true) (hartRun s y) := by
  unfold hartRun
  refine after_bind.mpr (after_value fun _ => after_ite.mpr ⟨fun _ => ?_, fun _ => ?_⟩)
  · exact after_bind.mpr (after_value fun _ => hartExec_after h)
  · split
    · exact hartExec_after h
    · trivial

theorem State.hartTurn_wf {y : Nat} (h : s.mem.wf = true) : (s.hartTurn y).mem.wf = true := by
  have hr := hartRun_after (y := y) h
  unfold State.hartTurn
  split
  · exact h
  split
  · simpa using h
  · split
    · next he => rw [he] at hr; exact hr
    · simpa using h
    · exact h

theorem State.agentTurn_wf {a : AgentTurn} (h : s.mem.wf = true) : (s.agentTurn a).mem.wf = true := by
  unfold State.agentTurn
  split
  · exact h
  cases a with
  | copyWord b n w => exact State.copyWord_wf h
  | circuitWords p c ws => exact State.circuitWords_wf h
  | circuitError src => exact State.circuitError_wf h
  | upset a u => exact State.upsetAt_wf h
  | hart y => exact State.hartTurn_wf h
  | eagFetch | slot | circuitAck | arbiterFails | accUpset | upsetLocal => simpa [State.agentActs] using h

end

end Sys2Proof.Machine
end

section
/-! SUPPORT. Services, loads and power keep the canonical form, and every operation that writes memory does. -/

namespace Sys2Proof.Machine

open Sys2Proof

section
variable {s : State}

/-! ### Records that services write -/

theorem State.writeRecords_wf {dom : BitVec 12} {va : Nat} {ws : List Word} (h : s.mem.wf = true) :
    (s.writeRecords dom va ws).mem.wf = true :=
  foldl_wf _ (fun s _ hs => s.writeRecord_wf _ _ _ hs) _ _ h

theorem State.writeSignature_wf {dom : BitVec 12} {va leaf : Nat} {body : List Word} (h : s.mem.wf = true) :
    (s.writeSignature dom va leaf body).mem.wf = true := by
  unfold State.writeSignature
  extract_lets sig b t
  have ht : t.mem.wf = true := foldl_wf _ (fun s _ hs => s.writeRecord_wf _ _ _ hs) _ _ h
  generalize bytesWord ((upto 4).map fun i => b (2816 + i)) = v
  generalize va + 2816 = a
  exact t.putBytes_wf dom a 4 v ht

theorem State.writeResult_wf {dom : BitVec 12} {va st n : Nat} {w : Option Nat} (h : s.mem.wf = true) :
    (s.writeResult dom va st n w).mem.wf = true := s.writeRecord_wf _ _ _ h

/-! ### Loads, cuts and restores -/

theorem Plan.regionData_wf {p : Plan} {r : Nat} (h : s.mem.wf = true) : (p.regionData s r).mem.wf = true := by
  unfold Plan.regionData
  split
  · exact h
  · refine foldl_wf _ (fun s u hs => ?_) _ _ (foldl_wf _ (fun s y hs => ?_) _ _ h)
    · dsimp only
      split
      · simpa using s.gwrite_wf _ _ _ false hs
      · exact s.gwrite_wf _ _ _ _ hs
    · dsimp only
      split
      · simpa using s.gwrite_wf _ _ _ false hs
      · exact s.gwrite_wf _ _ _ _ hs

theorem Plan.regions_wf {p : Plan} (h : s.mem.wf = true) : (p.regions s).mem.wf = true := by
  refine foldl_wf _ (fun s r hs => ?_) _ _ h
  split
  · exact hs
  · exact Plan.regionData_wf (State.mapPages_wf _ _ _ _ _ _ hs)

theorem State.finishCut_wf {n : Nat} {g : Graph} {cut : BitVec 32} {sp : List (Nat × Nat)} (h : s.mem.wf = true) :
    (s.finishCut n g cut sp).mem.wf = true := by
  unfold State.finishCut
  dsimp only
  rw [State.setGraph_mem, State.releaseCells_mem, State.freeCircuits_mem, foldl_mem _ (fun s e => s.setEag_mem e _),
    foldl_mem _ (fun s n => s.setXgroup_mem n _), State.swapRows_mem, foldl_mem _ State.cleanPage_mem]
  exact s.writeCutRecord_wf _ _ _ _ h

theorem State.cutStep_wf {n : Nat} {g : Graph} {sp : List (Nat × Nat)} (h : s.mem.wf = true) :
    (s.cutStep n g sp).1.mem.wf = true := by
  unfold State.cutStep
  split
  · simpa using h
  · have hm : (g.eags.foldl State.eagMarker s).mem.wf = true := by rw [foldl_mem _ State.eagMarker_mem]; exact h
    dsimp only
    split
    · exact State.finishCut_wf hm
    · exact hm

theorem Plan.restore_wf {p : Plan} {g : Graph} {r : CutRec} {old : Plan}
    {units : List (Nat × UnitRec × (Nat → Option Nat) × (Nat → Option Nat))} (h : s.mem.wf = true) :
    (p.restore s g r old units).mem.wf = true := by
  unfold Plan.restore
  extract_lets s1 s2 s3 cellNow s4 s5 s6
  have h4 : s4.mem.wf = true := by
    unfold s4 s3 s2 s1
    rw [foldl_mem _ (fun s x => s.setEag_mem _ _), foldl_mem, Plan.restoreRoot_mem, foldl_mem _ (fun s x => s.modCell_mem _ _)]
    · exact h
    · intro s x
      split <;> rfl
  have h5 : s5.mem.wf = true := by
    unfold s5
    split
    · exact foldl_wf _ State.restorePage_wf _ _ h4
    · exact h4
  rw [foldl_mem _ (fun s x => s.resumeCell_mem _ _), Plan.unspillAll_mem]
  exact h5

/-- A graph that is configured before its memory is written. -/
theorem Plan.apply_wf {p : Plan} {t : State} (h : s.mem.wf = true) (ht : p.apply s = .ok t) : t.mem.wf = true := by
  have ha := Plan.apply_after (P := (·.wf = true)) (p := p) h
  rw [ht] at ha
  exact ha

theorem Plan.runAgain_onMem {p : Plan} {x : Request} {g : Graph} (h : s.mem.wf = true) :
    (p.runAgain s x g).OnMem (·.wf = true) := by
  unfold Plan.runAgain
  refine Answer.onMem_ite.mpr ⟨fun _ => h, fun _ => ?_⟩
  split
  · exact State.writeResult_wf h
  · next t ht =>
    have hw := Plan.apply_wf h ht
    refine Answer.onMem_ite.mpr ⟨fun _ => h, fun _ => State.writeResult_wf ?_⟩
    simpa using hw

theorem Plan.run_onMem {p : Plan} {x : Request} (h : s.mem.wf = true) : (p.run s x).OnMem (·.wf = true) := by
  unfold Plan.run
  dsimp only
  split
  · exact State.writeResult_wf h
  split
  · exact Plan.runAgain_onMem h
  · refine Answer.onMem_ite.mpr ⟨fun _ => h, fun _ => ?_⟩
    split
    · exact State.writeResult_wf h
    · next t ht =>
      have hw := Plan.apply_wf h ht
      refine Answer.onMem_ite.mpr ⟨fun _ => h, fun _ => State.writeResult_wf ?_⟩
      simpa using Plan.regions_wf hw

/-! ### Power -/

theorem State.bootLinks_wf {up : List (Nat × Nat)} (h : s.mem.wf = true) : (s.bootLinks up).mem.wf = true := by
  refine Memory.wf_filter _ _ ?_
  rw [foldl_mem]
  · exact h
  · intro s p
    dsimp only
    split
    · rfl
    split
    · split
      · rfl
      · simp
    · simp

/-! ## The operations that write memory -/

theorem execQueueMessageArrival_onNext {src : Src} (h : s.mem.wf = true) :
    OnNext (·.wf = true) (execQueueMessageArrival src s) := State.moveMessage_wf h

theorem execQuiesceArrival_onNext {src : Src} (h : s.mem.wf = true) : OnNext (·.wf = true) (execQuiesceArrival src s) := by
  unfold execQuiesceArrival
  exact onNext_ite.mpr ⟨fun _ => h, fun _ => State.reach_wf h⟩

theorem execCopyCompletion_onNext {b n : Nat} (h : s.mem.wf = true) : OnNext (·.wf = true) (execCopyCompletion b n s) := by
  unfold execCopyCompletion
  split
  · exact h
  · next m _ =>
    have hm := foldl_wf (fun s w => s.moveWord b m.cell m.tok.seq w) (fun _ _ hs => State.moveWord_wf hs) (upto m.size) s h
    dsimp only
    split
    · rw [onNext_next]
      split
      · simpa using hm
      · exact hm
    · exact hm

theorem execExchangePhaseStart_onNext {gn : Nat} (h : s.mem.wf = true) :
    OnNext (·.wf = true) (execExchangePhaseStart gn s) := by
  unfold execExchangePhaseStart
  dsimp only
  split
  · exact h
  · refine onNext_ite.mpr ⟨fun _ => h, fun _ => onNext_ite.mpr ⟨fun _ => State.endFills_wf h, fun _ =>
      onNext_ite.mpr ⟨fun _ => h, fun _ => ?_⟩⟩⟩
    rw [onNext_next, foldl_mem _ (fun s x => s.sendX_mem _ _)]
    simpa using h

theorem execExchangePairEnd_onNext {gn k : Nat} (h : s.mem.wf = true) : OnNext (·.wf = true) (execExchangePairEnd gn k s) := by
  unfold execExchangePairEnd
  extract_lets g
  split
  · exact h
  split
  · exact h
  · refine onNext_ite.mpr ⟨fun _ => h, fun _ => ?_⟩
    extract_lets n s1
    have h1 : s1.mem.wf = true := by
      unfold s1
      split
      · exact again_wf (fun t ht => by simpa using ht) n s h
      · exact h
    split
    · exact h1
    · extract_lets s2
      have h2 : s2.mem.wf = true := State.fillAll_wf (again_wf (fun _ ht => State.takePiece_wf ht) _ s1 h1)
      split
      · exact h2
      · refine onNext_ite.mpr ⟨fun _ => h2, fun _ => ?_⟩
        split <;> simpa using h2

theorem tileOp_onNext {kinds : AccKind → Bool} {more : Bool} {k n : Nat} (h : s.mem.wf = true) :
    OnNext (·.wf = true) (tileOp kinds more k n s) := by
  unfold tileOp
  dsimp only
  split
  · exact h
  split
  · exact h
  · refine onNext_ite.mpr ⟨fun _ => h, fun _ => onNext_ite.mpr ⟨fun _ => ?_, fun _ => ?_⟩⟩
    · simpa using h
    split
    · exact h
    · simpa using h
    · refine onNext_ite.mpr ⟨fun _ => ?_, fun _ => onNext_ite.mpr ⟨fun _ => ?_, fun _ =>
        onNext_ite.mpr ⟨fun _ => h, fun _ => State.performAcc_wf h⟩⟩⟩ <;> simpa using h

theorem execTileWrite_onNext {src : TileSrc} (h : s.mem.wf = true) : OnNext (·.wf = true) (execTileWrite src s) := by
  cases src with
  | cell c k =>
    unfold execTileWrite
    exact tileOp_onNext h
  | comb b k =>
    unfold execTileWrite
    dsimp only
    split
    · exact h
    · simp [h, State.performEntry_wf]

theorem execParityRebuildDone_onNext {g : ParityGroup} (h : s.mem.wf = true) :
    OnNext (·.wf = true) (execParityRebuildDone g s) := by
  unfold execParityRebuildDone
  split
  · refine onNext_ite.mpr ⟨fun _ => h, fun _ => ?_⟩
    dsimp only
    split
    · rw [onNext_next, foldl_mem _ (fun s x => s.rebuildLocal_mem ..)]
      exact h
    · exact foldl_wf _ (fun _ _ hs => State.rebuildVault_wf hs) _ _ h
  · exact h

theorem execInvalidateAck_onNext {c : CacheId} (h : s.mem.wf = true) : OnNext (·.wf = true) (execInvalidateAck c s) :=
  State.finishChanges_wf h

theorem execHostMemRequest_onNext {p : Nat} {r : HostReq} (h : s.mem.wf = true) :
    OnNext (·.wf = true) (execHostMemRequest p r s) := by
  unfold execHostMemRequest
  dsimp only
  refine onNext_ite.mpr ⟨fun _ => h, fun _ => ?_⟩
  split
  · exact h
  · refine onNext_ite.mpr ⟨fun _ => ?_, fun _ => onNext_ite.mpr ⟨fun _ => h, fun _ =>
      onNext_ite.mpr ⟨fun _ => ?_, fun _ => ?_⟩⟩⟩
    · rw [onNext_next, State.record_mem]
      split <;> simpa using h
    · exact State.performHost_wf h
    · simpa using h

theorem execOwnershipToHost_onNext {r : Nat} (h : s.mem.wf = true) : OnNext (·.wf = true) (execOwnershipToHost r s) := by
  unfold execOwnershipToHost
  dsimp only
  refine onNext_ite.mpr ⟨fun _ => h, fun _ => onNext_ite.mpr ⟨fun _ => by simpa using h, fun _ => ?_⟩⟩
  refine foldl_wf _ (fun s x hs => ?_) _ _ h
  split
  · exact State.performHost_wf hs
  · exact hs

theorem execBackInvalidateComplete_onNext {r : Nat} {d : List (Nat × BitVec 512)} (h : s.mem.wf = true) :
    OnNext (·.wf = true) (execBackInvalidateComplete r d s) := by
  unfold execBackInvalidateComplete
  dsimp only
  refine onNext_ite.mpr ⟨fun _ => h, fun _ => ?_⟩
  exact foldl_wf _ (fun _ _ hs => State.performHeld_wf hs) _ _ (foldl_wf _ (fun _ _ hs => State.setLine_wf hs) _ _ h)

theorem execPacketDelivery_onNext {m : Nat} {vc : BitVec 2} {op : PacketOp} (h : s.mem.wf = true) :
    OnNext (·.wf = true) (execPacketDelivery m vc op s) := by
  unfold execPacketDelivery
  dsimp only
  split
  · exact h
  · refine onNext_ite.mpr ⟨fun _ => h, fun _ => ?_⟩
    split
    · simpa using h
    · next t ht =>
      have hw := State.deliver_wf h ht
      rw [onNext_next]
      split <;> simpa using hw

theorem execRmWindowWrite_onNext {row a : Nat} {v : Word} (h : s.mem.wf = true) :
    OnNext (·.wf = true) (execRmWindowWrite row a v s) := by
  have hw := State.writeWindow_onMem (row := row) (a := a) (v := v) h
  unfold execRmWindowWrite
  refine onNext_ite.mpr ⟨fun _ => by simpa using h, fun _ => ?_⟩
  split
  · next he => rw [he] at hw; exact hw
  · simpa using h
  · simpa using h
  · exact h

/-! The services -/

theorem execAlloc_onNext {id : CallId} {cs : List PageChoice} (h : s.mem.wf = true) :
    OnNext (·.wf = true) (execAlloc id cs s) :=
  serve_onNext (P := (·.wf = true)) h fun _ => by simp [h, State.mapPages_wf]

theorem execFree_onNext {id : CallId} (h : s.mem.wf = true) : OnNext (·.wf = true) (execFree id s) :=
  serve_onNext (P := (·.wf = true)) h fun _ => Answer.onMem_ite.mpr ⟨fun _ => h, fun _ => by
    split
    · exact h
    · exact State.beginChange_wf h⟩

theorem execProt_onNext {id : CallId} (h : s.mem.wf = true) : OnNext (·.wf = true) (execProt id s) :=
  serve_onNext (P := (·.wf = true)) h fun _ => Answer.onMem_ite.mpr ⟨fun _ => h, fun _ => by
    split
    · exact h
    · exact State.beginChange_wf h⟩

theorem execMigrate_onNext {id : CallId} {pa : Nat} (h : s.mem.wf = true) : OnNext (·.wf = true) (execMigrate id pa s) :=
  serve_onNext (P := (·.wf = true)) h fun _ => Answer.onMem_ite.mpr ⟨fun _ => h, fun _ => by
    dsimp only
    split
    · exact h
    · simp [h, State.beginChange_wf]⟩

theorem execLoad_onNext {id : CallId} {img : Image} {pl : Placement} (h : s.mem.wf = true) :
    OnNext (·.wf = true) (execLoad id img pl s) :=
  serve_onNext (P := (·.wf = true)) h fun _ => State.withBlock_onMem (P := (·.wf = true)) h fun b => by
    split
    · exact h
    · exact Answer.onMem_ite.mpr ⟨fun _ => h, fun _ => Plan.run_onMem h⟩

theorem execCut_onNext {id : CallId} {sp : List (Nat × Nat)} (h : s.mem.wf = true) : OnNext (·.wf = true) (execCut id sp s) :=
  serve_onNext (P := (·.wf = true)) h fun x => onGraph_onMem (P := (·.wf = true)) h fun g =>
    Answer.onMem_ite.mpr ⟨fun _ => h, fun _ => by
      have hc := State.cutStep_wf (n := uns x.arg) (g := g) (sp := sp) h
      split <;> next he => rw [he] at hc; exact hc⟩

theorem execResume_onNext {id : CallId} {pl : Placement} (h : s.mem.wf = true) : OnNext (·.wf = true) (execResume id pl s) :=
  serve_onNext (P := (·.wf = true)) h fun x => onGraph_onMem (P := (·.wf = true)) h fun g => by
    split
    · exact h
    · refine Answer.onMem_ite.mpr ⟨fun _ => h, fun _ => Answer.onMem_ite.mpr ⟨fun _ => h, fun _ =>
        Answer.onMem_ite.mpr ⟨fun _ => h, fun _ => ?_⟩⟩⟩
      split
      · exact h
      · next t ht =>
        have hw := Plan.apply_wf h ht
        refine Answer.onMem_ite.mpr ⟨fun _ => h, fun _ => ?_⟩
        simpa using Plan.restore_wf hw

theorem execReplace_onNext {id : CallId} {sp : List (Nat × Nat)} {img : Image} {pl : Placement} (h : s.mem.wf = true) :
    OnNext (·.wf = true) (execReplace id sp img pl s) :=
  serve_onNext (P := (·.wf = true)) h fun x => State.withBlock_onMem (P := (·.wf = true)) h fun b => by
    split
    · exact h
    · refine onGraph_onMem (P := (·.wf = true)) h fun g => ?_
      dsimp only
      split
      · exact State.writeResult_wf h
      · refine Answer.onMem_ite.mpr ⟨fun _ => h, fun _ =>
          Answer.onMem_ite.mpr ⟨fun _ => State.cutStep_wf h, fun _ => ?_⟩⟩
        split
        · exact h
        · refine Answer.onMem_ite.mpr ⟨fun _ => h, fun _ => ?_⟩
          split
          · exact State.writeResult_wf h
          · next t ht =>
            have hw := Plan.apply_wf h ht
            refine Answer.onMem_ite.mpr ⟨fun _ => h, fun _ => State.writeResult_wf ?_⟩
            rw [State.modSvc_mem, State.setGraph_mem, foldl_mem _ State.startCell_mem]
            exact Plan.restore_wf (Plan.regions_wf hw)

theorem execAttest_onNext {id : CallId} (h : s.mem.wf = true) : OnNext (·.wf = true) (execAttest id s) :=
  serve_onNext (P := (·.wf = true)) h fun x => State.withRecord_onMem (P := (·.wf = true)) h fun fixed => by
    split
    · exact h
    · refine Answer.onMem_ite.mpr ⟨fun _ => h, fun _ => State.withRecord_onMem (P := (·.wf = true)) h fun req => ?_⟩
      split
      · exact h
      · refine Answer.onMem_ite.mpr ⟨fun _ => h, fun _ => Answer.onMem_ite.mpr ⟨fun _ => h, fun _ => ?_⟩⟩
        exact State.writeSignature_wf (State.writeRecords_wf h)

/-! Loss and return of power -/

theorem execPowerFailure_onNext (_ : s.mem.wf = true) : OnNext (·.wf = true) (execPowerFailure s) := rfl

theorem execPowerOn_onNext {f : PowerFacts} (h : s.mem.wf = true) : OnNext (·.wf = true) (execPowerOn f s) := by
  have h0 : (s.unpowered.setPwr {}).mem.wf = true := rfl
  unfold execPowerOn
  dsimp only
  refine onNext_ite.mpr ⟨fun _ => h, fun _ => onNext_ite.mpr ⟨fun _ => ?_, fun _ => onNext_ite.mpr ⟨fun _ => ?_, fun _ =>
    onNext_ite.mpr ⟨fun _ => h, fun _ => onNext_ite.mpr ⟨fun _ => ?_, fun _ => ?_⟩⟩⟩⟩⟩
  · simpa using h0
  · simpa using h0
  · rw [onNext_next, State.bootFails_mem, State.bootStep_mem, foldl_mem _ (fun s x => s.setRow_mem ..), State.bootStep_mem]
    exact h0
  · rw [onNext_next, State.bootStep_mem, State.modSvc_mem, State.bootStep_mem, foldl_mem _ (fun s x => s.setRow_mem ..),
      State.bootStep_mem]
    exact h0

theorem execFwgo_onNext {f : BringUp} (h : s.mem.wf = true) : OnNext (·.wf = true) (execFwgo f s) := by
  unfold execFwgo
  dsimp only
  refine onNext_ite.mpr ⟨fun _ => h, fun _ => onNext_ite.mpr ⟨fun _ => by simpa using h, fun _ => ?_⟩⟩
  generalize hl : State.bootLinks _ _ = t
  have ht : t.mem.wf = true := by
    rw [← hl]
    exact State.bootLinks_wf (by simpa using h)
  refine onNext_ite.mpr ⟨fun _ => by simpa using ht, fun _ => onNext_ite.mpr ⟨fun _ => by simpa using ht, fun _ => ?_⟩⟩
  rw [onNext_next, State.bootStep_mem, foldl_mem _ (fun s x => s.trainHost_mem _ _)]
  simpa using ht

end

end Sys2Proof.Machine
end

section
/-! Every operation, every turn and so every step keeps the canonical form of the memory (O60). -/

namespace Sys2Proof.Machine

open Sys2Proof

/-- What holds of the module's memory before an instruction of a cell holds of it after: none of them changes it (R17, R42).
`delta` opens the dispatch without the equations of its 346 arms. -/
theorem exec_onNext_of_isCell {P : Memory → Prop} {i : Instr} {s : State} (hi : i.isCell = true) (hs : P s.mem) :
    OnNext P (exec i s) := by
  delta exec
  cases i with
  | nop => exact execNop_onNext hs
  | sel => exact execSel_onNext hs
  | modw => exact execModw_onNext hs
  | movi => exact execMovi_onNext hs
  | lea => exact execLea_onNext hs
  | br => exact execBr_onNext hs
  | call => exact execCall_onNext hs
  | ret => exact execRet_onNext hs
  | stl => exact execStl_onNext hs
  | svc => exact execSvc_onNext hs
  | trap => exact execTrap_onNext hs
  | brk => exact execBrk_onNext hs
  | rettRetry => exact execRettRetry_onNext hs
  | rettEnd => exact execRettEnd_onNext hs
  | done => exact execDone_onNext hs
  | rdsys => exact execRdsys_onNext hs
  | push => exact execPush_onNext hs
  | pushl => exact execPushl_onNext hs
  | popl => exact execPopl_onNext hs
  | qbind => exact execQbind_onNext hs
  | qtagOut => exact execQtagOut_onNext hs
  | qtagIn => exact execQtagIn_onNext hs
  | qstk => exact execQstk_onNext hs
  | qskip => exact execQskip_onNext hs
  | qwaitn => exact execQwaitn_onNext hs
  | qdiv => exact execQdiv_onNext hs
  | qsleep => exact execQsleep_onNext hs
  | qmark => exact execQmark_onNext hs
  | qflush => exact execQflush_onNext hs
  | ccfgLim => exact execCcfgLim_onNext hs
  | ccfgMode => exact execCcfgMode_onNext hs
  | cstart => exact execCstart_onNext hs
  | cstop => exact execCstop_onNext hs
  | cread => exact execCread_onNext hs
  | rngrd => exact execRngrd_onNext hs
  | eagcfgW => exact execEagcfgW_onNext hs
  | eagcfgR => exact execEagcfgR_onNext hs
  | sinc => exact execSinc_onNext hs
  | sset => exact execSset_onNext hs
  | srd => exact execSrd_onNext hs
  | swait => exact execSwait_onNext hs
  | swaitd => exact execSwaitd_onNext hs
  | evwaitB => exact execEvwaitB_onNext hs
  | evwaitE => exact execEvwaitE_onNext hs
  | evsig => exact execEvsig_onNext hs
  | evlock => exact execEvlock_onNext hs
  | evunlk => exact execEvunlk_onNext hs
  | vsetl => exact execVsetl_onNext hs
  | pstat => exact execPstat_onNext hs
  | mgang => exact execMgang_onNext hs
  | mscl => exact execMscl_onNext hs
  | msclRd => exact execMsclRd_onNext hs
  | mstat => exact execMstat_onNext hs
  | mcut => exact execMcut_onNext hs
  | mcutOff => exact execMcutOff_onNext hs
  | mleaveRsv => exact execMleaveRsv_onNext hs
  | mleaveRel => exact execMleaveRel_onNext hs
  | msync => exact execMsync_onNext hs
  | xpost => exact execXpost_onNext hs
  | xgrant => exact execXgrant_onNext hs
  | xsend => exact execXsend_onNext hs
  | xdone => exact execXdone_onNext hs
  | xstat => exact execXstat_onNext hs
  | reinj => exact execReinj_onNext hs
  | wdogSet => exact execWdogSet_onNext hs
  | wdogOff => exact execWdogOff_onNext hs
  | unassignedOpcode => exact execUnassignedOpcode_onNext hs
  | add | sub | adds | mul | mulh | mulhn | div | divn | rem | remn | andR | orR | xorR | shl | shr | sra | rotl | min |
    max | minn | maxn | ceq | clt | cltn =>
    exact aluR_onNext hs
  | clz | popc => exact aluR1_onNext hs
  | addi | andi | ori | xori | shli | shri | srai | movhi => exact aluI_onNext hs
  | bz | bnz | blz | bgez => exact condBranch_onNext hs
  | loopn => exact execLoopn_onNext hs
  | ldl => exact execLdl_onNext hs
  | rettNext | rettRedo => exact rett_onNext hs
  | wrsys => exact execWrsys_onNext hs
  | pop | peek => exact popPeek_onNext hs
  | qlen | qroom | qseq => exact portValue_onNext hs fun _ _ _ => by simp
  | cpy | cpys | cpyg | cpyd => exact copyIssue_onNext hs
  | eaggoStart | eaggoResume => exact eagGo_onNext hs
  | eaggoStop => exact execEaggoStop_onNext hs
  | ldg | ldf | ald => exact gload_onNext hs
  | stg | stf => exact gstore_onNext hs
  | clrf => exact execClrf_onNext hs
  | aadd | afadd | amin | amax | axchg | acas | aor | aand => exact atomic_onNext hs
  | fence => exact execFence_onNext hs
  | evarr => exact execEvarr_onNext hs
  | evcmb => exact execEvcmb_onNext hs
  | vadd | vsub | vmul | vfma | vfms | vdiv | vsqrt | vrcp | vexp2 | vsig | vmin | vmax | vabs | vneg | vcmp | vsel | vand
    | vor | vxor | vshl | vshr | vsra | vcvt | vsdc | vsde | vsdd | vldl | vstl | vgath | vscat | vbcast | vext | vred |
    vscan | vperm | viota | viotaCnt | vmovp | vmovpRd | vmovpWr | vpopq | vpushq =>
    exact vecIssue_onNext hs
  | pori2 | pori3 | pinci | pinsp | psegx => exact predIssue_onNext hs
  | mread | mclr | mfill | mswap => exact transfer_onNext hs
  | qfwd => exact execQfwd_onNext hs
  | parkCut => exact execParkCut_onNext hs
  | parkSelf => exact execParkSelf_onNext hs
  | ptestDom | ptestCell => exact ptest_onNext hs
  | _ => exact nomatch hi

/-- The operations outside the cells write memory by the rules of its writers, or not at all. -/
theorem exec_onNext_of_not_isCell {i : Instr} {s : State} (hi : i.isCell = false) (h : s.mem.wf = true) :
    OnNext (·.wf = true) (exec i s) := by
  delta exec
  cases i with
  | write | mark | clrerr => exact runWrite_onNext h
  | base => exact execBase_onNext h
  | wide => exact runCommand_onNext (P := (·.wf = true)) h fun _ _ ht => writeField_after (P := (·.wf = true)) ht
  | cfgReservedCommand => exact runCommand_onNext (P := (·.wf = true)) h fun _ _ _ => trivial
  | start => exact execStart_onNext h
  | istore => exact execIstore_onNext h
  | lstore => exact execLstore_onNext h
  | mdlsel => exact execMdlsel_onNext h
  | mdllanes => exact execMdllanes_onNext h
  | loadStart => exact execLoadStart_onNext h
  | loadMark => exact execLoadMark_onNext h
  | phaseReturn | borrowRequest => exact phaseTurn_onNext h
  | borrowGrantDeferred => exact execBorrowGrantDeferred_onNext h
  | taskDispatch => exact execTaskDispatch_onNext h
  | priorityAging => exact execPriorityAging_onNext h
  | taskWake => exact execTaskWake_onNext h
  | watchdogSleepLimit => exact execWatchdogSleepLimit_onNext h
  | istoreFetchError => exact execIstoreFetchError_onNext h
  | svcReply => exact execSvcReply_onNext h
  | counterChainEmit => exact execCounterChainEmit_onNext h
  | queueMessageArrival => exact execQueueMessageArrival_onNext h
  | queueMessageStoreDeferred => exact execQueueMessageStoreDeferred_onNext h
  | quiesceArrival => exact execQuiesceArrival_onNext h
  | wordAck => exact execWordAck_onNext h
  | wordNack => exact execWordNack_onNext h
  | suspendedResend => exact execSuspendedResend_onNext h
  | laggardTimeout => exact execLaggardTimeout_onNext h
  | copyStart => exact execCopyStart_onNext h
  | copyCompletion => exact execCopyCompletion_onNext h
  | eagElementCommit => exact execEagElementCommit_onNext h
  | tileRead | tileFill | tileClrf | tileAtomic | deferredReadRetry => exact tileOp_onNext h
  | tileWrite => exact execTileWrite_onNext h
  | accessReply => exact execAccessReply_onNext h
  | combineFlushTimeout => exact execCombineFlushTimeout_onNext h
  | parityRebuildDone => exact execParityRebuildDone_onNext h
  | backgroundScrub => exact execBackgroundScrub_onNext h
  | translationMissRequest => exact execTranslationMissRequest_onNext h
  | translationFill => exact execTranslationFill_onNext h
  | translationInvalidate => exact execTranslationInvalidate_onNext h
  | invalidateAck => exact execInvalidateAck_onNext h
  | hostMemRequest => exact execHostMemRequest_onNext h
  | ownershipToHost => exact execOwnershipToHost_onNext h
  | backInvalidateComplete => exact execBackInvalidateComplete_onNext h
  | ownerHoldExpiry => exact execOwnerHoldExpiry_onNext h
  | eventApply => exact execEventApply_onNext h
  | eventUpMessage => exact execEventUpMessage_onNext h
  | eventDownMessage => exact execEventDownMessage_onNext h
  | eventParentFire => exact execEventParentFire_onNext h
  | vectorPortStart => exact execVectorPortStart_onNext h
  | vectorCompletion => exact execVectorCompletion_onNext h
  | predicateReadPhase => exact execPredicateReadPhase_onNext h
  | predicateHandoff => exact execPredicateHandoff_onNext h
  | stageBSettle => exact execStageBSettle_onNext h
  | stageCBurstStart => exact execStageCBurstStart_onNext h
  | stageCLaneSettle => exact execStageCLaneSettle_onNext h
  | predicateCompletion => exact execPredicateCompletion_onNext h
  | groupFormation => exact execGroupFormation_onNext h
  | gangLeaveRequest => exact execGangLeaveRequest_onNext h
  | gangStart => exact execGangStart_onNext h
  | gangCompletion => exact execGangCompletion_onNext h
  | matrixTransferComplete => exact execMatrixTransferComplete_onNext h
  | xaPostArrival => exact execXaPostArrival_onNext h
  | xpostAck => exact execXpostAck_onNext h
  | roundDeadline => exact execRoundDeadline_onNext h
  | calendarWrite => exact execCalendarWrite_onNext h
  | exchangePhaseStart => exact execExchangePhaseStart_onNext h
  | exchangePairEnd => exact execExchangePairEnd_onNext h
  | xdoneComplete => exact execXdoneComplete_onNext h
  | xaHeartbeat => exact execXaHeartbeat_onNext h
  | xaStandbyTakeover => exact execXaStandbyTakeover_onNext h
  | linkTrain => exact execLinkTrain_onNext h
  | flitReceive => exact execFlitReceive_onNext h
  | linkReplayRequest => exact execLinkReplayRequest_onNext h
  | packetDelivery => exact execPacketDelivery_onNext h
  | packetAck => exact execPacketAck_onNext h
  | routeSwitch => exact execRouteSwitch_onNext h
  | routeTableWrite => exact execRouteTableWrite_onNext h
  | cutParkComplete => exact execCutParkComplete_onNext h
  | rmWatchdogExpiry => exact execRmWatchdogExpiry_onNext h
  | cctlPark => exact execCctlPark_onNext h
  | rmParkEffect => exact execRmParkEffect_onNext h
  | cctlResume => exact execCctlResume_onNext h
  | cctlAbort => exact execCctlAbort_onNext h
  | oraReattach => exact execOraReattach_onNext h
  | rmWindowWrite => exact execRmWindowWrite_onNext h
  | faultQueuePop => exact execFaultQueuePop_onNext h
  | mtstatReadClear => exact execMtstatReadClear_onNext h
  | sinkReplay => exact execSinkReplay_onNext h
  | sharedControlError => exact execSharedControlError_onNext h
  | heartbeatTick => exact execHeartbeatTick_onNext h
  | rowManagerTakeover => exact execRowManagerTakeover_onNext h
  | gateForward => exact execGateForward_onNext h
  | serviceBadFunc => exact execServiceBadFunc_onNext h
  | alloc => exact execAlloc_onNext h
  | free => exact execFree_onNext h
  | avail | portstat | topo => exact serve_onNext (P := (·.wf = true)) h fun _ => by simp [h]
  | prot => exact execProt_onNext h
  | migrate => exact execMigrate_onNext h
  | entry => exact execEntry_onNext h
  | load => exact execLoad_onNext h
  | wait => exact execWait_onNext h
  | cut => exact execCut_onNext h
  | resume => exact execResume_onNext h
  | kill => exact execKill_onNext h
  | replace => exact execReplace_onNext h
  | fwmin => exact execFwmin_onNext h
  | attest => exact execAttest_onNext h
  | routes => exact execRoutes_onNext h
  | logWrite => exact execLogWrite_onNext h
  | logFlush => exact execLogFlush_onNext h
  | hostDoorbell => exact execHostDoorbell_onNext h
  | doorbellPush => exact execDoorbellPush_onNext h
  | iqStatClear => exact execIqStatClear_onNext h
  | hostRingWrite => exact execHostRingWrite_onNext h
  | hostBarWrite => exact execHostBarWrite_onNext h
  | hostPortTrain => exact execHostPortTrain_onNext h
  | freezePin => exact execFreezePin_onNext h
  | mdlctlFreeze => exact execMdlctlFreeze_onNext h
  | freezeStop => exact execFreezeStop_onNext h
  | frozenNotice => exact execFrozenNotice_onNext h
  | thawedNotice => exact execThawedNotice_onNext h
  | extest => exact execExtest_onNext h
  | idcode => exact execIdcode_onNext h
  | samplePreload => exact execSamplePreload_onNext h
  | mdlread => exact execMdlread_onNext h
  | mdlresume => exact execMdlresume_onNext h
  | bypass => exact execBypass_onNext h
  | pcSample => exact execPcSample_onNext h
  | traceTime => exact execTraceTime_onNext h
  | leaveGrant => exact execLeaveGrant_onNext h
  | entdaa => exact execEntdaa_onNext h
  | pcapWrite => exact execPcapWrite_onNext h
  | fwin => exact execFwin_onNext h
  | fwgo => exact execFwgo_onNext h
  | thermalThrottleTick => exact execThermalThrottleTick_onNext h
  | powerOn => exact execPowerOn_onNext h
  | taggedStructureError => exact execTaggedStructureError_onNext h
  | lossOfLink => exact execLossOfLink_onNext h
  | eagcfgReadReply => exact execEagcfgReadReply_onNext h
  | ptestReply => exact execPtestReply_onNext h
  | powerFailure => exact execPowerFailure_onNext h
  | inServiceRepair => exact execInServiceRepair_onNext h
  | _ => exact nomatch hi

section
variable {s : State}

theorem exec_wf {i : Instr} (h : s.mem.wf = true) : OnNext (·.wf = true) (exec i s) := by
  cases hi : i.isCell with
  | true => exact exec_onNext_of_isCell (P := (·.wf = true)) hi h
  | false => exact exec_onNext_of_not_isCell hi h

theorem cellTurn_wf (h : s.mem.wf = true) : OnNext (·.wf = true) (cellTurn s) := by
  unfold cellTurn
  refine onNext_ite.mpr ⟨fun _ => onNext_ite.mpr ⟨fun _ => exec_wf h, fun _ => ?_⟩, fun _ => ?_⟩ <;> simpa using h

theorem opTurn_wf {i : Instr} (h : s.mem.wf = true) : OnNext (·.wf = true) (opTurn i s) := by
  unfold opTurn
  exact onNext_ite.mpr ⟨fun _ => trivial, fun _ => onNext_ite.mpr ⟨fun _ => exec_wf h, fun _ => h⟩⟩

theorem step_wf (h : s.mem.wf = true) : OnNext (·.wf = true) (step s) := by
  unfold step
  split
  · exact cellTurn_wf h
  · exact cellTurn_wf h
  · exact opTurn_wf h
  · simpa using h
  · exact State.agentTurn_wf h
end

/-- Settles O60: every write to memory goes byte by byte through an update that keeps the form (log 1); clearing and moving a
page and the bring-up filter the list, a loss of power empties it, and nothing else touches it. -/
theorem everyStepKeepsTheMemoryCanonical : Obligations.EveryStepKeepsTheMemoryCanonical := by
  unfold Obligations.EveryStepKeepsTheMemoryCanonical
  intro s t h ht
  have hn := step_wf h
  rw [ht] at hn
  exact hn

end Sys2Proof.Machine
end
